-- ==== Sys2Proof/Word.lean ====
section
/-! DEFINITION. The word types of the device and their plainest arithmetic (01, 02, 03 of the spec). -/

namespace Sys2Proof

/-- One byte; memory and the wire are little-endian (R8). -/
abbrev Byte := BitVec 8
/-- The 64-bit word of registers, ports and CSRs. -/
abbrev Word := BitVec 64
/-- A syllable (R24). -/
abbrev Syll := BitVec 32
/-- An engine word (R256). -/
abbrev EWord := BitVec 16
/-- A vector register, 64 bytes (R16). -/
abbrev Vec := BitVec 512
/-- A long accumulator, 80 bytes (R48). -/
abbrev La := BitVec 640
/-- A five-bit register field of a syllable (R25, R26). -/
abbrev Reg := BitVec 5

/-- One as a 64-bit truth value (the results of seq, slt and their kin). -/
def boolWord (b : Bool) : Word := if b then 1 else 0

end Sys2Proof
end

