-- ==== Sys2Proof/Syntax.lean ====
section
/-! DEFINITION. The instructions, engine words and device events of the opcode table as one inductive type.
Register fields keep the encoding's widths (R25); events carry the numbers of the units they act on. Constructors
with operands stand first: Lean's runtime bounds the tag of a constructor that has fields. -/

namespace Sys2Proof

/-- One constructor per row of the opcode table. -/
inductive Instr where
  -- Register-register operations, major 0x01 (R62, R63).
  | add (d a b : Reg)
  | sub (d a b : Reg)
  | mul (d a b : Reg)
  | mulh (d a b : Reg)
  | mulhu (d a b : Reg)
  | div (d a b : Reg)
  | divu (d a b : Reg)
  | rem (d a b : Reg)
  | remu (d a b : Reg)
  | and (d a b : Reg)
  | andn (d a b : Reg)
  | or (d a b : Reg)
  | orn (d a b : Reg)
  | xor (d a b : Reg)
  | shl (d a b : Reg)
  | shr (d a b : Reg)
  | sar (d a b : Reg)
  | rotl (d a b : Reg)
  | min (d a b : Reg)
  | max (d a b : Reg)
  | minu (d a b : Reg)
  | maxu (d a b : Reg)
  | seq (d a b : Reg)
  | sne (d a b : Reg)
  | slt (d a b : Reg)
  | sltu (d a b : Reg)
  -- Select, major 0x02 (R64).
  | sel (d a b c : Reg)
  -- Immediate operations (R65).
  | addi (d a : Reg) (imm : BitVec 15)
  | andi (d a : Reg) (imm : BitVec 15)
  | ori (d a : Reg) (imm : BitVec 15)
  | xori (d a : Reg) (imm : BitVec 15)
  | muli (d a : Reg) (imm : BitVec 15)
  -- Shift and compare immediates (R66).
  | shli (d a : Reg) (sh : BitVec 6)
  | shri (d a : Reg) (sh : BitVec 6)
  | sari (d a : Reg) (sh : BitVec 6)
  | slti (d a : Reg) (imm : BitVec 12)
  | sltiu (d a : Reg) (imm : BitVec 12)
  -- Long immediates (R67).
  | li (d : Reg) (imm : BitVec 20)
  | lsi (d : Reg) (imm : BitVec 20)
  -- Bit and address operations (R68-R71).
  | clz (d a : Reg)
  | ctz (d a : Reg)
  | popc (d a : Reg)
  | bswap (d a : Reg)
  | lea (d a b : Reg) (s : BitVec 2)
  | crd (d : Reg) (n : BitVec 5)
  | bext (d a : Reg) (pos len : BitVec 6)
  | bins (d a : Reg) (pos len : BitVec 6)
  -- Branches and jumps (R72-R74, R141).
  | bZ (a : Reg) (off : BitVec 15)
  | bNz (a : Reg) (off : BitVec 15)
  | bLz (a : Reg) (off : BitVec 15)
  | bGez (a : Reg) (off : BitVec 15)
  | bGz (a : Reg) (off : BitVec 15)
  | bLez (a : Reg) (off : BitVec 15)
  | j (off : BitVec 20)
  | jal (d : Reg) (off : BitVec 20)
  | jalr (d a : Reg) (imm : BitVec 15)
  | btag (p : BitVec 1) (a : Reg)
  -- Local loads and stores (R76); f is the func field.
  | ldl (f : BitVec 3) (d a : Reg) (off : BitVec 12)
  | stl (f : BitVec 3) (d a : Reg) (off : BitVec 12)
  -- The prefix (R78) and the CSR instructions (R79).
  | pfx (v : BitVec 24)
  | csrr (d : Reg) (n : BitVec 10)
  | csrw (d : Reg) (n : BitVec 10) (a : Reg)
  | csrs (d : Reg) (n : BitVec 10) (a : Reg)
  | csrc (d : Reg) (n : BitVec 10) (a : Reg)
  -- A write to a CSR of unit u (4 * core + slot), R80.
  | registerWrite (u : Nat) (n : BitVec 10) (v : Word)
  -- Vector moves (R86).
  | vldl (d a : Reg) (k : BitVec 6)
  | vstl (d a : Reg) (k : BitVec 6)
  | vbcast (d a : Reg)
  | vext (d a b : Reg)
  | vins (d a b : Reg)
  | vmov (d a : Reg)
  -- Vector floating point (R89).
  | vaddF (d a b : Reg)
  | vsubF (d a b : Reg)
  | vmulF (d a b : Reg)
  | vfmaF (d a b : Reg)
  | vminF (d a b : Reg)
  | vmaxF (d a b : Reg)
  | vabsF (d a : Reg)
  | vnegF (d a : Reg)
  -- Vector integer (R92).
  | vaddI (d a b : Reg)
  | vsubI (d a b : Reg)
  | vmulI (d a b : Reg)
  | vminI (d a b : Reg)
  | vmaxI (d a b : Reg)
  | vand (d a b : Reg)
  | vor (d a b : Reg)
  | vxor (d a b : Reg)
  | vshl (d a b : Reg)
  | vshr (d a b : Reg)
  | vsar (d a b : Reg)
  -- Compare, select, convert (R93-R95).
  | vcmpF (cond : BitVec 3) (d a b : Reg)
  | vsel (d a b : Reg)
  | vcvt (d a : Reg) (part : BitVec 5)
  -- Approximation functions (R96).
  | vrcp (d a : Reg)
  | vrsqrt (d a : Reg)
  | vexp2 (d a : Reg)
  | vlog2 (d a : Reg)
  -- Reductions and selection (R98).
  | vredAdd (d a : Reg)
  | vscanAdd (d a : Reg)
  | vredMax (d a : Reg)
  | vredMin (d a : Reg)
  | vargmax (d a : Reg)
  | vargmin (d a : Reg)
  | vsort (d a : Reg)
  | vcompact (d a b : Reg)
  | vtopk (d a b : Reg)
  | vperm (d a b : Reg)
  | vrevd (d a b : Reg)
  -- Long-accumulator windows (R104).
  | awclr (a : Reg)
  | awin (a b : Reg)
  | awinm (a b d : Reg)
  | vawin (a b : Reg)
  | awadd (a b : Reg)
  | awrd (d a : Reg)
  -- Messages, tasks, joins (R131).
  | send (p : BitVec 1)
  | sendv (p : BitVec 1) (a b : Reg)
  | tset (d a : Reg)
  | tclr (d a : Reg)
  | tpend (d a : Reg)
  | tcreate (d a : Reg)
  | tdec (sc a b : Reg)
  | launch (d a : Reg)
  | join (d a : Reg)
  | bar (d a : Reg)
  | waitw (d a b : Reg)
  | enq (d a b : Reg)
  | deq (d a b : Reg)
  | spawna (d a : Reg)
  | scwait (sc a : Reg)
  | mbxIns (a b : Reg)
  | mbxRd (d a : Reg)
  | mbxClr (a b : Reg)
  -- Global loads and stores (R190); o is the ordering bit.
  | ldg (f : BitVec 3) (o : BitVec 1) (d a : Reg) (off : BitVec 11)
  | vldg (o : BitVec 1) (d a : Reg) (off : BitVec 11)
  | stg (f : BitVec 2) (o : BitVec 1) (d a : Reg) (off : BitVec 11)
  | vstg (o : BitVec 1) (d a : Reg) (off : BitVec 11)
  -- Coordinate-addressed access (R195).
  | ldr (f : BitVec 2) (d a : Reg) (off : BitVec 11)
  | ldrMig (f : BitVec 2) (d a : Reg) (off : BitVec 11)
  | str (f : BitVec 2) (d a : Reg) (off : BitVec 11)
  -- Atomics (R197).
  | amoAdd (size ord : BitVec 2) (nr : BitVec 1) (d a b : Reg)
  | amoAnd (size ord : BitVec 2) (nr : BitVec 1) (d a b : Reg)
  | amoOr (size ord : BitVec 2) (nr : BitVec 1) (d a b : Reg)
  | amoXor (size ord : BitVec 2) (nr : BitVec 1) (d a b : Reg)
  | amoMin (size ord : BitVec 2) (nr : BitVec 1) (d a b : Reg)
  | amoMax (size ord : BitVec 2) (nr : BitVec 1) (d a b : Reg)
  | amoMinu (size ord : BitVec 2) (nr : BitVec 1) (d a b : Reg)
  | amoMaxu (size ord : BitVec 2) (nr : BitVec 1) (d a b : Reg)
  | amoSwap (size ord : BitVec 2) (nr : BitVec 1) (d a b : Reg)
  | amoCas (size ord : BitVec 2) (nr : BitVec 1) (d a b : Reg)
  | amoIncb (size ord : BitVec 2) (nr : BitVec 1) (d a b : Reg)
  | amoFadd (size ord : BitVec 2) (nr : BitVec 1) (d a b : Reg)
  -- Fences and prefetch (R202).
  | fence (scope : BitVec 3)
  | pf (sc a : Reg)
  -- Software cache (R206).
  | tlook (d a : Reg)
  | tfill (d a b : Reg)
  | tinv (d a : Reg)
  -- Jobs (R250).
  | job (kind : BitVec 3) (d a b : Reg)
  | jobNb (kind : BitVec 3) (d a b : Reg)
  | jwait (d a : Reg)
  | jpoll (d a b : Reg)
  | jcancel (d a : Reg)
  -- Ordered mode (R230).
  | qstat (d : Reg)
  -- System functions (R353).
  | swp (d a b : Reg)
  | resume (d a b : Reg)
  | trap (n : BitVec 10)
  | park (a : Reg)
  -- Scheduling events: tasks and messages.
  | taskStart (core slot : Nat)
  | taskAging (core : Nat) (uid : Nat)
  | budgetExpiry (core slot : Nat)
  | messageDelivery (pkt : Nat)
  | heldMessageDispatch (core : Nat)
  | noticeDelivery (k : Nat)
  -- Accesses at their homes and their replies.
  | homeAccess (pkt : Nat)
  | loadReply (rid : Nat)
  | storeAck (rid : Nat)
  | remoteFaultReply (rid : Nat)
  | migrationArrival (pkt : Nat)
  | migrationTimeout (pkt : Nat)
  | guestReturn (core slot : Nat)
  -- Run-ahead, dependence records, launches, barriers, joins and waits.
  | batonReceive (chain : Nat)
  | depDecrement (pkt : Nat)
  | readyListInsert (core : Nat)
  | launchPlacement (die : Nat)
  | barrierComplete (k : Nat)
  | joinComplete (id : Nat)
  | waitwWake (pkt : Nat)
  | deqServe (pkt : Nat)
  | roundStart (id : Nat)
  | roundCommit (id : Nat)
  -- Jobs and engines.
  | jobStart (queue kind : Nat)
  | jobComplete (id : Nat)
  | jobSuccessorDecrement (k : Nat)
  | claimGrant (id : Nat)
  | recallClaim (id : Nat) (pkt : Nat)
  | rangeLockRelease (id : Nat)
  | drainWakeup (id : Nat)
  | scoreMessageInsert (pkt : Nat)
  | evictPhaseTwo (id : Nat)
  | clReadySignal (id : Nat)
  | clStepData (id : Nat)
  | clPartnerTimeout (id : Nat)
  -- Memory, translation and shootdown.
  | translationWalk (hedge ctx : Nat) (va : Word)
  | sectorFill (sector : Nat)
  | lineEviction (line : Nat)
  | shootdownInvalidation (hedge : Nat)
  | remoteTranslationRequest (pkg inc ctx : Nat) (va : Word)
  -- CSR writes with behaviour of their own.
  | sccfgWrite (core : Nat) (v : Word)
  | mbcfgWrite (core : Nat) (v : Word)
  | llcpartWrite (v : Word)
  | calcfgWrite (v : Word)
  | optportWrite (p : Nat) (v : Word)
  | peerClear (j : Nat)
  -- Starts, quotes and adaptive control.
  | warmStart (keep : Bool)
  | droopLoop (hedge : Nat) (up : Bool)
  | opticalEqualisation (port : Nat)
  | hbmRecalibration (stack : Nat)
  | lookaheadThreshold (die : Nat)
  | replicaHint (expert fill : Nat)
  -- The optical fabric and peers.
  | frameMark (port slot : Nat)
  | marksMissed (port : Nat)
  | frameTransmit (port : Nat)
  | frameReceive (port : Nat) (ok : Bool) (hdr : Word) (pkts : List (List Word))
  | portLost (port : Nat)
  | sequenceAck (pkg cls : Nat)
  | retransmitTimeout (pkg cls seq : Nat)
  | latePacketAging (pkt : Nat)
  | helloSend (j : Nat)
  | helloReceive (j : Nat) (inc : BitVec 16) (ep : BitVec 8)
  | peerTimeout (j : Nat)
  -- The companion processor and the state read-out port.
  | hostRead (pa size : Nat)
  | hostWrite (pa : Nat) (data : Vec) (mask : Word)
  | hostAtomic (op size : BitVec 4) (pa : Nat) (b d : Word)
  | hostEnqueue (pa ctx : Nat) (item : Vec)
  | hostCsrrd (u : Nat) (n : BitVec 10)
  | hostCsrwr (u : Nat) (n : BitVec 10) (v : Word)
  | linkFlitFailure (pkt : Nat)
  | readoutRead (what : Nat) (unit addr : Nat)
  -- Engine words of class 0 (R256, R258).
  | lit (n : BitVec 15)
  | ext (n : BitVec 14)
  -- Time, completion, errors and power.
  | referenceCounterTick (block idx : Nat)
  | resultCompletion (core slot : Nat)
  | uncorrectableError (kind unit addr : Nat)
  | powerLoss (copies : Nat)
  -- Messages, tasks, joins (R131). Without operands.
  | texit
  | yield
  | baton
  -- Fences and prefetch (R202). Without operands.
  | fenceI
  -- Ordered mode (R230). Without operands.
  | qsync
  -- System functions (R353). Without operands.
  | brk
  | rft
  -- Memory, translation and shootdown. Without operands.
  | shootdownPage
  | shootdownContext
  | shootdownAll
  | shootdownPlacementMap
  | shootdownAck
  -- CSR writes with behaviour of their own. Without operands.
  | preemptSave
  | preemptRestore
  | preemptKill
  | drainHedge
  | reloadHedge
  | retireStack
  | returnStack
  | recalibratePort
  | replaceFirmware
  -- Starts, quotes and adaptive control. Without operands.
  | powerOn
  | coldStart
  | quote
  -- Engine words of class 0 (R256, R258). Without operands.
  | engNop
  | end_
  | dup
  | drop
  | engSwap
  | engOver
  | rot
  | engAdd
  | engSub
  | engMul
  | engShl
  | engShr
  | engAnd
  | engOr
  | ldp
  | stp
  | sig
  | skz
  -- Matrix words (R269). Without operands.
  | mmFmt
  | mmScale
  | mmGeo
  | mmA
  | mmB
  | mmAcc
  | mmRound
  | mmDrain
  | mmDrainla
  | mmDrainmb
  | mmRun
  | mmRing
  | mmGmm
  -- Butterfly words (R292). Without operands.
  | bfLen
  | bfSched
  | bfLoad
  | bfStage
  | bfPass
  | bfTwid
  | bfCmul
  | bfStore
  -- Copy words (R330). Without operands.
  | cpDim
  | cpGo
  | cpFill
  | cpGath
  | cpScat
  | cpCvt
  | cpClr
  -- Router words (R308). Without operands.
  | rtCfg
  | rtBind
  | rtCap
  | rtRun
  | rtEmit
  | rtStat
  -- Collective words (R335). Without operands.
  | clGrp
  | clRs
  | clAg
  | clChain
  | clGo
  -- Look-ahead gate and expert-region words (R325, R322). Without operands.
  | lgGate
  | lgRun
  | lgPf
  | exSet
  | exPin
  | exEvict
  | exRep
  deriving DecidableEq, Repr

end Sys2Proof
end

