-- ==== Sys2Proof/WellFormed.lean ====
section
/-! DEFINITION. Well-formed instructions: the limits on fields that R26, R28, R29, R34, R80 and the entries of the
instructions set. An ill-formed syllable takes the illegal-syllable trap (R29). -/

/-- A field that the entry writes: n2 and n3 (30, 31) are input ports only (R15, R26). -/
abbrev BitVec.isDst (r : BitVec 5) : Bool := decide (r.toNat < 30)
/-- A field that names a vector register holds 0..7 (R26). -/
abbrev BitVec.isVec (r : BitVec 5) : Bool := decide (r.toNat < 8)
/-- A field that names a scoreboard counter holds 0..7 (R26). -/
abbrev BitVec.isCounter (r : BitVec 5) : Bool := decide (r.toNat < 8)

namespace Sys2Proof

/-- R78: a legal pfx value: zero low bits, scl not 3, rnd not 6 or 7, sat not 3, format codes at most 11. -/
def Prefix.legal (v : BitVec 24) : Bool :=
  decide (v.extractLsb' 0 4 = 0) && decide (v.extractLsb' 10 2 ≠ 3) && decide ((v.extractLsb' 7 3).toNat < 6) &&
  decide (v.extractLsb' 5 2 ≠ 3) && decide ((v.extractLsb' 20 4).toNat < 12) &&
  decide ((v.extractLsb' 16 4).toNat < 12) && decide ((v.extractLsb' 12 4).toNat < 12)

/-- R80: the CSR numbers that an entry of the spec assigns. -/
def csrAssigned (n : Nat) : Bool :=
  decide (n < 0x003) || (decide (0x020 ≤ n) && decide (n < 0x026)) || (decide (0x027 ≤ n) && decide (n < 0x02B)) ||
  (decide (0x040 ≤ n) && decide (n < 0x0D0)) || (decide (0x110 ≤ n) && decide (n < 0x117)) ||
  (decide (0x180 ≤ n) && decide (n < 0x185)) || (decide (0x200 ≤ n) && decide (n < 0x20F)) ||
  (decide (0x210 ≤ n) && decide (n < 0x219)) || (decide (0x220 ≤ n) && decide (n < 0x238)) ||
  (decide (0x240 ≤ n) && decide (n < 0x2C5)) || (decide (0x2C8 ≤ n) && decide (n < 0x2D0))

/-- R197: the legal forms of an atomic: the sizes of its op (`quad`: .q too, .w only for fadd), whether nr = 1 is
allowed, no acquire on a non-returning form, and the pair registers of .q. -/
def amoForm (quad wordOnly nrOk : Bool) (size ord : BitVec 2) (nr : BitVec 1) (d b : BitVec 5) : Bool :=
  (match size.toNat with
   | 0 => true
   | 1 => !wordOnly
   | 2 => quad && decide (d.toNat % 2 = 0) && decide (2 ≤ d.toNat) && decide (d.toNat ≤ 26) &&
          decide (b.toNat % 2 = 0) && decide (2 ≤ b.toNat) && decide (b.toNat ≤ 26)
   | _ => false) &&
  (if nr = 1 then nrOk && d.isCounter && decide (ord.toNat % 2 = 0) else d.isDst)

/-- An instruction whose fields lie within the limits of its entry. -/
def Instr.wf : Instr → Bool
  | .add d _ _ => d.isDst
  | .sub d _ _ => d.isDst
  | .mul d _ _ => d.isDst
  | .mulh d _ _ => d.isDst
  | .mulhu d _ _ => d.isDst
  | .div d _ _ => d.isDst
  | .divu d _ _ => d.isDst
  | .rem d _ _ => d.isDst
  | .remu d _ _ => d.isDst
  | .and d _ _ => d.isDst
  | .andn d _ _ => d.isDst
  | .or d _ _ => d.isDst
  | .orn d _ _ => d.isDst
  | .xor d _ _ => d.isDst
  | .shl d _ _ => d.isDst
  | .shr d _ _ => d.isDst
  | .sar d _ _ => d.isDst
  | .rotl d _ _ => d.isDst
  | .min d _ _ => d.isDst
  | .max d _ _ => d.isDst
  | .minu d _ _ => d.isDst
  | .maxu d _ _ => d.isDst
  | .seq d _ _ => d.isDst
  | .sne d _ _ => d.isDst
  | .slt d _ _ => d.isDst
  | .sltu d _ _ => d.isDst
  | .sel d _ _ _ => d.isDst
  | .addi d _ _ => d.isDst
  | .andi d _ _ => d.isDst
  | .ori d _ _ => d.isDst
  | .xori d _ _ => d.isDst
  | .muli d _ _ => d.isDst
  | .shli d _ _ => d.isDst
  | .shri d _ _ => d.isDst
  | .sari d _ _ => d.isDst
  | .slti d _ _ => d.isDst
  | .sltiu d _ _ => d.isDst
  | .li d _ => d.isDst
  | .lsi d _ => d.isDst
  | .clz d _ => d.isDst
  | .ctz d _ => d.isDst
  | .popc d _ => d.isDst
  | .bswap d _ => d.isDst
  | .lea d _ _ _ => d.isDst
  | .crd d n => d.isDst && decide (n.toNat < 4)
  | .bext d _ pos len => d.isDst && decide (pos.toNat + len.toNat + 1 ≤ 64)
  | .bins d _ pos len => d.isDst && decide (pos.toNat + len.toNat + 1 ≤ 64)
  | .bZ _ _ => true
  | .bNz _ _ => true
  | .bLz _ _ => true
  | .bGez _ _ => true
  | .bGz _ _ => true
  | .bLez _ _ => true
  | .j _ => true
  | .jal d _ => d.isDst
  | .jalr d _ _ => d.isDst
  | .btag _ _ => true
  | .ldl f d _ _ => d.isDst && decide (f.toNat < 7)
  | .stl f _ _ _ => decide (f.toNat < 4)
  | .pfx v => Prefix.legal v
  | .csrr d n => d.isDst && csrAssigned n.toNat
  | .csrw d n _ => d.isDst && csrAssigned n.toNat
  | .csrs d n _ => d.isDst && csrAssigned n.toNat
  | .csrc d n _ => d.isDst && csrAssigned n.toNat
  | .registerWrite u n _ => decide (u < 16384) && csrAssigned n.toNat
  | .vldl d _ _ => d.isVec
  | .vstl d _ _ => d.isVec
  | .vbcast d _ => d.isVec
  | .vext d a _ => d.isDst && a.isVec
  | .vins d _ _ => d.isVec
  | .vmov d a => d.isVec && a.isVec
  | .vaddF d a b => d.isVec && a.isVec && b.isVec
  | .vsubF d a b => d.isVec && a.isVec && b.isVec
  | .vmulF d a b => d.isVec && a.isVec && b.isVec
  | .vfmaF d a b => d.isVec && a.isVec && b.isVec
  | .vminF d a b => d.isVec && a.isVec && b.isVec
  | .vmaxF d a b => d.isVec && a.isVec && b.isVec
  | .vabsF d a => d.isVec && a.isVec
  | .vnegF d a => d.isVec && a.isVec
  | .vaddI d a b => d.isVec && a.isVec && b.isVec
  | .vsubI d a b => d.isVec && a.isVec && b.isVec
  | .vmulI d a b => d.isVec && a.isVec && b.isVec
  | .vminI d a b => d.isVec && a.isVec && b.isVec
  | .vmaxI d a b => d.isVec && a.isVec && b.isVec
  | .vand d a b => d.isVec && a.isVec && b.isVec
  | .vor d a b => d.isVec && a.isVec && b.isVec
  | .vxor d a b => d.isVec && a.isVec && b.isVec
  | .vshl d a b => d.isVec && a.isVec && b.isVec
  | .vshr d a b => d.isVec && a.isVec && b.isVec
  | .vsar d a b => d.isVec && a.isVec && b.isVec
  | .vcmpF cond d a b => d.isVec && a.isVec && b.isVec && decide (cond.toNat < 7)
  | .vsel d a b => d.isVec && a.isVec && b.isVec
  | .vcvt d a part => d.isVec && a.isVec && decide (part.toNat < 8)
  | .vrcp d a => d.isVec && a.isVec
  | .vrsqrt d a => d.isVec && a.isVec
  | .vexp2 d a => d.isVec && a.isVec
  | .vlog2 d a => d.isVec && a.isVec
  | .vredAdd d a => d.isDst && a.isVec
  | .vscanAdd d a => d.isVec && a.isVec
  | .vredMax d a => d.isDst && a.isVec
  | .vredMin d a => d.isDst && a.isVec
  | .vargmax d a => d.isDst && a.isVec
  | .vargmin d a => d.isDst && a.isVec
  | .vsort d a => d.isVec && a.isVec
  | .vcompact d a b => d.isVec && a.isVec && b.isVec
  | .vtopk d a b => d.isVec && a.isVec && b.isVec
  | .vperm d a b => d.isVec && a.isVec && b.isVec
  | .vrevd d a _ => d.isVec && a.isVec
  | .awclr _ => true
  | .awin _ _ => true
  | .awinm _ _ _ => true
  | .vawin _ b => b.isVec
  | .awadd _ _ => true
  | .awrd d _ => d.isDst
  | .send _ => true
  | .sendv _ _ b => b.isVec
  | .tset d _ => d.isDst
  | .tclr d _ => d.isDst
  | .tpend d _ => d.isDst
  | .tcreate d _ => d.isDst
  | .tdec sc _ _ => sc.isCounter
  | .texit => true
  | .yield => true
  | .launch d _ => d.isDst
  | .join d _ => d.isDst
  | .bar d _ => d.isDst
  | .waitw d _ _ => d.isDst
  | .enq d _ _ => d.isDst
  | .deq d _ _ => d.isDst
  | .spawna d _ => d.isDst
  | .baton => true
  | .scwait sc _ => sc.isCounter
  | .mbxIns _ _ => true
  | .mbxRd d _ => d.isDst
  | .mbxClr _ _ => true
  | .ldg f _ d _ _ => d.isDst && decide (f.toNat < 7)
  | .vldg _ d _ _ => d.isVec
  | .stg _ _ _ _ _ => true
  | .vstg _ d _ _ => d.isVec
  | .ldr _ d _ _ => d.isDst
  | .ldrMig _ d _ _ => d.isDst
  | .str _ _ _ _ => true
  | .amoAdd size ord nr d _ b => amoForm false false true size ord nr d b
  | .amoAnd size ord nr d _ b => amoForm false false true size ord nr d b
  | .amoOr size ord nr d _ b => amoForm false false true size ord nr d b
  | .amoXor size ord nr d _ b => amoForm false false true size ord nr d b
  | .amoMin size ord nr d _ b => amoForm false false true size ord nr d b
  | .amoMax size ord nr d _ b => amoForm false false true size ord nr d b
  | .amoMinu size ord nr d _ b => amoForm false false true size ord nr d b
  | .amoMaxu size ord nr d _ b => amoForm false false true size ord nr d b
  | .amoSwap size ord nr d _ b => amoForm false false false size ord nr d b
  | .amoCas size ord nr d _ b => amoForm true false false size ord nr d b
  | .amoIncb size ord nr d _ b => amoForm false false false size ord nr d b
  | .amoFadd size ord nr d _ b => amoForm false true true size ord nr d b
  | .fence scope => decide (scope.toNat < 6)
  | .fenceI => true
  | .pf sc _ => sc.isCounter
  | .tlook d _ => d.isDst
  | .tfill d _ _ => d.isDst
  | .tinv d _ => d.isDst
  | .job kind d _ _ => d.isDst && decide (kind.toNat < 5)
  | .jobNb kind d _ _ => d.isDst && decide (kind.toNat < 5)
  | .jwait d _ => d.isDst
  | .jpoll d _ _ => d.isDst
  | .jcancel d _ => d.isDst
  | .qsync => true
  | .qstat d => d.isDst
  | .swp d _ _ => d.isDst
  | .resume d _ _ => d.isDst
  | .trap _ => true
  | .brk => true
  | .rft => true
  | .park _ => true
  | .taskStart core slot => decide (core < 4096) && decide (slot < 4)
  | .taskAging core _ => decide (core < 4096)
  | .budgetExpiry core slot => decide (core < 4096) && decide (slot < 4)
  | .messageDelivery _ => true
  | .heldMessageDispatch core => decide (core < 4096)
  | .noticeDelivery _ => true
  | .homeAccess _ => true
  | .loadReply _ => true
  | .storeAck _ => true
  | .remoteFaultReply _ => true
  | .migrationArrival _ => true
  | .migrationTimeout _ => true
  | .guestReturn core slot => decide (core < 4096) && decide (slot < 4)
  | .batonReceive _ => true
  | .depDecrement _ => true
  | .readyListInsert core => decide (core < 4096)
  | .launchPlacement die => decide (die < 4)
  | .barrierComplete _ => true
  | .joinComplete _ => true
  | .waitwWake _ => true
  | .deqServe _ => true
  | .roundStart _ => true
  | .roundCommit _ => true
  | .jobStart queue kind => decide (queue < 772) && decide (kind < 5)
  | .jobComplete _ => true
  | .jobSuccessorDecrement _ => true
  | .claimGrant _ => true
  | .recallClaim _ _ => true
  | .rangeLockRelease _ => true
  | .drainWakeup _ => true
  | .scoreMessageInsert _ => true
  | .evictPhaseTwo _ => true
  | .clReadySignal _ => true
  | .clStepData _ => true
  | .clPartnerTimeout _ => true
  | .translationWalk hedge _ _ => decide (hedge < 256)
  | .sectorFill _ => true
  | .lineEviction _ => true
  | .shootdownPage => true
  | .shootdownContext => true
  | .shootdownAll => true
  | .shootdownPlacementMap => true
  | .shootdownInvalidation hedge => decide (hedge < 256)
  | .shootdownAck => true
  | .remoteTranslationRequest pkg _ _ _ => decide (pkg < 128)
  | .sccfgWrite core _ => decide (core < 4096)
  | .mbcfgWrite core _ => decide (core < 4096)
  | .llcpartWrite _ => true
  | .calcfgWrite _ => true
  | .optportWrite p _ => decide (p < 16)
  | .peerClear jj => decide (jj < 128)
  | .preemptSave => true
  | .preemptRestore => true
  | .preemptKill => true
  | .drainHedge => true
  | .reloadHedge => true
  | .retireStack => true
  | .returnStack => true
  | .recalibratePort => true
  | .replaceFirmware => true
  | .powerOn => true
  | .coldStart => true
  | .warmStart _ => true
  | .quote => true
  | .droopLoop hedge _ => decide (hedge < 256)
  | .opticalEqualisation port => decide (port < 16)
  | .hbmRecalibration stack => decide (stack < 12)
  | .lookaheadThreshold die => decide (die < 4)
  | .replicaHint _ _ => true
  | .frameMark port slot => decide (port < 16) && decide (slot < 8)
  | .marksMissed port => decide (port < 16)
  | .frameTransmit port => decide (port < 16)
  | .frameReceive port _ _ _ => decide (port < 16)
  | .portLost port => decide (port < 16)
  | .sequenceAck pkg cls => decide (pkg < 128) && decide (cls < 2)
  | .retransmitTimeout pkg cls _ => decide (pkg < 128) && decide (cls < 2)
  | .latePacketAging _ => true
  | .helloSend jj => decide (jj < 128)
  | .helloReceive jj _ _ => decide (jj < 128)
  | .peerTimeout jj => decide (jj < 128)
  | .hostRead pa size => (decide (size = 64) || decide (size = 256)) && decide (pa % size = 0) && decide (pa + size ≤ 0xC000000000)
  | .hostWrite pa _ _ => decide (pa % 64 = 0) && decide (pa + 64 ≤ 0xC000000000)
  | .hostAtomic op size pa _ _ => (decide (op.toNat < 4) || decide (op.toNat = 8) || decide (op.toNat = 9)) && decide (size.toNat < 2) && decide (pa % (4 * 2 ^ size.toNat) = 0) && decide (pa < 0xC000000000)
  | .hostEnqueue pa ctx _ => decide (pa % 64 = 0) && decide (pa + 64 ≤ 0xC000000000) && decide (ctx < 65536)
  | .hostCsrrd u n => decide (u < 16384) && csrAssigned n.toNat
  | .hostCsrwr u n _ => decide (u < 16384) && csrAssigned n.toNat
  | .linkFlitFailure _ => true
  | .readoutRead _ _ _ => true
  | .lit _ => true
  | .ext _ => true
  | .engNop => true
  | .end_ => true
  | .dup => true
  | .drop => true
  | .engSwap => true
  | .engOver => true
  | .rot => true
  | .engAdd => true
  | .engSub => true
  | .engMul => true
  | .engShl => true
  | .engShr => true
  | .engAnd => true
  | .engOr => true
  | .ldp => true
  | .stp => true
  | .sig => true
  | .skz => true
  | .mmFmt => true
  | .mmScale => true
  | .mmGeo => true
  | .mmA => true
  | .mmB => true
  | .mmAcc => true
  | .mmRound => true
  | .mmDrain => true
  | .mmDrainla => true
  | .mmDrainmb => true
  | .mmRun => true
  | .mmRing => true
  | .mmGmm => true
  | .bfLen => true
  | .bfSched => true
  | .bfLoad => true
  | .bfStage => true
  | .bfPass => true
  | .bfTwid => true
  | .bfCmul => true
  | .bfStore => true
  | .cpDim => true
  | .cpGo => true
  | .cpFill => true
  | .cpGath => true
  | .cpScat => true
  | .cpCvt => true
  | .cpClr => true
  | .rtCfg => true
  | .rtBind => true
  | .rtCap => true
  | .rtRun => true
  | .rtEmit => true
  | .rtStat => true
  | .clGrp => true
  | .clRs => true
  | .clAg => true
  | .clChain => true
  | .clGo => true
  | .lgGate => true
  | .lgRun => true
  | .lgPf => true
  | .exSet => true
  | .exPin => true
  | .exEvict => true
  | .exRep => true
  | .referenceCounterTick _ _ => true
  | .resultCompletion core slot => decide (core < 4096) && decide (slot < 4)
  | .uncorrectableError _ _ _ => true
  | .powerLoss _ => true

end Sys2Proof
end

