-- ==== Sys2Proof/Decode.lean ====
section
/-! DEFINITION. The decoder of syllables and engine words, total and rejecting by name, and the encoder, both from
the encoding tables of R25, R27, R28, R131, R190, R195, R197, R202, R206, R230, R250, R256, R353 and the vector
chapter. The decoder's fields are the fields of R25. -/

namespace Sys2Proof

/-- Why a pattern is not an instruction (R29, R256). -/
inductive DecodeError where
  | majorZero | reservedMajor | reservedFunc | mustBeZero | operand | shortInput
  | engineZero | engineReservedClass | engineReservedFunc
  deriving DecidableEq, Repr

/-- Majors of the opcode map that stand for no instruction (R27). -/
def reservedMajor (m : Nat) : DecodeError := if m = 0 then .majorZero else .reservedMajor

end Sys2Proof

namespace BitVec
abbrev stopBit (w : BitVec 32) : BitVec 1 := w.extractLsb' 31 1
abbrev major (w : BitVec 32) : BitVec 6 := w.extractLsb' 25 6
abbrev fd (w : BitVec 32) : BitVec 5 := w.extractLsb' 20 5
abbrev fa (w : BitVec 32) : BitVec 5 := w.extractLsb' 15 5
abbrev fb (w : BitVec 32) : BitVec 5 := w.extractLsb' 10 5
abbrev fc (w : BitVec 32) : BitVec 5 := w.extractLsb' 5 5
abbrev f5 (w : BitVec 32) : BitVec 5 := w.extractLsb' 0 5
abbrev ff (w : BitVec 32) : BitVec 10 := w.extractLsb' 0 10
abbrev f3 (w : BitVec 32) : BitVec 3 := w.extractLsb' 12 3
abbrev imm15 (w : BitVec 32) : BitVec 15 := w.extractLsb' 0 15
abbrev imm12 (w : BitVec 32) : BitVec 12 := w.extractLsb' 0 12
abbrev ob (w : BitVec 32) : BitVec 1 := w.extractLsb' 11 1
abbrev imm11 (w : BitVec 32) : BitVec 11 := w.extractLsb' 0 11
abbrev imm20 (w : BitVec 32) : BitVec 20 := w.extractLsb' 0 20
abbrev sh0 (w : BitVec 32) : BitVec 6 := w.extractLsb' 6 6
abbrev sh6 (w : BitVec 32) : BitVec 6 := w.extractLsb' 0 6
abbrev pos (w : BitVec 32) : BitVec 6 := w.extractLsb' 9 6
abbrev len (w : BitVec 32) : BitVec 6 := w.extractLsb' 3 6
abbrev fn3 (w : BitVec 32) : BitVec 3 := w.extractLsb' 0 3
abbrev op4 (w : BitVec 32) : BitVec 4 := w.extractLsb' 0 4
abbrev k6 (w : BitVec 32) : BitVec 6 := w.extractLsb' 4 6
abbrev fsize (w : BitVec 32) : BitVec 2 := w.extractLsb' 4 2
abbrev ford (w : BitVec 32) : BitVec 2 := w.extractLsb' 6 2
abbrev fnr (w : BitVec 32) : BitVec 1 := w.extractLsb' 8 1
abbrev f9 (w : BitVec 32) : BitVec 1 := w.extractLsb' 9 1
abbrev f97 (w : BitVec 32) : BitVec 3 := w.extractLsb' 7 3
abbrev kind (w : BitVec 32) : BitVec 3 := w.extractLsb' 4 3
abbrev csr (w : BitVec 32) : BitVec 10 := w.extractLsb' 5 5 ++ w.extractLsb' 10 5
abbrev b24 (w : BitVec 32) : BitVec 1 := w.extractLsb' 24 1
abbrev v24 (w : BitVec 32) : BitVec 24 := w.extractLsb' 0 24
end BitVec

namespace Sys2Proof

/-- Reject unless the must-be-zero fields are zero (R26, R29). -/
def mz (zeros : Bool) (i : Instr) : Except DecodeError Instr := if zeros then .ok i else .error .mustBeZero

/-- Major 0x01 of the opcode map (R27). -/
def decode01 (w : Syll) : Except DecodeError Instr :=
    match w.ff.toNat with
    | 0 => .ok (.add w.fd w.fa w.fb)
    | 1 => .ok (.sub w.fd w.fa w.fb)
    | 2 => .ok (.mul w.fd w.fa w.fb)
    | 3 => .ok (.mulh w.fd w.fa w.fb)
    | 4 => .ok (.mulhu w.fd w.fa w.fb)
    | 5 => .ok (.div w.fd w.fa w.fb)
    | 6 => .ok (.divu w.fd w.fa w.fb)
    | 7 => .ok (.rem w.fd w.fa w.fb)
    | 8 => .ok (.remu w.fd w.fa w.fb)
    | 9 => .ok (.and w.fd w.fa w.fb)
    | 10 => .ok (.andn w.fd w.fa w.fb)
    | 11 => .ok (.or w.fd w.fa w.fb)
    | 12 => .ok (.orn w.fd w.fa w.fb)
    | 13 => .ok (.xor w.fd w.fa w.fb)
    | 14 => .ok (.shl w.fd w.fa w.fb)
    | 15 => .ok (.shr w.fd w.fa w.fb)
    | 16 => .ok (.sar w.fd w.fa w.fb)
    | 17 => .ok (.rotl w.fd w.fa w.fb)
    | 18 => .ok (.min w.fd w.fa w.fb)
    | 19 => .ok (.max w.fd w.fa w.fb)
    | 20 => .ok (.minu w.fd w.fa w.fb)
    | 21 => .ok (.maxu w.fd w.fa w.fb)
    | 22 => .ok (.seq w.fd w.fa w.fb)
    | 23 => .ok (.sne w.fd w.fa w.fb)
    | 24 => .ok (.slt w.fd w.fa w.fb)
    | 25 => .ok (.sltu w.fd w.fa w.fb)
    | _ => .error .reservedFunc

/-- Major 0x02 of the opcode map (R27). -/
def decode02 (w : Syll) : Except DecodeError Instr :=
    if w.f5 = 0 then .ok (.sel w.fd w.fa w.fb w.fc) else .error .reservedFunc

/-- Major 0x03 of the opcode map (R27). -/
def decode03 (w : Syll) : Except DecodeError Instr :=
    .ok (.addi w.fd w.fa w.imm15)

/-- Major 0x04 of the opcode map (R27). -/
def decode04 (w : Syll) : Except DecodeError Instr :=
    .ok (.andi w.fd w.fa w.imm15)

/-- Major 0x05 of the opcode map (R27). -/
def decode05 (w : Syll) : Except DecodeError Instr :=
    .ok (.ori w.fd w.fa w.imm15)

/-- Major 0x06 of the opcode map (R27). -/
def decode06 (w : Syll) : Except DecodeError Instr :=
    .ok (.xori w.fd w.fa w.imm15)

/-- Major 0x07 of the opcode map (R27). -/
def decode07 (w : Syll) : Except DecodeError Instr :=
    match w.f3.toNat with
    | 0 => mz (decide (w.sh0 = 0)) (.shli w.fd w.fa w.sh6)
    | 1 => mz (decide (w.sh0 = 0)) (.shri w.fd w.fa w.sh6)
    | 2 => mz (decide (w.sh0 = 0)) (.sari w.fd w.fa w.sh6)
    | _ => .error .reservedFunc

/-- Major 0x08 of the opcode map (R27). -/
def decode08 (w : Syll) : Except DecodeError Instr :=
    match w.f3.toNat with
    | 0 => .ok (.slti w.fd w.fa w.imm12)
    | 1 => .ok (.sltiu w.fd w.fa w.imm12)
    | _ => .error .reservedFunc

/-- Major 0x09 of the opcode map (R27). -/
def decode09 (w : Syll) : Except DecodeError Instr :=
    .ok (.muli w.fd w.fa w.imm15)

/-- Major 0x0A of the opcode map (R27). -/
def decode0A (w : Syll) : Except DecodeError Instr :=
    .ok (.li w.fd w.imm20)

/-- Major 0x0B of the opcode map (R27). -/
def decode0B (w : Syll) : Except DecodeError Instr :=
    .ok (.lsi w.fd w.imm20)

/-- Major 0x0C of the opcode map (R27). -/
def decode0C (w : Syll) : Except DecodeError Instr :=
    match w.ff.toNat with
    | 0 => mz (decide (w.fb = 0)) (.clz w.fd w.fa)
    | 1 => mz (decide (w.fb = 0)) (.ctz w.fd w.fa)
    | 2 => mz (decide (w.fb = 0)) (.popc w.fd w.fa)
    | 3 => mz (decide (w.fb = 0)) (.bswap w.fd w.fa)
    | 4 => .ok (.lea w.fd w.fa w.fb 0)
    | 5 => .ok (.lea w.fd w.fa w.fb 1)
    | 6 => .ok (.lea w.fd w.fa w.fb 2)
    | 7 => .ok (.lea w.fd w.fa w.fb 3)
    | 8 => mz (decide (w.fb = 0)) (.crd w.fd w.fa)
    | _ => .error .reservedFunc

/-- Major 0x0D of the opcode map (R27). -/
def decode0D (w : Syll) : Except DecodeError Instr :=
    match w.fn3.toNat with
    | 0 => .ok (.bext w.fd w.fa w.pos w.len)
    | 1 => .ok (.bins w.fd w.fa w.pos w.len)
    | _ => .error .reservedFunc

/-- Major 0x10 of the opcode map (R27). -/
def decode10 (w : Syll) : Except DecodeError Instr :=
    match w.fd.toNat with
    | 0 => .ok (.bZ w.fa w.imm15)
    | 1 => .ok (.bNz w.fa w.imm15)
    | 2 => .ok (.bLz w.fa w.imm15)
    | 3 => .ok (.bGez w.fa w.imm15)
    | 4 => .ok (.bGz w.fa w.imm15)
    | 5 => .ok (.bLez w.fa w.imm15)
    | _ => .error .reservedFunc

/-- Major 0x11 of the opcode map (R27). -/
def decode11 (w : Syll) : Except DecodeError Instr :=
    mz (decide (w.fd = 0)) (.j w.imm20)

/-- Major 0x12 of the opcode map (R27). -/
def decode12 (w : Syll) : Except DecodeError Instr :=
    .ok (.jal w.fd w.imm20)

/-- Major 0x13 of the opcode map (R27). -/
def decode13 (w : Syll) : Except DecodeError Instr :=
    .ok (.jalr w.fd w.fa w.imm15)

/-- Major 0x14 of the opcode map (R27). -/
def decode14 (w : Syll) : Except DecodeError Instr :=
    match w.ff.toNat with
    | 0 => mz (decide (w.fd = 0) && decide (w.fb = 0)) (.btag 0 w.fa)
    | 1 => mz (decide (w.fd = 0) && decide (w.fb = 0)) (.btag 1 w.fa)
    | _ => .error .reservedFunc

/-- Major 0x18 of the opcode map (R27). -/
def decode18 (w : Syll) : Except DecodeError Instr :=
    .ok (.ldl w.f3 w.fd w.fa w.imm12)

/-- Major 0x19 of the opcode map (R27). -/
def decode19 (w : Syll) : Except DecodeError Instr :=
    .ok (.stl w.f3 w.fd w.fa w.imm12)

/-- Major 0x20 of the opcode map (R27). -/
def decode20 (w : Syll) : Except DecodeError Instr :=
    if w.f3 = 7 then .ok (.vldg w.ob w.fd w.fa w.imm11) else .ok (.ldg w.f3 w.ob w.fd w.fa w.imm11)

/-- Major 0x21 of the opcode map (R27). -/
def decode21 (w : Syll) : Except DecodeError Instr :=
    match w.f3.toNat with
    | 0 => .ok (.stg 0 w.ob w.fd w.fa w.imm11)
    | 1 => .ok (.stg 1 w.ob w.fd w.fa w.imm11)
    | 2 => .ok (.stg 2 w.ob w.fd w.fa w.imm11)
    | 3 => .ok (.stg 3 w.ob w.fd w.fa w.imm11)
    | 4 => .ok (.vstg w.ob w.fd w.fa w.imm11)
    | _ => .error .reservedFunc

/-- Major 0x22 of the opcode map (R27). -/
def decode22 (w : Syll) : Except DecodeError Instr :=
    match w.f3.toNat with
    | 0 => if w.ob = 0 then .ok (.ldr 0 w.fd w.fa w.imm11) else .ok (.ldrMig 0 w.fd w.fa w.imm11)
    | 1 => if w.ob = 0 then .ok (.ldr 1 w.fd w.fa w.imm11) else .ok (.ldrMig 1 w.fd w.fa w.imm11)
    | 2 => if w.ob = 0 then .ok (.ldr 2 w.fd w.fa w.imm11) else .ok (.ldrMig 2 w.fd w.fa w.imm11)
    | 3 => if w.ob = 0 then .ok (.ldr 3 w.fd w.fa w.imm11) else .ok (.ldrMig 3 w.fd w.fa w.imm11)
    | 4 => mz (decide (w.ob = 0)) (.str 0 w.fd w.fa w.imm11)
    | 5 => mz (decide (w.ob = 0)) (.str 1 w.fd w.fa w.imm11)
    | 6 => mz (decide (w.ob = 0)) (.str 2 w.fd w.fa w.imm11)
    | 7 => mz (decide (w.ob = 0)) (.str 3 w.fd w.fa w.imm11)
    | _ => .error .reservedFunc

/-- Major 0x23 of the opcode map (R27). -/
def decode23 (w : Syll) : Except DecodeError Instr :=
    if w.f9 = 0 then
      match w.op4.toNat with
      | 0 => .ok (.amoAdd w.fsize w.ford w.fnr w.fd w.fa w.fb)
      | 1 => .ok (.amoAnd w.fsize w.ford w.fnr w.fd w.fa w.fb)
      | 2 => .ok (.amoOr w.fsize w.ford w.fnr w.fd w.fa w.fb)
      | 3 => .ok (.amoXor w.fsize w.ford w.fnr w.fd w.fa w.fb)
      | 4 => .ok (.amoMin w.fsize w.ford w.fnr w.fd w.fa w.fb)
      | 5 => .ok (.amoMax w.fsize w.ford w.fnr w.fd w.fa w.fb)
      | 6 => .ok (.amoMinu w.fsize w.ford w.fnr w.fd w.fa w.fb)
      | 7 => .ok (.amoMaxu w.fsize w.ford w.fnr w.fd w.fa w.fb)
      | 8 => .ok (.amoSwap w.fsize w.ford w.fnr w.fd w.fa w.fb)
      | 9 => .ok (.amoCas w.fsize w.ford w.fnr w.fd w.fa w.fb)
      | 10 => .ok (.amoIncb w.fsize w.ford w.fnr w.fd w.fa w.fb)
      | 11 => .ok (.amoFadd w.fsize w.ford w.fnr w.fd w.fa w.fb)
      | _ => .error .reservedFunc
    else .error .mustBeZero

/-- Major 0x24 of the opcode map (R27). -/
def decode24 (w : Syll) : Except DecodeError Instr :=
    match w.ff.toNat with
    | 0 => mz (decide (w.fd = 0) && decide (w.fa = 0) && decide (w.fb = 0)) (.fence 0)
    | 1 => mz (decide (w.fd = 0) && decide (w.fa = 0) && decide (w.fb = 0)) (.fence 1)
    | 2 => mz (decide (w.fd = 0) && decide (w.fa = 0) && decide (w.fb = 0)) (.fence 2)
    | 3 => mz (decide (w.fd = 0) && decide (w.fa = 0) && decide (w.fb = 0)) (.fence 3)
    | 4 => mz (decide (w.fd = 0) && decide (w.fa = 0) && decide (w.fb = 0)) (.fence 4)
    | 5 => mz (decide (w.fd = 0) && decide (w.fa = 0) && decide (w.fb = 0)) (.fence 5)
    | 6 => mz (decide (w.fd = 0) && decide (w.fa = 0) && decide (w.fb = 0)) .fenceI
    | 7 => mz (decide (w.fb = 0)) (.pf w.fd w.fa)
    | _ => .error .reservedFunc

/-- Major 0x25 of the opcode map (R27). -/
def decode25 (w : Syll) : Except DecodeError Instr :=
    match w.ff.toNat with
    | 0 => mz (decide (w.fb = 0)) (.tlook w.fd w.fa)
    | 1 => .ok (.tfill w.fd w.fa w.fb)
    | 2 => mz (decide (w.fb = 0)) (.tinv w.fd w.fa)
    | _ => .error .reservedFunc

/-- Major 0x28 of the opcode map (R27). -/
def decode28 (w : Syll) : Except DecodeError Instr :=
    match w.ff.toNat with
    | 0 => mz (decide (w.fd = 0) && decide (w.fa = 0) && decide (w.fb = 0)) (.send 0)
    | 1 => mz (decide (w.fd = 0) && decide (w.fa = 0) && decide (w.fb = 0)) (.send 1)
    | 2 => mz (decide (w.fd = 0)) (.sendv 0 w.fa w.fb)
    | 3 => mz (decide (w.fd = 0)) (.sendv 1 w.fa w.fb)
    | _ => .error .reservedFunc

/-- Major 0x29 of the opcode map (R27). -/
def decode29 (w : Syll) : Except DecodeError Instr :=
    match w.ff.toNat with
    | 0 => mz (decide (w.fb = 0)) (.tset w.fd w.fa)
    | 1 => mz (decide (w.fb = 0)) (.tclr w.fd w.fa)
    | 2 => mz (decide (w.fb = 0)) (.tpend w.fd w.fa)
    | _ => .error .reservedFunc

/-- Major 0x2A of the opcode map (R27). -/
def decode2A (w : Syll) : Except DecodeError Instr :=
    match w.ff.toNat with
    | 0 => mz (decide (w.fb = 0)) (.tcreate w.fd w.fa)
    | 1 => .ok (.tdec w.fd w.fa w.fb)
    | 2 => mz (decide (w.fd = 0) && decide (w.fa = 0) && decide (w.fb = 0)) (.texit)
    | 3 => mz (decide (w.fd = 0) && decide (w.fa = 0) && decide (w.fb = 0)) (.yield)
    | _ => .error .reservedFunc

/-- Major 0x2B of the opcode map (R27). -/
def decode2B (w : Syll) : Except DecodeError Instr :=
    match w.ff.toNat with
    | 0 => mz (decide (w.fb = 0)) (.launch w.fd w.fa)
    | 1 => mz (decide (w.fb = 0)) (.join w.fd w.fa)
    | 2 => mz (decide (w.fb = 0)) (.bar w.fd w.fa)
    | 3 => .ok (.waitw w.fd w.fa w.fb)
    | _ => .error .reservedFunc

/-- Major 0x2C of the opcode map (R27). -/
def decode2C (w : Syll) : Except DecodeError Instr :=
    match w.ff.toNat with
    | 0 => .ok (.enq w.fd w.fa w.fb)
    | 1 => .ok (.deq w.fd w.fa w.fb)
    | _ => .error .reservedFunc

/-- Major 0x2D of the opcode map (R27). -/
def decode2D (w : Syll) : Except DecodeError Instr :=
    match w.ff.toNat with
    | 0 => mz (decide (w.fb = 0)) (.spawna w.fd w.fa)
    | 1 => mz (decide (w.fd = 0) && decide (w.fa = 0) && decide (w.fb = 0)) (.baton)
    | 2 => mz (decide (w.fb = 0)) (.scwait w.fd w.fa)
    | _ => .error .reservedFunc

/-- Major 0x2E of the opcode map (R27). -/
def decode2E (w : Syll) : Except DecodeError Instr :=
    match w.ff.toNat with
    | 0 => mz (decide (w.fd = 0)) (.mbxIns w.fa w.fb)
    | 1 => mz (decide (w.fb = 0)) (.mbxRd w.fd w.fa)
    | 2 => mz (decide (w.fd = 0)) (.mbxClr w.fa w.fb)
    | _ => .error .reservedFunc

/-- Major 0x30 of the opcode map (R27). -/
def decode30 (w : Syll) : Except DecodeError Instr :=
    match w.op4.toNat with
    | 0 => mz (decide (w.fb = 0)) (.vldl w.fd w.fa w.k6)
    | 1 => mz (decide (w.fb = 0)) (.vstl w.fd w.fa w.k6)
    | 2 => mz (decide (w.k6 = 0) && decide (w.fb = 0)) (.vbcast w.fd w.fa)
    | 3 => mz (decide (w.k6 = 0)) (.vext w.fd w.fa w.fb)
    | 4 => mz (decide (w.k6 = 0)) (.vins w.fd w.fa w.fb)
    | 5 => mz (decide (w.k6 = 0) && decide (w.fb = 0)) (.vmov w.fd w.fa)
    | _ => .error .reservedFunc

/-- Major 0x31 of the opcode map (R27). -/
def decode31 (w : Syll) : Except DecodeError Instr :=
    match w.ff.toNat with
    | 0 => .ok (.vaddF w.fd w.fa w.fb)
    | 1 => .ok (.vsubF w.fd w.fa w.fb)
    | 2 => .ok (.vmulF w.fd w.fa w.fb)
    | 3 => .ok (.vfmaF w.fd w.fa w.fb)
    | 4 => .ok (.vminF w.fd w.fa w.fb)
    | 5 => .ok (.vmaxF w.fd w.fa w.fb)
    | 6 => mz (decide (w.fb = 0)) (.vabsF w.fd w.fa)
    | 7 => mz (decide (w.fb = 0)) (.vnegF w.fd w.fa)
    | _ => .error .reservedFunc

/-- Major 0x32 of the opcode map (R27). -/
def decode32 (w : Syll) : Except DecodeError Instr :=
    match w.ff.toNat with
    | 0 => .ok (.vaddI w.fd w.fa w.fb)
    | 1 => .ok (.vsubI w.fd w.fa w.fb)
    | 2 => .ok (.vmulI w.fd w.fa w.fb)
    | 3 => .ok (.vminI w.fd w.fa w.fb)
    | 4 => .ok (.vmaxI w.fd w.fa w.fb)
    | 5 => .ok (.vand w.fd w.fa w.fb)
    | 6 => .ok (.vor w.fd w.fa w.fb)
    | 7 => .ok (.vxor w.fd w.fa w.fb)
    | 8 => .ok (.vshl w.fd w.fa w.fb)
    | 9 => .ok (.vshr w.fd w.fa w.fb)
    | 10 => .ok (.vsar w.fd w.fa w.fb)
    | _ => .error .reservedFunc

/-- Major 0x33 of the opcode map (R27). -/
def decode33 (w : Syll) : Except DecodeError Instr :=
    match w.ff.toNat with
    | 0 => .ok (.vcmpF 0 w.fd w.fa w.fb)
    | 1 => .ok (.vcmpF 1 w.fd w.fa w.fb)
    | 2 => .ok (.vcmpF 2 w.fd w.fa w.fb)
    | 3 => .ok (.vcmpF 3 w.fd w.fa w.fb)
    | 4 => .ok (.vcmpF 4 w.fd w.fa w.fb)
    | 5 => .ok (.vcmpF 5 w.fd w.fa w.fb)
    | 6 => .ok (.vcmpF 6 w.fd w.fa w.fb)
    | 8 => .ok (.vsel w.fd w.fa w.fb)
    | 9 => .ok (.vcvt w.fd w.fa w.fb)
    | _ => .error .reservedFunc

/-- Major 0x34 of the opcode map (R27). -/
def decode34 (w : Syll) : Except DecodeError Instr :=
    match w.ff.toNat with
    | 0 => mz (decide (w.fb = 0)) (.vrcp w.fd w.fa)
    | 1 => mz (decide (w.fb = 0)) (.vrsqrt w.fd w.fa)
    | 2 => mz (decide (w.fb = 0)) (.vexp2 w.fd w.fa)
    | 3 => mz (decide (w.fb = 0)) (.vlog2 w.fd w.fa)
    | _ => .error .reservedFunc

/-- Major 0x35 of the opcode map (R27). -/
def decode35 (w : Syll) : Except DecodeError Instr :=
    match w.ff.toNat with
    | 0 => mz (decide (w.fb = 0)) (.vredAdd w.fd w.fa)
    | 1 => mz (decide (w.fb = 0)) (.vredMax w.fd w.fa)
    | 2 => mz (decide (w.fb = 0)) (.vredMin w.fd w.fa)
    | 3 => mz (decide (w.fb = 0)) (.vscanAdd w.fd w.fa)
    | 4 => .ok (.vcompact w.fd w.fa w.fb)
    | 5 => mz (decide (w.fb = 0)) (.vargmax w.fd w.fa)
    | 6 => mz (decide (w.fb = 0)) (.vargmin w.fd w.fa)
    | 7 => .ok (.vtopk w.fd w.fa w.fb)
    | 8 => mz (decide (w.fb = 0)) (.vsort w.fd w.fa)
    | 9 => .ok (.vperm w.fd w.fa w.fb)
    | 10 => .ok (.vrevd w.fd w.fa w.fb)
    | _ => .error .reservedFunc

/-- Major 0x36 of the opcode map (R27). -/
def decode36 (w : Syll) : Except DecodeError Instr :=
    match w.ff.toNat with
    | 0 => mz (decide (w.fd = 0) && decide (w.fb = 0)) (.awclr w.fa)
    | 1 => mz (decide (w.fd = 0)) (.awin w.fa w.fb)
    | 2 => .ok (.awinm w.fa w.fb w.fd)
    | 3 => mz (decide (w.fd = 0)) (.vawin w.fa w.fb)
    | 4 => mz (decide (w.fd = 0)) (.awadd w.fa w.fb)
    | 5 => mz (decide (w.fb = 0)) (.awrd w.fd w.fa)
    | _ => .error .reservedFunc

/-- Major 0x38 of the opcode map (R27). -/
def decode38 (w : Syll) : Except DecodeError Instr :=
    if w.f97 = 0 then
      match w.op4.toNat with
      | 0 => .ok (.job w.kind w.fd w.fa w.fb)
      | 1 => .ok (.jobNb w.kind w.fd w.fa w.fb)
      | 2 => mz (decide (w.kind = 0) && decide (w.fb = 0)) (.jwait w.fd w.fa)
      | 3 => mz (decide (w.kind = 0)) (.jpoll w.fd w.fa w.fb)
      | 4 => mz (decide (w.kind = 0) && decide (w.fb = 0)) (.jcancel w.fd w.fa)
      | _ => .error .reservedFunc
    else .error .mustBeZero

/-- Major 0x3C of the opcode map (R27). -/
def decode3C (w : Syll) : Except DecodeError Instr :=
    match w.f5.toNat with
    | 0 => mz (decide (w.fa = 0)) (.csrr w.fd w.csr)
    | 1 => .ok (.csrw w.fd w.csr w.fa)
    | 2 => .ok (.csrs w.fd w.csr w.fa)
    | 3 => .ok (.csrc w.fd w.csr w.fa)
    | 4 => mz (decide (w.fc = 0)) (.swp w.fd w.fa w.fb)
    | 5 => mz (decide (w.fc = 0)) (.resume w.fd w.fa w.fb)
    | 7 => mz (decide (w.fc = 0) && decide (w.fd = 0) && decide (w.fa = 0) && decide (w.fb = 0)) (.brk)
    | 8 => mz (decide (w.fc = 0) && decide (w.fd = 0) && decide (w.fa = 0) && decide (w.fb = 0)) (.rft)
    | 9 => mz (decide (w.fc = 0) && decide (w.fd = 0) && decide (w.fb = 0)) (.park w.fa)
    | 6 => mz (decide (w.fd = 0) && decide (w.fa = 0)) (.trap w.csr)
    | _ => .error .reservedFunc

/-- Major 0x3D of the opcode map (R27). -/
def decode3D (w : Syll) : Except DecodeError Instr :=
    mz (decide (w.b24 = 0)) (.pfx w.v24)

/-- Major 0x3E of the opcode map (R27). -/
def decode3E (w : Syll) : Except DecodeError Instr :=
    match w.ff.toNat with
    | 0 => mz (decide (w.fd = 0) && decide (w.fa = 0) && decide (w.fb = 0)) .qsync
    | 1 => mz (decide (w.fa = 0) && decide (w.fb = 0)) (.qstat w.fd)
    | _ => .error .reservedFunc

/-- The syllable's fields read by its major (R27, R28), before the limits on its operands. -/
def decodeFields (w : Syll) : Except DecodeError Instr :=
  match w.major.toNat with
  | 1 => decode01 w
  | 2 => decode02 w
  | 3 => decode03 w
  | 4 => decode04 w
  | 5 => decode05 w
  | 6 => decode06 w
  | 7 => decode07 w
  | 8 => decode08 w
  | 9 => decode09 w
  | 10 => decode0A w
  | 11 => decode0B w
  | 12 => decode0C w
  | 13 => decode0D w
  | 16 => decode10 w
  | 17 => decode11 w
  | 18 => decode12 w
  | 19 => decode13 w
  | 20 => decode14 w
  | 24 => decode18 w
  | 25 => decode19 w
  | 32 => decode20 w
  | 33 => decode21 w
  | 34 => decode22 w
  | 35 => decode23 w
  | 36 => decode24 w
  | 37 => decode25 w
  | 40 => decode28 w
  | 41 => decode29 w
  | 42 => decode2A w
  | 43 => decode2B w
  | 44 => decode2C w
  | 45 => decode2D w
  | 46 => decode2E w
  | 48 => decode30 w
  | 49 => decode31 w
  | 50 => decode32 w
  | 51 => decode33 w
  | 52 => decode34 w
  | 53 => decode35 w
  | 54 => decode36 w
  | 56 => decode38 w
  | 60 => decode3C w
  | 61 => decode3D w
  | 62 => decode3E w
  | m => .error (reservedMajor m)

/-- The instruction a syllable stands for, or the name of what makes it illegal (R29). -/
def decodeSyllable (w : Syll) : Except DecodeError Instr :=
  match decodeFields w with
  | .ok i => if i.wf then .ok i else .error .operand
  | .error e => .error e

/-- The name of what makes an engine word that stands for no instruction a fault (R259 codes 1, 2, 4). -/
def engineError (w : EWord) : DecodeError :=
  if w = 0 then .engineZero else if 8 ≤ (w.extractLsb' 10 4).toNat then .engineReservedClass else .engineReservedFunc

/-- The word of an engine program (R256, R258 and the class chapters). -/
def decodeEngine (w : EWord) : Except DecodeError Instr :=
  if w.extractLsb' 15 1 = 1 then .ok (.lit (w.extractLsb' 0 15))
  else if w.extractLsb' 14 1 = 1 then .ok (.ext (w.extractLsb' 0 14))
  else match w.toNat with
    | 0x0001 => .ok .engNop
    | 0x0002 => .ok .end_
    | 0x0003 => .ok .dup
    | 0x0004 => .ok .drop
    | 0x0005 => .ok .engSwap
    | 0x0006 => .ok .engOver
    | 0x0007 => .ok .rot
    | 0x0008 => .ok .engAdd
    | 0x0009 => .ok .engSub
    | 0x000A => .ok .engMul
    | 0x000B => .ok .engShl
    | 0x000C => .ok .engShr
    | 0x000D => .ok .engAnd
    | 0x000E => .ok .engOr
    | 0x000F => .ok .ldp
    | 0x0010 => .ok .stp
    | 0x0011 => .ok .sig
    | 0x0012 => .ok .skz
    | 0x0400 => .ok .mmFmt
    | 0x0401 => .ok .mmScale
    | 0x0402 => .ok .mmGeo
    | 0x0403 => .ok .mmA
    | 0x0404 => .ok .mmB
    | 0x0405 => .ok .mmAcc
    | 0x0406 => .ok .mmRound
    | 0x0407 => .ok .mmDrain
    | 0x0408 => .ok .mmDrainla
    | 0x0409 => .ok .mmDrainmb
    | 0x040A => .ok .mmRun
    | 0x040B => .ok .mmRing
    | 0x040C => .ok .mmGmm
    | 0x0800 => .ok .bfLen
    | 0x0801 => .ok .bfSched
    | 0x0802 => .ok .bfLoad
    | 0x0803 => .ok .bfStage
    | 0x0804 => .ok .bfPass
    | 0x0805 => .ok .bfTwid
    | 0x0806 => .ok .bfCmul
    | 0x0807 => .ok .bfStore
    | 0x0C00 => .ok .cpDim
    | 0x0C01 => .ok .cpGo
    | 0x0C02 => .ok .cpFill
    | 0x0C03 => .ok .cpGath
    | 0x0C04 => .ok .cpScat
    | 0x0C05 => .ok .cpCvt
    | 0x0C06 => .ok .cpClr
    | 0x1000 => .ok .rtCfg
    | 0x1001 => .ok .rtBind
    | 0x1002 => .ok .rtCap
    | 0x1003 => .ok .rtRun
    | 0x1004 => .ok .rtEmit
    | 0x1005 => .ok .rtStat
    | 0x1400 => .ok .clGrp
    | 0x1401 => .ok .clRs
    | 0x1402 => .ok .clAg
    | 0x1403 => .ok .clChain
    | 0x1404 => .ok .clGo
    | 0x1800 => .ok .lgGate
    | 0x1801 => .ok .lgRun
    | 0x1802 => .ok .lgPf
    | 0x1C00 => .ok .exSet
    | 0x1C01 => .ok .exPin
    | 0x1C02 => .ok .exEvict
    | 0x1C03 => .ok .exRep
    | _ => .error (engineError w)

/-- A little-endian 16-bit word from its bytes (R8). -/
def word16 (b0 b1 : Byte) : EWord := b1 ++ b0
/-- A little-endian 32-bit word from its bytes (R8, R24). -/
def word32 (b0 b1 b2 b3 : Byte) : Syll := b3 ++ b2 ++ b1 ++ b0

/-- Decode the syllable at the head of a byte stream; the rest follows it. -/
def decodeBytes : List Byte → Except DecodeError (Instr × List Byte)
  | b0 :: b1 :: b2 :: b3 :: rest => (decodeSyllable (word32 b0 b1 b2 b3)).map (·, rest)
  | _ => .error .shortInput

/-- Decode the engine word at the head of a byte stream; the rest follows it. -/
def decodeEngineBytes : List Byte → Except DecodeError (Instr × List Byte)
  | b0 :: b1 :: rest => (decodeEngine (word16 b0 b1)).map (·, rest)
  | _ => .error .shortInput

/-- Byte k of a number laid out little-endian. -/
def byteOf (w k : Nat) : Byte := BitVec.ofNat 8 (w >>> (8 * k))

/-- The instruction the decoder reads from a table word: 16 bits an engine word, 32 bits a syllable. -/
def decodeTableWord (nbits w : Nat) : Option Instr :=
  if nbits = 16 then (decodeEngineBytes [byteOf w 0, byteOf w 1]).toOption.map (·.1)
  else if nbits = 32 then (decodeBytes [byteOf w 0, byteOf w 1, byteOf w 2, byteOf w 3]).toOption.map (·.1)
  else none

/-! ### The encoder -/

/-- reg3 (R25). -/
def mk3 (s : Bool) (m : BitVec 6) (d a b : Reg) (f : BitVec 10) : Syll := BitVec.ofBool s ++ m ++ d ++ a ++ b ++ f
/-- reg4 (R25). -/
def mk4 (s : Bool) (m : BitVec 6) (d a b c : Reg) (f : BitVec 5) : Syll := BitVec.ofBool s ++ m ++ d ++ a ++ b ++ c ++ f
/-- imm15 and branch (R25). -/
def mk15 (s : Bool) (m : BitVec 6) (d a : Reg) (i : BitVec 15) : Syll := BitVec.ofBool s ++ m ++ d ++ a ++ i
/-- fimm12 (R25). -/
def mk12 (s : Bool) (m : BitVec 6) (d a : Reg) (f : BitVec 3) (i : BitVec 12) : Syll :=
  BitVec.ofBool s ++ m ++ d ++ a ++ f ++ i
/-- imm20 and jump (R25). -/
def mk20 (s : Bool) (m : BitVec 6) (d : Reg) (i : BitVec 20) : Syll := BitVec.ofBool s ++ m ++ d ++ i
/-- field (R25). -/
def mkF (s : Bool) (m : BitVec 6) (d a : Reg) (p l : BitVec 6) (f : BitVec 3) : Syll :=
  BitVec.ofBool s ++ m ++ d ++ a ++ p ++ l ++ f
/-- prefix (R25). -/
def mkP (s : Bool) (v : BitVec 24) : Syll := BitVec.ofBool s ++ (0x3D : BitVec 6) ++ (0 : BitVec 1) ++ v

/-- The syllable of an instruction, with its stop bit; none for engine words and device events. -/
def encodeSyllable (i : Instr) (s : Bool) : Option Syll :=
  match i with
  | .add d a b => some (mk3 s 1 d a b 0)
  | .sub d a b => some (mk3 s 1 d a b 1)
  | .mul d a b => some (mk3 s 1 d a b 2)
  | .mulh d a b => some (mk3 s 1 d a b 3)
  | .mulhu d a b => some (mk3 s 1 d a b 4)
  | .div d a b => some (mk3 s 1 d a b 5)
  | .divu d a b => some (mk3 s 1 d a b 6)
  | .rem d a b => some (mk3 s 1 d a b 7)
  | .remu d a b => some (mk3 s 1 d a b 8)
  | .and d a b => some (mk3 s 1 d a b 9)
  | .andn d a b => some (mk3 s 1 d a b 10)
  | .or d a b => some (mk3 s 1 d a b 11)
  | .orn d a b => some (mk3 s 1 d a b 12)
  | .xor d a b => some (mk3 s 1 d a b 13)
  | .shl d a b => some (mk3 s 1 d a b 14)
  | .shr d a b => some (mk3 s 1 d a b 15)
  | .sar d a b => some (mk3 s 1 d a b 16)
  | .rotl d a b => some (mk3 s 1 d a b 17)
  | .min d a b => some (mk3 s 1 d a b 18)
  | .max d a b => some (mk3 s 1 d a b 19)
  | .minu d a b => some (mk3 s 1 d a b 20)
  | .maxu d a b => some (mk3 s 1 d a b 21)
  | .seq d a b => some (mk3 s 1 d a b 22)
  | .sne d a b => some (mk3 s 1 d a b 23)
  | .slt d a b => some (mk3 s 1 d a b 24)
  | .sltu d a b => some (mk3 s 1 d a b 25)
  | .sel d a b c => some (mk4 s 2 d a b c 0)
  | .addi d a imm => some (mk15 s 3 d a imm)
  | .andi d a imm => some (mk15 s 4 d a imm)
  | .ori d a imm => some (mk15 s 5 d a imm)
  | .xori d a imm => some (mk15 s 6 d a imm)
  | .muli d a imm => some (mk15 s 9 d a imm)
  | .shli d a sh => some (mk12 s 7 d a 0 ((0 : BitVec 6) ++ sh))
  | .shri d a sh => some (mk12 s 7 d a 1 ((0 : BitVec 6) ++ sh))
  | .sari d a sh => some (mk12 s 7 d a 2 ((0 : BitVec 6) ++ sh))
  | .slti d a imm => some (mk12 s 8 d a 0 imm)
  | .sltiu d a imm => some (mk12 s 8 d a 1 imm)
  | .li d imm => some (mk20 s 10 d imm)
  | .lsi d imm => some (mk20 s 11 d imm)
  | .clz d a => some (mk3 s 12 d a 0 0)
  | .ctz d a => some (mk3 s 12 d a 0 1)
  | .popc d a => some (mk3 s 12 d a 0 2)
  | .bswap d a => some (mk3 s 12 d a 0 3)
  | .lea d a b s2 => some (mk3 s 0xC d a b ((1 : BitVec 8) ++ s2))
  | .crd d n => some (mk3 s 0xC d n 0 8)
  | .bext d a pos len => some (mkF s 0xD d a pos len 0)
  | .bins d a pos len => some (mkF s 0xD d a pos len 1)
  | .bZ a off => some (mk15 s 0x10 0 a off)
  | .bNz a off => some (mk15 s 0x10 1 a off)
  | .bLz a off => some (mk15 s 0x10 2 a off)
  | .bGez a off => some (mk15 s 0x10 3 a off)
  | .bGz a off => some (mk15 s 0x10 4 a off)
  | .bLez a off => some (mk15 s 0x10 5 a off)
  | .j off => some (mk20 s 0x11 0 off)
  | .jal d off => some (mk20 s 0x12 d off)
  | .jalr d a imm => some (mk15 s 19 d a imm)
  | .btag p a => some (mk3 s 0x14 0 a 0 ((0 : BitVec 9) ++ p))
  | .ldl f d a off => some (mk12 s 24 d a f off)
  | .stl f d a off => some (mk12 s 25 d a f off)
  | .pfx v => some (mkP s v)
  | .csrr d n => some (mk3 s 0x3C d 0 (n.extractLsb' 0 5) (n.extractLsb' 5 5 ++ (0 : BitVec 5)))
  | .csrw d n a => some (mk3 s 0x3C d a (n.extractLsb' 0 5) (n.extractLsb' 5 5 ++ (1 : BitVec 5)))
  | .csrs d n a => some (mk3 s 0x3C d a (n.extractLsb' 0 5) (n.extractLsb' 5 5 ++ (2 : BitVec 5)))
  | .csrc d n a => some (mk3 s 0x3C d a (n.extractLsb' 0 5) (n.extractLsb' 5 5 ++ (3 : BitVec 5)))
  | .vldl d a k => some (mk3 s 0x30 d a 0 (k ++ (0 : BitVec 4)))
  | .vstl d a k => some (mk3 s 0x30 d a 0 (k ++ (1 : BitVec 4)))
  | .vbcast d a => some (mk3 s 48 d a 0 2)
  | .vext d a b => some (mk3 s 48 d a b 3)
  | .vins d a b => some (mk3 s 48 d a b 4)
  | .vmov d a => some (mk3 s 48 d a 0 5)
  | .vaddF d a b => some (mk3 s 49 d a b 0)
  | .vsubF d a b => some (mk3 s 49 d a b 1)
  | .vmulF d a b => some (mk3 s 49 d a b 2)
  | .vfmaF d a b => some (mk3 s 49 d a b 3)
  | .vminF d a b => some (mk3 s 49 d a b 4)
  | .vmaxF d a b => some (mk3 s 49 d a b 5)
  | .vabsF d a => some (mk3 s 49 d a 0 6)
  | .vnegF d a => some (mk3 s 49 d a 0 7)
  | .vaddI d a b => some (mk3 s 50 d a b 0)
  | .vsubI d a b => some (mk3 s 50 d a b 1)
  | .vmulI d a b => some (mk3 s 50 d a b 2)
  | .vminI d a b => some (mk3 s 50 d a b 3)
  | .vmaxI d a b => some (mk3 s 50 d a b 4)
  | .vand d a b => some (mk3 s 50 d a b 5)
  | .vor d a b => some (mk3 s 50 d a b 6)
  | .vxor d a b => some (mk3 s 50 d a b 7)
  | .vshl d a b => some (mk3 s 50 d a b 8)
  | .vshr d a b => some (mk3 s 50 d a b 9)
  | .vsar d a b => some (mk3 s 50 d a b 10)
  | .vcmpF cond d a b => some (mk3 s 0x33 d a b ((0 : BitVec 7) ++ cond))
  | .vsel d a b => some (mk3 s 51 d a b 8)
  | .vcvt d a part => some (mk3 s 0x33 d a part 9)
  | .vrcp d a => some (mk3 s 52 d a 0 0)
  | .vrsqrt d a => some (mk3 s 52 d a 0 1)
  | .vexp2 d a => some (mk3 s 52 d a 0 2)
  | .vlog2 d a => some (mk3 s 52 d a 0 3)
  | .vredAdd d a => some (mk3 s 53 d a 0 0)
  | .vscanAdd d a => some (mk3 s 53 d a 0 3)
  | .vredMax d a => some (mk3 s 53 d a 0 1)
  | .vredMin d a => some (mk3 s 53 d a 0 2)
  | .vargmax d a => some (mk3 s 53 d a 0 5)
  | .vargmin d a => some (mk3 s 53 d a 0 6)
  | .vsort d a => some (mk3 s 53 d a 0 8)
  | .vcompact d a b => some (mk3 s 53 d a b 4)
  | .vtopk d a b => some (mk3 s 53 d a b 7)
  | .vperm d a b => some (mk3 s 53 d a b 9)
  | .vrevd d a b => some (mk3 s 53 d a b 10)
  | .awclr a => some (mk3 s 54 0 a 0 0)
  | .awin a b => some (mk3 s 54 0 a b 1)
  | .awinm a b d => some (mk3 s 54 d a b 2)
  | .vawin a b => some (mk3 s 54 0 a b 3)
  | .awadd a b => some (mk3 s 54 0 a b 4)
  | .awrd d a => some (mk3 s 54 d a 0 5)
  | .send p => some (mk3 s 0x28 0 0 0 ((0 : BitVec 9) ++ p))
  | .sendv p a b => some (mk3 s 0x28 0 a b ((1 : BitVec 9) ++ p))
  | .tset d a => some (mk3 s 41 d a 0 0)
  | .tclr d a => some (mk3 s 41 d a 0 1)
  | .tpend d a => some (mk3 s 41 d a 0 2)
  | .tcreate d a => some (mk3 s 42 d a 0 0)
  | .tdec sc a b => some (mk3 s 42 sc a b 1)
  | .texit => some (mk3 s 42 0 0 0 2)
  | .yield => some (mk3 s 42 0 0 0 3)
  | .launch d a => some (mk3 s 43 d a 0 0)
  | .join d a => some (mk3 s 43 d a 0 1)
  | .bar d a => some (mk3 s 43 d a 0 2)
  | .waitw d a b => some (mk3 s 43 d a b 3)
  | .enq d a b => some (mk3 s 44 d a b 0)
  | .deq d a b => some (mk3 s 44 d a b 1)
  | .spawna d a => some (mk3 s 45 d a 0 0)
  | .baton => some (mk3 s 45 0 0 0 1)
  | .scwait sc a => some (mk3 s 45 sc a 0 2)
  | .mbxIns a b => some (mk3 s 46 0 a b 0)
  | .mbxRd d a => some (mk3 s 46 d a 0 1)
  | .mbxClr a b => some (mk3 s 46 0 a b 2)
  | .ldg f o d a off => some (mk12 s 0x20 d a f (o ++ off))
  | .vldg o d a off => some (mk12 s 0x20 d a 7 (o ++ off))
  | .stg f o d a off => some (mk12 s 0x21 d a ((0 : BitVec 1) ++ f) (o ++ off))
  | .vstg o d a off => some (mk12 s 0x21 d a 4 (o ++ off))
  | .ldr f d a off => some (mk12 s 0x22 d a ((0 : BitVec 1) ++ f) ((0 : BitVec 1) ++ off))
  | .ldrMig f d a off => some (mk12 s 0x22 d a ((0 : BitVec 1) ++ f) ((1 : BitVec 1) ++ off))
  | .str f d a off => some (mk12 s 0x22 d a ((1 : BitVec 1) ++ f) ((0 : BitVec 1) ++ off))
  | .amoAdd size ord nr d a b => some (mk3 s 0x23 d a b ((0 : BitVec 1) ++ nr ++ ord ++ size ++ (0 : BitVec 4)))
  | .amoAnd size ord nr d a b => some (mk3 s 0x23 d a b ((0 : BitVec 1) ++ nr ++ ord ++ size ++ (1 : BitVec 4)))
  | .amoOr size ord nr d a b => some (mk3 s 0x23 d a b ((0 : BitVec 1) ++ nr ++ ord ++ size ++ (2 : BitVec 4)))
  | .amoXor size ord nr d a b => some (mk3 s 0x23 d a b ((0 : BitVec 1) ++ nr ++ ord ++ size ++ (3 : BitVec 4)))
  | .amoMin size ord nr d a b => some (mk3 s 0x23 d a b ((0 : BitVec 1) ++ nr ++ ord ++ size ++ (4 : BitVec 4)))
  | .amoMax size ord nr d a b => some (mk3 s 0x23 d a b ((0 : BitVec 1) ++ nr ++ ord ++ size ++ (5 : BitVec 4)))
  | .amoMinu size ord nr d a b => some (mk3 s 0x23 d a b ((0 : BitVec 1) ++ nr ++ ord ++ size ++ (6 : BitVec 4)))
  | .amoMaxu size ord nr d a b => some (mk3 s 0x23 d a b ((0 : BitVec 1) ++ nr ++ ord ++ size ++ (7 : BitVec 4)))
  | .amoSwap size ord nr d a b => some (mk3 s 0x23 d a b ((0 : BitVec 1) ++ nr ++ ord ++ size ++ (8 : BitVec 4)))
  | .amoCas size ord nr d a b => some (mk3 s 0x23 d a b ((0 : BitVec 1) ++ nr ++ ord ++ size ++ (9 : BitVec 4)))
  | .amoIncb size ord nr d a b => some (mk3 s 0x23 d a b ((0 : BitVec 1) ++ nr ++ ord ++ size ++ (10 : BitVec 4)))
  | .amoFadd size ord nr d a b => some (mk3 s 0x23 d a b ((0 : BitVec 1) ++ nr ++ ord ++ size ++ (11 : BitVec 4)))
  | .fence scope => some (mk3 s 0x24 0 0 0 ((0 : BitVec 7) ++ scope))
  | .fenceI => some (mk3 s 0x24 0 0 0 6)
  | .pf sc a => some (mk3 s 0x24 sc a 0 7)
  | .tlook d a => some (mk3 s 37 d a 0 0)
  | .tfill d a b => some (mk3 s 37 d a b 1)
  | .tinv d a => some (mk3 s 37 d a 0 2)
  | .job kind d a b => some (mk3 s 0x38 d a b ((0 : BitVec 3) ++ kind ++ (0 : BitVec 4)))
  | .jobNb kind d a b => some (mk3 s 0x38 d a b ((0 : BitVec 3) ++ kind ++ (1 : BitVec 4)))
  | .jwait d a => some (mk3 s 0x38 d a 0 2)
  | .jpoll d a b => some (mk3 s 0x38 d a b 3)
  | .jcancel d a => some (mk3 s 0x38 d a 0 4)
  | .qsync => some (mk3 s 0x3E 0 0 0 0)
  | .qstat d => some (mk3 s 0x3E d 0 0 1)
  | .swp d a b => some (mk3 s 60 d a b 4)
  | .resume d a b => some (mk3 s 60 d a b 5)
  | .trap n => some (mk3 s 0x3C 0 0 (n.extractLsb' 0 5) (n.extractLsb' 5 5 ++ (6 : BitVec 5)))
  | .brk => some (mk3 s 60 0 0 0 7)
  | .rft => some (mk3 s 60 0 0 0 8)
  | .park a => some (mk3 s 60 0 a 0 9)
  | .registerWrite _ _ _ => none
  | .taskStart _ _ => none
  | .taskAging _ _ => none
  | .budgetExpiry _ _ => none
  | .messageDelivery _ => none
  | .heldMessageDispatch _ => none
  | .noticeDelivery _ => none
  | .homeAccess _ => none
  | .loadReply _ => none
  | .storeAck _ => none
  | .remoteFaultReply _ => none
  | .migrationArrival _ => none
  | .migrationTimeout _ => none
  | .guestReturn _ _ => none
  | .batonReceive _ => none
  | .depDecrement _ => none
  | .readyListInsert _ => none
  | .launchPlacement _ => none
  | .barrierComplete _ => none
  | .joinComplete _ => none
  | .waitwWake _ => none
  | .deqServe _ => none
  | .roundStart _ => none
  | .roundCommit _ => none
  | .jobStart _ _ => none
  | .jobComplete _ => none
  | .jobSuccessorDecrement _ => none
  | .claimGrant _ => none
  | .recallClaim _ _ => none
  | .rangeLockRelease _ => none
  | .drainWakeup _ => none
  | .scoreMessageInsert _ => none
  | .evictPhaseTwo _ => none
  | .clReadySignal _ => none
  | .clStepData _ => none
  | .clPartnerTimeout _ => none
  | .translationWalk _ _ _ => none
  | .sectorFill _ => none
  | .lineEviction _ => none
  | .shootdownPage => none
  | .shootdownContext => none
  | .shootdownAll => none
  | .shootdownPlacementMap => none
  | .shootdownInvalidation _ => none
  | .shootdownAck => none
  | .remoteTranslationRequest _ _ _ _ => none
  | .sccfgWrite _ _ => none
  | .mbcfgWrite _ _ => none
  | .llcpartWrite _ => none
  | .calcfgWrite _ => none
  | .optportWrite _ _ => none
  | .peerClear _ => none
  | .preemptSave => none
  | .preemptRestore => none
  | .preemptKill => none
  | .drainHedge => none
  | .reloadHedge => none
  | .retireStack => none
  | .returnStack => none
  | .recalibratePort => none
  | .replaceFirmware => none
  | .powerOn => none
  | .coldStart => none
  | .warmStart _ => none
  | .quote => none
  | .droopLoop _ _ => none
  | .opticalEqualisation _ => none
  | .hbmRecalibration _ => none
  | .lookaheadThreshold _ => none
  | .replicaHint _ _ => none
  | .frameMark _ _ => none
  | .marksMissed _ => none
  | .frameTransmit _ => none
  | .frameReceive _ _ _ _ => none
  | .portLost _ => none
  | .sequenceAck _ _ => none
  | .retransmitTimeout _ _ _ => none
  | .latePacketAging _ => none
  | .helloSend _ => none
  | .helloReceive _ _ _ => none
  | .peerTimeout _ => none
  | .hostRead _ _ => none
  | .hostWrite _ _ _ => none
  | .hostAtomic _ _ _ _ _ => none
  | .hostEnqueue _ _ _ => none
  | .hostCsrrd _ _ => none
  | .hostCsrwr _ _ _ => none
  | .linkFlitFailure _ => none
  | .readoutRead _ _ _ => none
  | .lit _ => none
  | .ext _ => none
  | .engNop => none
  | .end_ => none
  | .dup => none
  | .drop => none
  | .engSwap => none
  | .engOver => none
  | .rot => none
  | .engAdd => none
  | .engSub => none
  | .engMul => none
  | .engShl => none
  | .engShr => none
  | .engAnd => none
  | .engOr => none
  | .ldp => none
  | .stp => none
  | .sig => none
  | .skz => none
  | .mmFmt => none
  | .mmScale => none
  | .mmGeo => none
  | .mmA => none
  | .mmB => none
  | .mmAcc => none
  | .mmRound => none
  | .mmDrain => none
  | .mmDrainla => none
  | .mmDrainmb => none
  | .mmRun => none
  | .mmRing => none
  | .mmGmm => none
  | .bfLen => none
  | .bfSched => none
  | .bfLoad => none
  | .bfStage => none
  | .bfPass => none
  | .bfTwid => none
  | .bfCmul => none
  | .bfStore => none
  | .cpDim => none
  | .cpGo => none
  | .cpFill => none
  | .cpGath => none
  | .cpScat => none
  | .cpCvt => none
  | .cpClr => none
  | .rtCfg => none
  | .rtBind => none
  | .rtCap => none
  | .rtRun => none
  | .rtEmit => none
  | .rtStat => none
  | .clGrp => none
  | .clRs => none
  | .clAg => none
  | .clChain => none
  | .clGo => none
  | .lgGate => none
  | .lgRun => none
  | .lgPf => none
  | .exSet => none
  | .exPin => none
  | .exEvict => none
  | .exRep => none
  | .referenceCounterTick _ _ => none
  | .resultCompletion _ _ => none
  | .uncorrectableError _ _ _ => none
  | .powerLoss _ => none

/-- The engine word of an instruction; none for syllables and device events (R256). -/
def encodeEngine (i : Instr) : Option EWord :=
  match i with
  | .lit n => some ((1 : BitVec 1) ++ n)
  | .ext n => some ((1 : BitVec 2) ++ n)
  | .engNop => some 0x0001
  | .end_ => some 0x0002
  | .dup => some 0x0003
  | .drop => some 0x0004
  | .engSwap => some 0x0005
  | .engOver => some 0x0006
  | .rot => some 0x0007
  | .engAdd => some 0x0008
  | .engSub => some 0x0009
  | .engMul => some 0x000A
  | .engShl => some 0x000B
  | .engShr => some 0x000C
  | .engAnd => some 0x000D
  | .engOr => some 0x000E
  | .ldp => some 0x000F
  | .stp => some 0x0010
  | .sig => some 0x0011
  | .skz => some 0x0012
  | .mmFmt => some 0x0400
  | .mmScale => some 0x0401
  | .mmGeo => some 0x0402
  | .mmA => some 0x0403
  | .mmB => some 0x0404
  | .mmAcc => some 0x0405
  | .mmRound => some 0x0406
  | .mmDrain => some 0x0407
  | .mmDrainla => some 0x0408
  | .mmDrainmb => some 0x0409
  | .mmRun => some 0x040A
  | .mmRing => some 0x040B
  | .mmGmm => some 0x040C
  | .bfLen => some 0x0800
  | .bfSched => some 0x0801
  | .bfLoad => some 0x0802
  | .bfStage => some 0x0803
  | .bfPass => some 0x0804
  | .bfTwid => some 0x0805
  | .bfCmul => some 0x0806
  | .bfStore => some 0x0807
  | .cpDim => some 0x0C00
  | .cpGo => some 0x0C01
  | .cpFill => some 0x0C02
  | .cpGath => some 0x0C03
  | .cpScat => some 0x0C04
  | .cpCvt => some 0x0C05
  | .cpClr => some 0x0C06
  | .rtCfg => some 0x1000
  | .rtBind => some 0x1001
  | .rtCap => some 0x1002
  | .rtRun => some 0x1003
  | .rtEmit => some 0x1004
  | .rtStat => some 0x1005
  | .clGrp => some 0x1400
  | .clRs => some 0x1401
  | .clAg => some 0x1402
  | .clChain => some 0x1403
  | .clGo => some 0x1404
  | .lgGate => some 0x1800
  | .lgRun => some 0x1801
  | .lgPf => some 0x1802
  | .exSet => some 0x1C00
  | .exPin => some 0x1C01
  | .exEvict => some 0x1C02
  | .exRep => some 0x1C03
  | .add _ _ _ => none
  | .sub _ _ _ => none
  | .mul _ _ _ => none
  | .mulh _ _ _ => none
  | .mulhu _ _ _ => none
  | .div _ _ _ => none
  | .divu _ _ _ => none
  | .rem _ _ _ => none
  | .remu _ _ _ => none
  | .and _ _ _ => none
  | .andn _ _ _ => none
  | .or _ _ _ => none
  | .orn _ _ _ => none
  | .xor _ _ _ => none
  | .shl _ _ _ => none
  | .shr _ _ _ => none
  | .sar _ _ _ => none
  | .rotl _ _ _ => none
  | .min _ _ _ => none
  | .max _ _ _ => none
  | .minu _ _ _ => none
  | .maxu _ _ _ => none
  | .seq _ _ _ => none
  | .sne _ _ _ => none
  | .slt _ _ _ => none
  | .sltu _ _ _ => none
  | .sel _ _ _ _ => none
  | .addi _ _ _ => none
  | .andi _ _ _ => none
  | .ori _ _ _ => none
  | .xori _ _ _ => none
  | .muli _ _ _ => none
  | .shli _ _ _ => none
  | .shri _ _ _ => none
  | .sari _ _ _ => none
  | .slti _ _ _ => none
  | .sltiu _ _ _ => none
  | .li _ _ => none
  | .lsi _ _ => none
  | .clz _ _ => none
  | .ctz _ _ => none
  | .popc _ _ => none
  | .bswap _ _ => none
  | .lea _ _ _ _ => none
  | .crd _ _ => none
  | .bext _ _ _ _ => none
  | .bins _ _ _ _ => none
  | .bZ _ _ => none
  | .bNz _ _ => none
  | .bLz _ _ => none
  | .bGez _ _ => none
  | .bGz _ _ => none
  | .bLez _ _ => none
  | .j _ => none
  | .jal _ _ => none
  | .jalr _ _ _ => none
  | .btag _ _ => none
  | .ldl _ _ _ _ => none
  | .stl _ _ _ _ => none
  | .pfx _ => none
  | .csrr _ _ => none
  | .csrw _ _ _ => none
  | .csrs _ _ _ => none
  | .csrc _ _ _ => none
  | .registerWrite _ _ _ => none
  | .vldl _ _ _ => none
  | .vstl _ _ _ => none
  | .vbcast _ _ => none
  | .vext _ _ _ => none
  | .vins _ _ _ => none
  | .vmov _ _ => none
  | .vaddF _ _ _ => none
  | .vsubF _ _ _ => none
  | .vmulF _ _ _ => none
  | .vfmaF _ _ _ => none
  | .vminF _ _ _ => none
  | .vmaxF _ _ _ => none
  | .vabsF _ _ => none
  | .vnegF _ _ => none
  | .vaddI _ _ _ => none
  | .vsubI _ _ _ => none
  | .vmulI _ _ _ => none
  | .vminI _ _ _ => none
  | .vmaxI _ _ _ => none
  | .vand _ _ _ => none
  | .vor _ _ _ => none
  | .vxor _ _ _ => none
  | .vshl _ _ _ => none
  | .vshr _ _ _ => none
  | .vsar _ _ _ => none
  | .vcmpF _ _ _ _ => none
  | .vsel _ _ _ => none
  | .vcvt _ _ _ => none
  | .vrcp _ _ => none
  | .vrsqrt _ _ => none
  | .vexp2 _ _ => none
  | .vlog2 _ _ => none
  | .vredAdd _ _ => none
  | .vscanAdd _ _ => none
  | .vredMax _ _ => none
  | .vredMin _ _ => none
  | .vargmax _ _ => none
  | .vargmin _ _ => none
  | .vsort _ _ => none
  | .vcompact _ _ _ => none
  | .vtopk _ _ _ => none
  | .vperm _ _ _ => none
  | .vrevd _ _ _ => none
  | .awclr _ => none
  | .awin _ _ => none
  | .awinm _ _ _ => none
  | .vawin _ _ => none
  | .awadd _ _ => none
  | .awrd _ _ => none
  | .send _ => none
  | .sendv _ _ _ => none
  | .tset _ _ => none
  | .tclr _ _ => none
  | .tpend _ _ => none
  | .tcreate _ _ => none
  | .tdec _ _ _ => none
  | .texit => none
  | .yield => none
  | .launch _ _ => none
  | .join _ _ => none
  | .bar _ _ => none
  | .waitw _ _ _ => none
  | .enq _ _ _ => none
  | .deq _ _ _ => none
  | .spawna _ _ => none
  | .baton => none
  | .scwait _ _ => none
  | .mbxIns _ _ => none
  | .mbxRd _ _ => none
  | .mbxClr _ _ => none
  | .ldg _ _ _ _ _ => none
  | .vldg _ _ _ _ => none
  | .stg _ _ _ _ _ => none
  | .vstg _ _ _ _ => none
  | .ldr _ _ _ _ => none
  | .ldrMig _ _ _ _ => none
  | .str _ _ _ _ => none
  | .amoAdd _ _ _ _ _ _ => none
  | .amoAnd _ _ _ _ _ _ => none
  | .amoOr _ _ _ _ _ _ => none
  | .amoXor _ _ _ _ _ _ => none
  | .amoMin _ _ _ _ _ _ => none
  | .amoMax _ _ _ _ _ _ => none
  | .amoMinu _ _ _ _ _ _ => none
  | .amoMaxu _ _ _ _ _ _ => none
  | .amoSwap _ _ _ _ _ _ => none
  | .amoCas _ _ _ _ _ _ => none
  | .amoIncb _ _ _ _ _ _ => none
  | .amoFadd _ _ _ _ _ _ => none
  | .fence _ => none
  | .fenceI => none
  | .pf _ _ => none
  | .tlook _ _ => none
  | .tfill _ _ _ => none
  | .tinv _ _ => none
  | .job _ _ _ _ => none
  | .jobNb _ _ _ _ => none
  | .jwait _ _ => none
  | .jpoll _ _ _ => none
  | .jcancel _ _ => none
  | .qsync => none
  | .qstat _ => none
  | .swp _ _ _ => none
  | .resume _ _ _ => none
  | .trap _ => none
  | .brk => none
  | .rft => none
  | .park _ => none
  | .taskStart _ _ => none
  | .taskAging _ _ => none
  | .budgetExpiry _ _ => none
  | .messageDelivery _ => none
  | .heldMessageDispatch _ => none
  | .noticeDelivery _ => none
  | .homeAccess _ => none
  | .loadReply _ => none
  | .storeAck _ => none
  | .remoteFaultReply _ => none
  | .migrationArrival _ => none
  | .migrationTimeout _ => none
  | .guestReturn _ _ => none
  | .batonReceive _ => none
  | .depDecrement _ => none
  | .readyListInsert _ => none
  | .launchPlacement _ => none
  | .barrierComplete _ => none
  | .joinComplete _ => none
  | .waitwWake _ => none
  | .deqServe _ => none
  | .roundStart _ => none
  | .roundCommit _ => none
  | .jobStart _ _ => none
  | .jobComplete _ => none
  | .jobSuccessorDecrement _ => none
  | .claimGrant _ => none
  | .recallClaim _ _ => none
  | .rangeLockRelease _ => none
  | .drainWakeup _ => none
  | .scoreMessageInsert _ => none
  | .evictPhaseTwo _ => none
  | .clReadySignal _ => none
  | .clStepData _ => none
  | .clPartnerTimeout _ => none
  | .translationWalk _ _ _ => none
  | .sectorFill _ => none
  | .lineEviction _ => none
  | .shootdownPage => none
  | .shootdownContext => none
  | .shootdownAll => none
  | .shootdownPlacementMap => none
  | .shootdownInvalidation _ => none
  | .shootdownAck => none
  | .remoteTranslationRequest _ _ _ _ => none
  | .sccfgWrite _ _ => none
  | .mbcfgWrite _ _ => none
  | .llcpartWrite _ => none
  | .calcfgWrite _ => none
  | .optportWrite _ _ => none
  | .peerClear _ => none
  | .preemptSave => none
  | .preemptRestore => none
  | .preemptKill => none
  | .drainHedge => none
  | .reloadHedge => none
  | .retireStack => none
  | .returnStack => none
  | .recalibratePort => none
  | .replaceFirmware => none
  | .powerOn => none
  | .coldStart => none
  | .warmStart _ => none
  | .quote => none
  | .droopLoop _ _ => none
  | .opticalEqualisation _ => none
  | .hbmRecalibration _ => none
  | .lookaheadThreshold _ => none
  | .replicaHint _ _ => none
  | .frameMark _ _ => none
  | .marksMissed _ => none
  | .frameTransmit _ => none
  | .frameReceive _ _ _ _ => none
  | .portLost _ => none
  | .sequenceAck _ _ => none
  | .retransmitTimeout _ _ _ => none
  | .latePacketAging _ => none
  | .helloSend _ => none
  | .helloReceive _ _ _ => none
  | .peerTimeout _ => none
  | .hostRead _ _ => none
  | .hostWrite _ _ _ => none
  | .hostAtomic _ _ _ _ _ => none
  | .hostEnqueue _ _ _ => none
  | .hostCsrrd _ _ => none
  | .hostCsrwr _ _ _ => none
  | .linkFlitFailure _ => none
  | .readoutRead _ _ _ => none
  | .referenceCounterTick _ _ => none
  | .resultCompletion _ _ => none
  | .uncorrectableError _ _ _ => none
  | .powerLoss _ => none

/-- The words of a well-formed instruction in the order they are stored (R8): the syllable ends its group. -/
def encode (i : Instr) : List Byte :=
  match encodeSyllable i true, encodeEngine i with
  | some w, _ => [w.extractLsb' 0 8, w.extractLsb' 8 8, w.extractLsb' 16 8, w.extractLsb' 24 8]
  | none, some w => [w.extractLsb' 0 8, w.extractLsb' 8 8]
  | none, none => []

/-- Syllables are the instructions with a 32-bit encoding (R24). -/
def Instr.isSyllable (i : Instr) : Bool := (encodeSyllable i true).isSome
/-- Engine words are the instructions with a 16-bit encoding (R256). -/
def Instr.isEngineWord (i : Instr) : Bool := (encodeEngine i).isSome
/-- Device events have no encoding (95_what_each_step_holds). -/
def Instr.isEvent (i : Instr) : Bool := !i.isSyllable && !i.isEngineWord

end Sys2Proof
end

