-- ==== Sys2Proof/Config.lean ====
section
/-! DEFINITION. What an implementation fixes and the values the manual leaves open.
Each opaque constant has no body: no proof can see its value (logs 8, 20, 21, 50, 67). -/

namespace Sys2Proof.Config

/-- SHA-512 (R423): the spec names FIPS 180-4 and gives no definition. DESIGN CHOICE (log 8): a function of the bytes that
nothing else constrains. -/
opaque sha512 : List Byte → BitVec 512

/-- The Ed25519 signature of bytes with the device key (R423): the key is not given. DESIGN CHOICE (log 8). -/
opaque sign : List Byte → BitVec 512

/-- The management-controller firmware that start n finds (R423). DESIGN CHOICE (log 8): a free value. -/
opaque firmware : Nat → List Byte

/-- The walker routines that start n finds (R423). DESIGN CHOICE (log 8): a free value. -/
opaque routines : Nat → List Byte

/-- The start record as bytes (R420, R423): CALCFG, the sixteen OPTPORT.adv and the 128 PEER; its layout is not given.
DESIGN CHOICE (log 8): a free value. -/
opaque recordImage : Word → List Word → List Word → List Byte

/-- The image at an address that replacement n takes (R425): its length and format are not given. DESIGN CHOICE (log 8). -/
opaque newImage : Nat → Word → List Byte

/-- Whether the signature that an image carries checks against the fused key (R423). DESIGN CHOICE (log 8). -/
opaque imageOk : List Byte → Bool

/-- The body of a pre-emption image beyond its header, in the device's own format (R374): word k of image n.
DESIGN CHOICE (log 20). -/
opaque imageWord : Nat → Nat → Word

/-- The bytes that image n takes beyond its header, its local lines and its workspaces (R374): the format is the
device's own. DESIGN CHOICE (log 20). -/
opaque imageMore : Nat → Nat

/-- The word of a context descriptor, root table or placement map at a physical address that no device memory has, which
R172 lets no pointer name and of which no read is described. DESIGN CHOICE (log 67): a free value. -/
opaque strayWord : Nat → Word

/-- The status word of a mailbox row after an uncorrectable error struck it (R369): the spec gives none. DESIGN CHOICE
(log 50): a free value, its reserved bits zero. -/
opaque struckRow : Nat → Word

/-- The logical index of physical core n in a context whose map names no hedge there (R22, R5): the spec gives none.
DESIGN CHOICE (log 21): a free value. -/
opaque unmappedIndex : Nat → Nat → Nat

end Sys2Proof.Config
end

