-- ==== Sys2Proof/Machine/State.lean ====
section
/-! DEFINITION. The state of the device as plain data: everything the spec gives the machine (INVENTORY.md, State),
the reasons a step can stop, and the state after reset. Cores, hedges, thickets and dies are numbered by physical
position; a physical core's number is the linear index y * 64 + x of its position (R4, R181). -/

namespace Sys2Proof.Machine

/-- Memory as (address, byte) pairs: addresses strictly rising, no entry equal to what an unlisted address reads as. -/
abbrev Memory := List Host.Cell

/-- A sparse table by number; an unlisted entry holds a default given by its reader. -/
abbrev Tbl (α : Type) := List (Nat × α)

/-- Why a step stops with a fault: for no reason. The spec stops the machine nowhere, and the model has no fault to raise
(safe: no step ends in one). -/
inductive Fault where
  deriving DecidableEq, Repr

/-- Why a step is refused. -/
inductive Refusal where
  /-- An instruction without a meaning in this model; raised by dispatch arms only. Safe: the model stops. -/
  | notModelled (mnemonic : String)
  deriving DecidableEq, Repr

/-- The four exception flags (R57). -/
structure Flags where
  nv : Bool := false
  of : Bool := false
  uf : Bool := false
  nx : Bool := false
  deriving DecidableEq, Repr

/-- What a trap records (R348, R349). -/
structure TrapInfo where
  code : Nat
  info : Nat := 0
  acc : Nat := 0
  addr : Word := 0
  isDef : Bool := false
  /-- The physical address of an uncorrectable error, for its record (R370). -/
  pa : Nat := 0
  deriving DecidableEq, Repr

/-- The kinds of storage an access can have its home in (R161, R404). -/
inductive Space where
  | core (n : Nat)
  | dev
  | host
  | remote (pkg : Nat)
  deriving DecidableEq, Repr

/-- A home: where accesses of one home keep their order (R208, R210). -/
inductive Home where
  | core (n : Nat)
  | slice (n : Nat)
  | host
  | remote (pkg : Nat)
  deriving DecidableEq, Repr

/-- What performs at a home (R191, R198, R144, R152-R154, R138, R205); mig is the load of a thread that asks to
migrate (R128), watch a waitw that has compared and waits for a value, woken one that has found it. -/
inductive PKind where
  | load (n : Nat)
  | mig (n : Nat)
  | store (data : Vec) (mask : BitVec 64)
  | amo (op size : Nat) (b d : BitVec 128) (nr : Bool)
  | tdec (k : Nat)
  | msg (words : List Word)
  | waitw (b : Word)
  | watch (b : Word)
  | woken (v : Word)
  | enq (item : List Word)
  | deq
  | pf
  | score (row : Nat) (entries : List (BitVec 128)) (job : Nat)
  | xreq
  | sysm (words : List Word)
  | claim
  | unclaim
  | recall
  deriving DecidableEq, Repr

/-- Who issued an access: package, physical core, thread or job, context and rights (R167, R184); far: it came from
another package. -/
structure Source where
  pkg : Nat := 0
  core : Nat := 0
  lin : Nat := 0
  uid : Nat := 0
  job : Nat := 0
  ctx : Nat := 0
  sys : Bool := false
  far : Bool := false
  deriving DecidableEq, Repr

/-- An access or message in flight (R208, R210, R133): waited is its place in the order of arrival while it waits at its
home; lateAt is the cycle after which it was first held back as late at its router (R366), leaf the policy of the leaf that a
physical address came from (R408); mc tells the copies of one multicast (R139, R140); done and got are the words of a vector access to host memory that
have been performed, and what they returned (R192). -/
structure Packet where
  id : Nat := 0
  cls : Nat := 0
  src : Source := {}
  home : Home := .host
  space : Space := .host
  va : Word := 0
  loc : Nat := 0
  pol : Nat := 0
  kind : PKind := .pf
  sc : Option Nat := none
  cnt : Nat := 1
  sslot : Nat := 0
  queued : Bool := false
  waiting : Bool := false
  late : Bool := false
  waited : Nat := 0
  lateAt : Nat := 0
  leaf : Nat := 0
  mc : Nat := 0
  done : List Nat := []
  got : Vec := 0
  deriving DecidableEq, Repr

/-- A cached translation: context, first address, size and leaf (R186, R406, R408). -/
structure TlbEntry where
  ctx : Nat
  va : Nat
  size : Nat
  frame : Nat
  x : Bool
  usr : Bool
  w : Bool
  pol : Nat
  pkg : Nat := 0
  inc : Nat := 0
  deriving DecidableEq, Repr

/-- The answer of a home to its source (R193, R168, R407). -/
inductive RKind where
  | value (v : Vec) (fl : Flags)
  | ack
  | nack
  | dataErr
  | empty
  | leaf (e : TlbEntry)
  | remote (code info : Nat)
  deriving DecidableEq, Repr

/-- An answer in flight, with the home that gives it (R203) and its class: engine data is bulk (R7, R210). -/
structure Reply where
  id : Nat := 0
  cls : Nat := 1
  src : Source := {}
  posted : Bool := false
  sc : Option Nat := none
  cnt : Nat := 1
  va : Word := 0
  acc : Nat := 0
  home : Home := .host
  kind : RKind := .ack
  deriving DecidableEq, Repr

/-- Where the value of a waiting group goes (R191, R197, R154). -/
inductive Dst where
  | none
  | reg (d : Nat) (bits : Nat) (signed : Bool)
  | vec (d : Nat)
  | pair (d : Nat)
  | item (d : Nat) (off : Nat)
  deriving DecidableEq, Repr

/-- A store to the own local memory in the write phase (R21, R76, R87, R105). -/
structure LStore where
  addr : Nat
  bytes : List Byte
  deriving DecidableEq, Repr

/-- Why a slot waits with its group unperformed or held (R107, R193); back: the value that a remote read brought home is
there, and the group is performed as the thread enters its slot (R128). -/
inductive Hold where
  | reply (rid : Nat)
  | fetch (rid : Nat)
  | join (id : Nat)
  | bar (k : Nat)
  | commit
  | goHome
  | baton
  | back
  deriving DecidableEq, Repr

/-- An open barrier: subgroup of a launch and the threads that have arrived (R151). -/
structure Barrier where
  id : Nat
  launch : Nat
  rx : Nat
  ry : Nat
  lw : Nat
  lh : Nat
  arrived : List (Nat × Nat) := []
  done : Option Nat := none
  passed : List (Nat × Nat) := []
  deriving DecidableEq, Repr

/-- The write-phase actions of a group beyond register writes (R21, R138, R227). -/
inductive Act where
  | send (port : Nat) (words : List Word) (compose : Bool)
  | post (p : Packet)
  | call (p : Packet) (dst : Dst)
  | tset (d : Nat) (a : Word)
  | tclr (d : Nat) (a : Word)
  | tcreate (d : Nat) (desc : List Word)
  | launch (d : Nat) (a : Nat) (desc : List Word)
  | job (d kind a b : Nat) (nb : Bool) (node : List Word) (prog : List EWord) (ended : Bool)
  | jcancel (d : Nat) (a : Word)
  | csr (n : Nat) (v : Word)
  | swp (wp : Nat) (swp : Option Nat)
  | mbxIns (row : Nat) (entry : BitVec 128)
  | mbxClr (a b : Word)
  | tags (tags : Tbl Word) (ptr : Nat)
  | fenceI
  | yield
  | texit
  | texitAs (wp : Nat)
  | qsync
  | spawna (d : Nat) (entry : Word) (regs : Memory)
  | respawn (d : Nat) (entry : Word)
  | baton
  | joinDone (id : Nat)
  | joinWait (id : Nat)
  | barArrive (b : Barrier) (lin k : Nat)
  | barPass (b : Barrier) (lin k : Nat)
  | trapSvc (n : Nat) (addr : Word)
  | rft (pc sw : Word) (wp : Nat)
  | park (key pc sw : Word) (wp : Nat)
  | resume (d : Nat) (key : Word) (kill : Bool)
  | notice (w : Word)
  | claim (port msg : Nat)
  deriving DecidableEq, Repr

/-- The staged effects of a group: what R21's write phase will do, or why it cannot. late lists the registers whose
syllable completes after issue (R19, R61); reads are the byte ranges loaded outside private storage; probe is the bound
of a wait whose home is another package, tried by a load (R228); claimAt is the local range whose claim the group waits
for (R77, R216), missAt the page whose translation it awaits (R186). -/
structure Fx where
  wr : List (Nat × Word) := []
  vwr : List (Nat × Vec) := []
  late : List Nat := []
  pops : List Nat := []
  fl : Flags := {}
  warn : BitVec 16 := 0
  next : Option Word := none
  st : List LStore := []
  csr : Option (Nat × Word) := none
  acts : List Act := []
  ctl : Option Act := none
  req : Option Packet := none
  probe : Option Word := none
  holdOn : Option Hold := none
  rep : Option (Nat × Nat) := none
  dst : Dst := .none
  reads : List (Space × Nat × Nat) := []
  pre : Option TrapInfo := none
  home : Bool := false
  stall : Bool := false
  portWait : Bool := false
  brk : Option TrapInfo := none
  trap : Option TrapInfo := none
  wait : Bool := false
  full : Bool := false
  baton : Bool := false
  tlb : List TlbEntry := []
  lines : Nat := 0
  endQ : Bool := false
  cut : Bool := false
  pfx : Option (BitVec 24) := none
  sylls : Nat := 0
  claimAt : Option (Nat × Nat) := none
  missAt : Option Nat := none
  deriving DecidableEq, Repr

/-- The group in progress: syllables still to come, syllables done, the prefix pending for the next syllable. -/
structure Grp where
  left : Nat := 0
  idx : Nat := 0
  pfx : Option (BitVec 24) := none
  fx : Fx := {}
  deriving DecidableEq, Repr

/-- One line of the speculative store buffer with its byte mask, or a held non-returning atomic (R126, R223). parts are
the stores that the line holds, in program order: the address of each, none for a local store, its bytes and mask. -/
inductive BufEntry where
  | line (sp : Space) (n : Nat) (data : Vec) (mask : BitVec 64) (pol : Nat) (cnt : Nat)
      (parts : List (Option Word × Vec × BitVec 64))
  | amo (p : Packet)
  deriving DecidableEq, Repr

/-- The deferred record of a thread (R363). -/
structure Deferred where
  code : Nat
  acc : Nat
  addr : Word
  info : Nat := 0
  count : Nat := 0
  deriving DecidableEq, Repr

/-- A thread: a task with what it owns beside its workspace (R109, R134, R363, R70, R125, R223); scomp0 and scomp1 are
the composition buffers of system mode (R357); trapNext is the trap of an access that was refused, taken before the next group,
trapLater one that a deadline trap of an ordered thread went before (R367). -/
structure Thread where
  uid : Nat := 0
  ctx : Nat := 0
  prio : Nat := 0
  tag : Nat := 0
  seq : BitVec 32 := 0
  lin : Nat := 0
  w2 : Word := 0
  k : Nat := 0
  launch : Option Nat := none
  pc : Word := 0
  sw : Word := 0
  wp : Nat := 0
  home : Nat := 0
  homeWp : Nat := 0
  rbase : Nat := 0
  rsize : Nat := 0
  synret : Nat := 0
  grpret : Nat := 0
  comp0 : List Word := []
  comp1 : List Word := []
  scomp0 : List Word := []
  scomp1 : List Word := []
  deferred : Option Deferred := none
  trapNext : Option TrapInfo := none
  trapLater : Option TrapInfo := none
  lateMsg : Bool := false
  deadline : Option Nat := none
  budgetDone : Bool := false
  spawned : Bool := false
  iter : Nat := 0
  chain : Option Nat := none
  respawn : Option (Nat × Word) := none
  buf : List BufEntry := []
  reads : List (Space × Nat) := []
  deriving DecidableEq, Repr

/-- A register write that completes after issue (R19, R61). -/
inductive PendWrite where
  | w (wp r : Nat) (v : Word)
  | v (wp r : Nat) (x : Vec)
  deriving DecidableEq, Repr

/-- What a slot runs (R107); ready and stalled follow from whether its next group can issue. -/
inductive SlotSt where
  | free
  | running
  | guest
  deriving DecidableEq, Repr

/-- A thread slot (R11, R107, R357); waitAt is the local range whose claim its next group waits for (R216), code
the syllables of its next group that have been fetched from host memory, which no cache keeps (R414, R415). -/
structure Slot where
  st : SlotSt := .free
  swp : Nat := 0
  th : Thread := {}
  hold : Option (Hold × Fx) := none
  pend : List PendWrite := []
  stalled : Bool := false
  code : List (Nat × Syll) := []
  waitAt : Option (Nat × Nat) := none
  deriving DecidableEq, Repr

/-- A task in a run queue (R107, R121): fresh tasks still need a workspace and the values of R22; waited is the cycle from
which it waits at its level and aged the cycles that it had waited there before (R122); held is a group of a thread that a
remote read brought home, with the value (R128). -/
structure RqEntry where
  th : Thread
  fresh : Bool := true
  ahead : Bool := false
  sb : Option Nat := none
  prio : Nat := 0
  budget : Nat := 0
  waited : Nat := 0
  aged : Nat := 0
  arg : Word := 0
  regs : Option Memory := none
  held : Option (Fx × Vec) := none
  scs : Memory := []
  deriving DecidableEq, Repr

/-- A thread on its way to another core (R128): the packet that carries it, PC and SW, w1..w15, the group's effects,
which are performed with the load, the core and slot it left, and what a remote read brings home instead. -/
structure Migrant where
  pkt : Nat
  th : Thread
  regs : List Word
  fx : Fx
  core : Nat
  slot : Nat
  age : Nat := 0
  back : Option (Option Vec × Option TrapInfo) := none
  deriving DecidableEq, Repr

/-- A parked thread (R359). -/
structure Parked where
  key : BitVec 32
  th : Thread
  deriving DecidableEq, Repr

/-- A fired dependence record waiting for a run-queue entry (R116). -/
structure ReadyRec where
  off : Nat
  ctx : Nat
  user : Bool
  deriving DecidableEq, Repr

/-- Who may read a message in an input queue (R112, R136). -/
inductive RxOwner where
  | held
  | direct
  | task (uid : Nat)
  | slot (n : Nat)
  deriving DecidableEq, Repr

/-- A message in an input queue: its delivered header and the words not yet read. -/
structure RxMsg where
  id : Nat
  hdr : Word
  words : List Word
  owner : RxOwner := .held
  deriving DecidableEq, Repr

/-- A word at the head of a queue that a waiting group holds (R193): port, thread, message (of n0 or n1), and whether the
group claimed that message. -/
structure HeldWord where
  port : Nat
  uid : Nat
  msg : Nat := 0
  claimed : Bool := false
  deriving DecidableEq, Repr

/-- A core (R3, R107). -/
structure Core where
  lmem : Memory := []
  dirty : List Nat := []
  slots : Tbl Slot := []
  rq : List RqEntry := []
  park : List Parked := []
  ready : List ReadyRec := []
  rx0 : List RxMsg := []
  rx1 : List RxMsg := []
  rx2 : List Word := []
  rx3 : List Word := []
  heldWords : List HeldWord := []
  taskCount : BitVec 32 := 0
  ptr : Nat := 0
  cycles : Nat := 0
  usec : Nat := 0
  wsfree0 : Word := 0
  wsfree1 : Word := 0
  tagpc : Tbl Word := []
  tagattr : Tbl Word := []
  tagen : Word := 0
  tagdrop : Nat := 0
  winnack : Nat := 0
  nslot : Nat := 0
  sbase : Nat := 0
  scptr : Nat := 0
  tags : Tbl Word := []
  mben : Bool := false
  mbbase : Nat := 0
  mbdepth : Nat := 16
  rows : Tbl Word := []
  mblost : Nat := 0
  wina : Tbl Word := []
  winb : Tbl Word := []
  deriving DecidableEq, Repr

/-- How a walk ends (R183, R348). -/
inductive Walk where
  | ok (e : TlbEntry)
  | invalid
  | malformed
  | dataErr (pa : Nat)
  deriving DecidableEq, Repr

/-- An entry of the miss-merge table (R186): context and 64 KiB page of a walk, who waits on it in order of arrival, and its
outcome once it has ended. -/
structure Miss where
  ctx : Nat
  page : Nat
  waiters : List Nat := []
  out : Option Walk := none
  deriving DecidableEq, Repr

/-- A hedge (R3, R186, R204, R243, R351, R364, R424); misses is the miss-merge table. -/
structure Hedge where
  jqlate0 : Nat := 0
  jqlate1 : Nat := 0
  jqlateH : Nat := 0
  latecfg : Word := 0
  latestatMsg : Nat := 0
  latestatDeq : Nat := 0
  trapvec : Word := 0
  hclk : Nat := 64
  tlb : List TlbEntry := []
  misses : List Miss := []
  pmaps : Tbl (List Nat) := []
  icache : Tbl Syll := []
  drained : Bool := false
  sdPending : Bool := false
  deriving DecidableEq, Repr

/-- A thicket's matrix engine between jobs (R268, R271, R285). -/
structure Thicket where
  accs : Tbl La := []
  accOwner : Option Nat := none
  tile : Memory := []
  texp : Tbl Int := []
  tileOwner : Option Nat := none
  deriving DecidableEq, Repr

/-- A die (R149, R243, R327, R366, R368, R406, R408, R424). -/
structure Die where
  jqlate : Nat := 0
  lgPf : Nat := 0
  lgHit : Nat := 0
  latepkt : Nat := 0
  corr : Nat := 0
  unc : Nat := 0
  lgthr : Nat := 1
  launchSeq : Nat := 0
  rtc : List TlbEntry := []
  ttc : List TlbEntry := []
  lgPfCount : Nat := 0
  deriving DecidableEq, Repr

/-- A sector of the last-level cache (R174), with the policy of the leaf it was allocated by, 4 more where it lies in an
expert way (R176, R178). -/
structure Sector where
  v : Bool := false
  d : Bool := false
  mask : BitVec 16 := 0
  data : Vec := 0
  pol : Nat := 0
  deriving DecidableEq, Repr

/-- A launch in a launch table (R147, R149, R150). -/
structure Launch where
  die : Nat := 0
  entry : Nat := 0
  seq : Nat := 0
  ctx : Nat := 0
  pc : Word := 0
  arg : Word := 0
  budget : Nat := 0
  prio : Nat := 0
  ord : Bool := false
  pers : Bool := false
  thr : Nat := 0
  rbase : Nat := 0
  rsize : Nat := 0
  x0 : Nat := 0
  y0 : Nat := 0
  wx : Nat := 0
  wy : Nat := 0
  todo : List (Nat × Nat) := []
  counter : Nat := 0
  flt : Nat := 0
  kill : Nat := 0
  ended : List (Nat × Nat) := []
  waiters : List (Nat × Nat) := []
  deriving DecidableEq, Repr

/-- Where a thread of an ordered launch stands in its round (R222, R224): between rounds, in its quantum, at its end,
in the re-run after a squash, at its end, at its commit, committed, or ended for good. -/
inductive OrdSt where
  | idle
  | running
  | ended
  | rerun
  | reended
  | committing
  | committed
  | gone
  deriving DecidableEq, Repr

/-- What a quantum changed at its core beside memory, as it was before (R225): TAGEN, a mailbox row with its status and
bytes, the tag table with its pointer. -/
inductive Undo where
  | tagen (w : Word)
  | row (r : Nat) (st : Word) (a : Nat) (bs : List Byte)
  | tags (t : Tbl Word) (ptr : Nat)
  deriving DecidableEq, Repr

/-- A thread of an ordered launch: its ordinal and its quantum (R221-R227); the join it waits in, and the launch and status
that a join has received (R150); whether its last quantum ended before a waiting group, and whether it was live at the
round's start (R224, R228); what a squash has to put back at its core, latest first (R225). -/
structure OrdTask where
  ordinal : Nat
  uid : Nat
  core : Nat
  st : OrdSt := .idle
  snap : Option (Thread × Memory) := none
  count : Nat := 0
  regionOld : List (Nat × Vec) := []
  kept : List (Nat × RxMsg) := []
  kept23 : List (Nat × Word) := []
  services : List Act := []
  squashes : Nat := 0
  joins : Option Nat := none
  got : Option (Nat × Word) := none
  waits : Bool := false
  live : Bool := false
  undo : List Undo := []
  deriving DecidableEq, Repr

/-- An ordered launch in force (R220, R224, R229); a notice waits with its job's submission number and row (R227). -/
structure OrdLaunch where
  lgq : Nat := 12
  round : Nat := 0
  tasks : List OrdTask := []
  committing : Bool := false
  written : List (Space × Nat) := []
  notices : List (Nat × Nat × Nat × Nat × Word) := []
  deriving DecidableEq, Repr

/-- A chain of run-ahead iterations, oldest first, with the spawn snapshots of the younger ones (R125, R127). -/
structure Chain where
  iters : List Nat := []
  past : List Nat := []
  snaps : List (Nat × Nat × RqEntry) := []
  baton : Bool := true
  deriving DecidableEq, Repr

/-- The states of a job (R245). -/
inductive JobSt where
  | held
  | queued
  | running
  | done
  | late
  | fault
  | error
  | cancelled
  deriving DecidableEq, Repr

/-- How far a running job's current word has come (R215, R257, R272). -/
inductive Phase where
  | start
  | claiming
  | active
  | draining
  deriving DecidableEq, Repr

/-- The key of a destination claim in claiming order (R215): package, then device sectors before local ranges;
lin orders local ranges, core is the physical position, va the address by which packets to another package name it. -/
structure ClaimKey where
  pkg : Nat
  loc : Bool
  lin : Nat
  sector : Nat
  core : Nat
  va : Nat := 0
  deriving DecidableEq, Repr

/-- A claim that an engine of another package holds here (R215): its place, the address by which it was asked for, and whether
an access that waits has sent the recall (R216). -/
structure FarClaim where
  src : Source
  space : Space
  addr : Nat
  wire : Word := 0
  recalled : Bool := false
  deriving DecidableEq, Repr

/-- One dimension of a copy (R329). -/
structure CpDim where
  ext : Nat
  sstr : Int
  dstr : Int
  deriving DecidableEq, Repr

/-- The registers of a matrix job (R269, R270). -/
structure MmRegs where
  fmt : Nat := 0
  smode : Nat := 0
  sa : Nat := 0
  sas : Nat := 0
  sb : Nat := 0
  sbs : Nat := 0
  m : Nat := 0
  n : Nat := 0
  k : Nat := 0
  aoff : Nat := 0
  astr : Nat := 0
  path : Nat := 0
  keep : Bool := false
  toff : Nat := 0
  bb : Nat := 0
  bstr : Nat := 0
  accIn : Bool := false
  accOut : Bool := false
  rm : Nat := 0
  seed : Nat := 0
  drain : Nat := 0
  dst : Nat := 0
  str : Nat := 0
  mode : Nat := 0
  mbMap : Nat := 0
  tok0 : Nat := 0
  ex0 : Nat := 0
  mbK : Nat := 0
  launched : Bool := false
  pinned : Bool := false
  begun : Bool := false
  steps : Nat := 0
  deriving DecidableEq, Repr

/-- A step list of a collective job (R335, R339). -/
structure ClList where
  grp : List Nat := []
  g : Nat := 0
  me : Nat := 0
  gid : Nat := 0
  hasGrp : Bool := false
  steps : List (Bool × Nat × Nat × Nat × Nat × Nat) := []
  deriving DecidableEq, Repr

/-- The progress of a collective job (R337-R340): steps counts those of all lists, got holds what has arrived of the current
step's data, by first element. -/
structure ClRun where
  lists : List ClList := [{}]
  list : Nat := 0
  step : Nat := 0
  opIdx : Nat := 0
  lo : Nat := 0
  hi : Nat := 0
  part : List (BitVec 32) := []
  ready : Bool := false
  sent : Bool := false
  waited : Nat := 0
  listsDone : List (Nat × Nat) := []
  steps : Nat := 0
  got : List (Nat × List (BitVec 32)) := []
  went : Bool := false
  due : Bool := false
  deriving DecidableEq, Repr

/-- A binning thread of a routing walk (R311, R312). -/
structure RtThread where
  rows : List Nat := []
  row : Option Nat := none
  arr : Nat := 0
  entries : List (BitVec 128) := []
  need : Nat := 0
  i : Nat := 0
  cand : Nat := 0
  refused : Option Nat := none
  adm : List (Nat × Nat × Nat × Bool) := []
  outs : List (Nat × Nat × Nat × Bool) := []
  defer : List (Nat × List Nat) := []
  sent : Bool := false
  deriving DecidableEq, Repr

/-- The registers and progress of a router job (R308-R318). -/
structure RtRun where
  cfg : Bool := false
  pol : Nat := 0
  res : Nat := 0xFFFF
  bound : Bool := false
  tab : Nat := 0
  nexp : Nat := 0
  descs : Tbl (List Word) := []
  threads : List RtThread := []
  opens : List RtThread := []
  counts : List Nat := [0, 0, 0, 0, 0, 0, 0, 0, 0]
  notifyAt : Nat := 0
  mode : Nat := 0
  base : Nat := 0
  passes : Nat := 0
  sweeps : Nat := 0
  deriving DecidableEq, Repr

/-- Where an engine's write goes: a virtual address; byte off of the core that output row c drains to (R279); an address
of a router's list, here or on a package (R306). -/
inductive OutTo where
  | va (a : Int)
  | row (c off : Nat)
  | list (pkg : Option Nat) (va : Nat)
  deriving DecidableEq, Repr

/-- A write that an engine has still to make for the unit in progress: bytes of one sector, with what P5 and P6 become
once it is made and the claim that it ends (R215); accumulators to be added to an output row from byte off on (R280); the
score message of token t (R281). -/
inductive OutPiece where
  | bytes (dest : OutTo) (bs : List Byte) (p5 p6 : Option Nat) (free : Option ClaimKey)
  | sum (c off : Nat) (ls : List La)
  | score (t : Nat) (es : List (BitVec 128))
  deriving DecidableEq, Repr

/-- A job: queue record, stack, parameters, geometry registers and progress (R244-R259, R329, R285-R291, R325);
out are the writes of the unit in progress with the number of the unit after it, left the claims that later units need,
held the claims at other packages that have not been given back; rests tells that it stands stopped at its resume point
(R373). -/
structure Job where
  id : Nat := 0
  pq : Nat := 0
  kind : Nat := 0
  ctx : Nat := 0
  sys : Bool := false
  uid : Nat := 0
  core : Nat := 0
  lin : Nat := 0
  order : Nat := 0
  budget : Nat := 0xFFFFF
  budget0 : Nat := 0xFFFFF
  prio : Nat := 2
  ev : Bool := false
  npred : Nat := 0
  succ : List Word := []
  params : Tbl Word := []
  prog : List EWord := []
  ended : Bool := true
  st : JobSt := .queued
  code : Nat := 0
  word : Nat := 0
  fl : Flags := {}
  rep : Bool := false
  stack : List Word := []
  ip : Nat := 0
  usRun : Nat := 0
  ph : Phase := .start
  unitIdx : Nat := 0
  want : List ClaimKey := []
  since : Nat := 0
  claims : List ClaimKey := []
  locks : List (Nat × Nat × Nat) := []
  out : Option (Nat × List OutPiece) := none
  left : List ClaimKey := []
  held : List ClaimKey := []
  pins : List (Nat × Nat × Nat) := []
  mm : MmRegs := {}
  gIdx : Nat := 0
  stopped : Bool := false
  plan : Option Nat := none
  sched : Nat := 0
  satMask : Nat := 0
  dims : List CpDim := []
  cvt : Nat := 0
  idxs : List Nat := []
  rt : RtRun := {}
  cl : ClRun := {}
  gate : Option (Nat × Nat × Nat × Nat) := none
  engine : Nat := 0
  fetched : List (Nat × Nat × Vec) := []
  wake : List (Nat × Nat) := []
  pending : Option Nat := none
  finished : Bool := false
  rests : Bool := false
  deriving DecidableEq, Repr

/-- A message of one collective member to another (R339): ready signals, step data, list completion. -/
structure ClMsg where
  ctx : Nat
  gid : Nat
  list : Nat
  step : Nat
  src : Nat
  dst : Nat
  kind : Nat
  params : List Nat
  off : Nat := 0
  data : List (BitVec 32)
  deriving DecidableEq, Repr

/-- An entry of the expert region table (R320). -/
structure Region where
  base : Nat := 0
  size : Nat := 0
  ctx : Nat := 0
  pol : Nat := 0
  state : Nat := 0
  pred : Bool := false
  pins : Nat := 0
  reps : Tbl Nat := []
  deriving DecidableEq, Repr

/-- A package as this package knows it beside PEERj (R394, R400, R401, R412): per class 0 and 1 the sequences; a held packet has
its number, the die of its port and its words; again tells of a duplicate since the last acknowledgement, ackAt of the cycle of
that (one more than its number). -/
structure Pair where
  txNext : Nat := 0
  txAcked : Nat := 0
  copies : List (Nat × List Word × Nat) := []
  rxNext : Nat := 0
  heldPk : List (Nat × Nat × List Word) := []
  sinceAck : Nat := 0
  again : Bool := false
  ackAt : Nat := 0
  deriving DecidableEq, Repr

/-- An optical port beside OPTPORTp (R391, R392, R396, R397): acquisition, the slots in a row whose marks it has missed and the
microsecond of its last mark, mismatched slots, the flits sent in the window, the flits of relayed packets taken in the slot,
and the relay frames granted to this package and by it, by peer. -/
structure Port where
  marks : Nat := 0
  last : Nat := 0
  badRun : Nat := 0
  good : Bool := false
  seen : Bool := false
  flits : Nat := 0
  offered : Nat := 0
  bulkLast : Bool := false
  done : Bool := false
  waited : Bool := false
  marked : Bool := false
  missed : Nat := 0
  markUs : Nat := 0
  relayed : Nat := 0
  grants : Tbl Nat := []
  given : Tbl Nat := []
  deriving DecidableEq, Repr

/-- A packet that waits to leave the package (R394, R396): destination, class, wire words, number; held as relay; sent
again; late, due to be served after the threshold, and the cycles of the queue's clock that it has waited (R366); the
die that holds it and the dies at which it has counted as late. -/
structure EPkt where
  dst : Nat
  cls : Nat
  words : List Word
  seq : Option Nat := none
  relay : Bool := false
  again : Bool := false
  late : Bool := false
  due : Bool := false
  age : Nat := 0
  die : Nat := 0
  dies : List Nat := []
  deriving DecidableEq, Repr

/-- What a start or a replacement has measured (R423), in the order in which MEAS chains it: the firmware and the walker
routines of start n, the start record (CALCFG, OPTPORT.adv, PEER), and the image at an address that replacement n took. -/
inductive Measured where
  | firmware (n : Nat)
  | routines (n : Nat)
  | record (cal : Word) (adv peers : Tbl Word)
  | replaced (n : Nat) (addr : Word)
  deriving DecidableEq, Repr

/-- The package-bank registers and package state (22, 24, 19 R370-R371, 08). -/
structure Pkg where
  calcfg : Word := 0
  relaycfg : Word := 0x80000000000001E8
  relayFwd : Nat := 0
  relayWait : Nat := 0
  incarn : Nat := 1
  inc0 : Option Nat := some 1
  inc1 : Option Nat := some 1
  incUsed : List Nat := []
  rmbase : Word := 0
  hostcfg : Word := 0
  bootstat : Word := 0x400A000000000001
  ctxbase : Word := 0
  sdaddr : Word := 0
  sdctl : Word := 0
  llcpart : Word := 0x400
  apbase : Word := 0
  lgq : Nat := 12
  errq : Word := 0
  errlost : Nat := 0
  prectl : Word := 0
  prerect : Word := 0
  preimg : Word := 0
  prelen : Word := 0
  hintq : Word := 0
  svcctl : Word := 0
  svcaddr : Word := 0
  optport : Tbl Word := []
  measured : List Measured := [.firmware 0, .routines 0, .record 0 [] []]
  peers : Tbl Word := []
  attnonce : Tbl Word := []
  attbusy : Bool := false
  sig : Option (List Word × List Measured × Nat) := none
  rtRuns : Nat := 0
  fills : Tbl Nat := []
  safe : Bool := false
  off : Bool := false
  retired : List Nat := []
  stops : List (Nat × Word) := []
  preOn : Bool := false
  imgSeq : Tbl Nat := []
  startReq : Option (Bool × Bool) := none
  recCal : Word := 0
  recAdv : Tbl Word := []
  recPeers : Tbl Word := []
  sdOn : Bool := false
  sdWait : List Nat := []
  sdHeld : List (Nat × Word × Word) := []
  deriving DecidableEq, Repr

/-- What a saved image holds of one core, by logical index (R374): slots with their threads, queues, messages, tags,
mailbox rows and status, workspaces (own are those bound to its tasks; the others are those of handlers) and the local
lines saved. -/
structure CoreImage where
  lin : Nat
  slots : Tbl Slot
  rq : List RqEntry
  park : List Parked
  ready : List ReadyRec
  rx0 : List RxMsg
  rx1 : List RxMsg
  ws : List Nat
  own : List Nat
  wsMem : Memory
  lines : List Nat
  lineMem : Memory
  tagpc : Tbl Word
  tagattr : Tbl Word
  tagen : Word
  rows : Tbl Word
  rowBase : Option Nat := none
  rowMem : Memory := []
  deriving DecidableEq, Repr

/-- A saved image: its number, whether what it holds is away from the device, its header words and what its body stands
for, in the device's own format (R374). -/
structure Image where
  no : Nat
  away : Bool := true
  hdr : List Word
  cores : List CoreImage
  jobs : List Job
  launches : Tbl Launch
  barriers : List Barrier
  chains : Tbl Chain
  ords : Tbl OrdLaunch
  thickets : Tbl Thicket
  deriving DecidableEq, Repr

/-- A granule with an uncorrectable error (R368): kind 0 local memory of core u, 1 device memory, 2 a cache sector; reg:
the error struck the register cache's copy of a workspace register (kind 1 of R370). -/
structure BadGranule where
  kind : Nat
  u : Nat
  addr : Nat
  reg : Bool := false
  deriving DecidableEq, Repr

/-- Which agent moves next (the model's own, log 4): a core issues, an engine performs a word, or an event happens. -/
inductive Move where
  | core (n : Nat) (late : Bool)
  | engine (job : Nat)
  | event (i : Instr)
  | inject (pkt : Nat)
  | beginWalk (hedge ctx page : Nat)
  | release (job : Nat)
  | dropCode (hedge : Nat)
  | dropTlb (hedge : Nat)
  deriving DecidableEq, Repr

/-- The state of the device. -/
structure State where
  cores : Tbl Core := []
  hedges : Tbl Hedge := []
  thickets : Tbl Thicket := []
  dies : Tbl Die := []
  pkg : Pkg := {}
  hbm : Memory := []
  hostMem : Memory := []
  llc : Tbl Sector := []
  bad : List BadGranule := []
  net : List Packet := []
  replies : List Reply := []
  notices : List (Nat × Nat × Word) := []
  migrants : List Migrant := []
  launches : Tbl Launch := []
  barriers : List Barrier := []
  ords : Tbl OrdLaunch := []
  chains : Tbl Chain := []
  jobs : List Job := []
  jobSeq : Tbl Nat := []
  jobPos : Tbl Nat := []
  decs : List (Nat × Nat) := []
  clMsgs : List ClMsg := []
  regions : Tbl Region := []
  arrivals : Tbl Nat := []
  homeUs : Nat := 0
  ports : Tbl Port := []
  calSlot : Option Nat := none
  calT : Nat := 0
  calBase : Nat := 0
  turns : Tbl Nat := []
  pairs : Tbl Pair := []
  egress : List EPkt := []
  sent : List (Nat × Word × List (List Word)) := []
  helloAge : Tbl Nat := []
  helloSent : Tbl Nat := []
  images : List Image := []
  farClaims : List FarClaim := []
  hostOut : List (List Word) := []
  hostGot : Tbl (List (Nat × List Word)) := []
  hostWait : List Nat := []
  readOut : List Word := []
  nextId : Nat := 1
  sched : List Move := []
  turn : Nat := 0
  choices : List Nat := []
  core : Nat := 0
  slot : Nat := 0
  job : Nat := 0
  late : Bool := false
  grp : Grp := {}
  deriving DecidableEq, Repr

/-- The machine right after a first cold start (R420): every register at the value its entry gives for reset, and at
the value the log names where the spec gives none (log 1, 2, 6, 7). -/
def State.reset : State := {}

end Sys2Proof.Machine
end

