-- ==== Sys2Proof/Machine/Ops.lean ====
section
/-! DEFINITION. The named operations over tables, memory, coordinates, registers and threads, and taking a trap and
returning from one (01, 06, 08, 19 of the spec). -/

namespace Sys2Proof.Machine

/-! ### Sparse tables -/

/-- The entry of a table, or the default where none is listed. -/
def Tbl.get {α : Type} (t : Tbl α) (d : α) (n : Nat) : α :=
  match t with
  | [] => d
  | (k, v) :: r => if k = n then v else Tbl.get r d n

/-- The table with an entry set. -/
def Tbl.set {α : Type} (t : Tbl α) (n : Nat) (x : α) : Tbl α :=
  match t with
  | [] => [(n, x)]
  | (k, v) :: r => if k = n then (n, x) :: r else if n < k then (n, x) :: (k, v) :: r else (k, v) :: Tbl.set r n x

/-- The table without an entry. -/
def Tbl.del {α : Type} (t : Tbl α) (n : Nat) : Tbl α := t.filter (fun e => e.1 != n)

/-- Whether an entry is listed. -/
def Tbl.has {α : Type} (t : Tbl α) (n : Nat) : Bool := t.any (fun e => e.1 == n)

/-- Replace every element that meets a test. -/
def mapIf {α : Type} (p : α → Bool) (f : α → α) (l : List α) : List α := l.map (fun x => if p x then f x else x)

/-! ### Memory -/

/-- The byte at an address: the list is sorted, so the search ends at the first higher address. -/
def Memory.read : Memory → Nat → Byte
  | [], _ => 0
  | (k, v) :: r, a => if a = k then v else if a < k then 0 else Memory.read r a

/-- Write a byte; writing zero removes the entry, so the canonical form is kept. -/
def Memory.write : Memory → Nat → Byte → Memory
  | [], a, x => if x = 0 then [] else [(a, x)]
  | (k, v) :: r, a, x =>
    if k < a then (k, v) :: Memory.write r a x
    else if k = a then (if x = 0 then r.dropWhile (fun e => decide (e.1 ≤ a)) else (a, x) :: r)
    else if x = 0 then (k, v) :: r else (a, x) :: (k, v) :: r

/-- The canonical form: addresses strictly rising, no entry equal to what an unlisted address reads as. -/
def Memory.wf : Memory → Bool
  | [] => true
  | (_, v) :: [] => v != 0
  | (k, v) :: (k', v') :: r => v != 0 && decide (k < k') && Memory.wf ((k', v') :: r)

/-- The little-endian number held in n bytes (R8). -/
def Memory.num (m : Memory) (a : Nat) : Nat → Nat
  | 0 => 0
  | n + 1 => (m.read a).toNat + 256 * Memory.num m (a + 1) n

/-- Write a number little-endian into n bytes (R8). -/
def Memory.setNum (m : Memory) (a : Nat) : Nat → Nat → Memory
  | 0, _ => m
  | n + 1, v => Memory.setNum (m.write a (BitVec.ofNat 8 v)) (a + 1) n (v / 256)

/-- The bytes from an address on. -/
def Memory.bytes (m : Memory) (a : Nat) : Nat → List Byte
  | 0 => []
  | n + 1 => m.read a :: Memory.bytes m (a + 1) n

/-- Write bytes from an address on. -/
def Memory.setBytes (m : Memory) (a : Nat) : List Byte → Memory
  | [] => m
  | b :: r => Memory.setBytes (m.write a b) (a + 1) r

/-- The n low bytes of a number, lowest first (R8). -/
def toBytes : Nat → Nat → List Byte
  | 0, _ => []
  | n + 1, v => BitVec.ofNat 8 v :: toBytes n (v / 256)

/-- The number a list of bytes denotes, lowest first (R8). -/
def ofBytes : List Byte → Nat
  | [] => 0
  | b :: r => b.toNat + 256 * ofBytes r

/-- The entries of a memory in a range, at the addresses they have. -/
def Memory.slice (m : Memory) (a n : Nat) : Memory := m.filter (fun e => decide (a ≤ e.1) && decide (e.1 < a + n))

/-- The memory with a range set to zero. -/
def Memory.clear (m : Memory) (a n : Nat) : Memory := m.filter (fun e => !(decide (a ≤ e.1) && decide (e.1 < a + n)))

/-- The memory with a range replaced by the entries of another memory in that range. -/
def Memory.replace (m : Memory) (a n : Nat) (b : Memory) : Memory :=
  (Memory.slice b a n).foldl (fun m e => m.write e.1 e.2) (m.clear a n)

/-! ### Bit fields -/

/-- The field [hi:lo] of a word as a number. -/
def bits {n : Nat} (w : BitVec n) (hi lo : Nat) : Nat := (w.toNat >>> lo) % 2 ^ (hi + 1 - lo)

/-- A word whose field [.. : lo] holds a number. -/
def fld (lo v : Nat) : Word := BitVec.ofNat 64 (v <<< lo)

/-- The word with bits [hi:lo] taken from another word. -/
def merge (old new : Word) (hi lo : Nat) : Word :=
  let m : Word := BitVec.ofNat 64 ((2 ^ (hi + 1 - lo) - 1) <<< lo)
  (old &&& ~~~m) ||| (new &&& m)

/-- The integer a pattern of w bits denotes in two's complement. -/
def signedOf (w x : Nat) : Int := if x % 2 ^ w < 2 ^ (w - 1) then (x % 2 ^ w : Nat) else (x % 2 ^ w : Nat) - (2 ^ w : Nat)

/-- The word that denotes an integer mod 2^64 (R59). -/
def ofInt (i : Int) : Word := BitVec.ofInt 64 i

/-! ### Coordinates (R4, R181) -/

/-- The x coordinate of a linear index. -/
def xOf (n : Nat) : Nat := n % 64
/-- The y coordinate of a linear index. -/
def yOf (n : Nat) : Nat := n / 64 % 64
/-- The linear index of coordinates. -/
def linOf (x y : Nat) : Nat := 64 * y + x
/-- The hedge of a linear index, (y div 4) · 16 + (x div 4) (R115). -/
def hedgeOf (n : Nat) : Nat := yOf n / 4 * 16 + xOf n / 4
/-- The position within the hedge, 4 · (y mod 4) + (x mod 4). -/
def inHedge (n : Nat) : Nat := 4 * (yOf n % 4) + xOf n % 4
/-- The linear index of a position within a hedge. -/
def coreIn (h p : Nat) : Nat := linOf (4 * (h % 16) + p % 4) (4 * (h / 16) + p / 4)
/-- The thicket, numbered 2 · hedge + thicket within the hedge (R4). -/
def thicketOf (n : Nat) : Nat := 2 * hedgeOf n + yOf n % 4 / 2
/-- The slice within the thicket (R4). -/
def sliceOf (n : Nat) : Nat := 4 * (yOf n % 2) + xOf n % 4
/-- The core of a thicket with a slice number. -/
def coreOfSlice (t k : Nat) : Nat := coreIn (t / 2) (8 * (t % 2) + 4 * (k / 4) + k % 4)
/-- The die of a linear index (R4). -/
def dieOf (n : Nat) : Nat := 2 * (yOf n / 32) + xOf n / 32
/-- The die of a hedge position. -/
def dieOfHedge (h : Nat) : Nat := 2 * (h / 16 / 8) + h % 16 / 8
/-- The physical hedge number 64 · die + 8 · strip + hedge within strip of a position (R181). -/
def physHedge (h : Nat) : Nat := 64 * dieOfHedge h + 8 * (h % 16 % 8) + h / 16 % 8
/-- The dies that a packet from die a to die b passes, in order (R383): the x half changes first. -/
def dieRoute (a b : Nat) : List Nat :=
  if a = b then [a]
  else
    let m := 2 * (a / 2) + b % 2
    if m = a ∨ m = b then [a, b] else [a, m, b]

/-- The position of a physical hedge number (R181). -/
def hedgePos (p : Nat) : Nat := 16 * (8 * (p / 64 / 2) + p % 8) + 8 * (p / 64 % 2) + p / 8 % 8
/-- The bytes of a local memory (R3). -/
def localBytes : Nat := 131072

/-! ### Units of the device -/

/-- A core by position. -/
def State.coreAt (s : State) (n : Nat) : Core := s.cores.get {} n
/-- Replace a core. -/
def State.setCore (s : State) (n : Nat) (c : Core) : State := { s with cores := s.cores.set n c }
/-- Change a core. -/
def State.modCore (s : State) (n : Nat) (f : Core → Core) : State := s.setCore n (f (s.coreAt n))
/-- A thread slot of a core. -/
def Core.slotAt (c : Core) (k : Nat) : Slot := c.slots.get {} k
/-- Replace a slot of a core. -/
def Core.setSlot (c : Core) (k : Nat) (x : Slot) : Core := { c with slots := c.slots.set k x }
/-- A thread slot. -/
def State.slotAt (s : State) (n k : Nat) : Slot := (s.coreAt n).slotAt k
/-- The thread of a slot. -/
def State.thAt (s : State) (n k : Nat) : Thread := (s.slotAt n k).th
/-- Change a slot. -/
def State.modSlot (s : State) (n k : Nat) (f : Slot → Slot) : State :=
  s.modCore n (fun c => c.setSlot k (f (c.slotAt k)))
/-- Change the thread of a slot. -/
def State.modTh (s : State) (n k : Nat) (f : Thread → Thread) : State :=
  s.modSlot n k (fun x => { x with th := f x.th })
/-- A hedge by position. -/
def State.hedge (s : State) (h : Nat) : Hedge := s.hedges.get {} h
/-- Change a hedge. -/
def State.modHedge (s : State) (h : Nat) (f : Hedge → Hedge) : State :=
  { s with hedges := s.hedges.set h (f (s.hedge h)) }
/-- A thicket. -/
def State.thicket (s : State) (t : Nat) : Thicket := s.thickets.get {} t
/-- Change a thicket. -/
def State.modThicket (s : State) (t : Nat) (f : Thicket → Thicket) : State :=
  { s with thickets := s.thickets.set t (f (s.thicket t)) }
/-- A die. -/
def State.die (s : State) (d : Nat) : Die := s.dies.get {} d
/-- Change a die. -/
def State.modDie (s : State) (d : Nat) (f : Die → Die) : State := { s with dies := s.dies.set d (f (s.die d)) }
/-- A late packet has passed these dies: each counts it (R366). -/
def State.passLate (s : State) (dies : List Nat) : State :=
  dies.foldl (fun s d => s.modDie d (fun x => { x with latepkt := Nat.min (x.latepkt + 1) 0xFFFFFFFF })) s
/-- Change the package registers. -/
def State.modPkg (s : State) (f : Pkg → Pkg) : State := { s with pkg := f s.pkg }
/-- This package's number, CALCFG.pkg (R388). -/
def State.pkgNo (s : State) : Nat := bits s.pkg.calcfg 6 0
/-- The next choice the spec leaves open (log 4), bounded. -/
def State.choice (s : State) (n : Nat) : Nat := s.choices.headD 0 % n
/-- Consume a choice. -/
def State.dropChoice (s : State) : State := { s with choices := s.choices.tail }

/-! ### The status word (R17) -/

/-- SW.mode: system mode. -/
def swMode (w : Word) : Bool := w.getLsbD 63
/-- SW.ord. -/
def swOrd (w : Word) : Bool := w.getLsbD 62
/-- SW.ra. -/
def swRa (w : Word) : Bool := w.getLsbD 61
/-- SW.pp. -/
def swPp (w : Word) : Bool := w.getLsbD 60
/-- SW.pfx. -/
def swPfx (w : Word) : BitVec 24 := w.extractLsb' 36 24
/-- SW.rm. -/
def swRm (w : Word) : Nat := bits w 2 0
/-- One bit of the word set or cleared. -/
def setBit (w : Word) (i : Nat) (b : Bool) : Word := merge w (if b then fld i 1 else 0) i i
/-- The word with a pending prefix or none (R36). -/
def swPend (w : Word) (p : Option (BitVec 24)) : Word :=
  match p with
  | none => merge w 0 60 36
  | some v => merge w (fld 60 1 ||| fld 36 v.toNat) 60 36
/-- The fields of SW (R17): not the reserved bits [35:29], [15:12] and [7:3], nor the reserved low bits of pfx (R34). -/
def swFields : Word := 0xFFFFFF001FFF0F07
/-- The bits RW in SW, warn 28..16, nv of uf nx, rm (R17; bits 31..29 of warn ignore writes, R37, R82). -/
def swRw : Word := 0x1FFF0F07
/-- A CSR write of SW (R17, R18, R82). -/
def swWrite (old new : Word) : Word :=
  let m := (old &&& ~~~swRw) ||| (new &&& swRw)
  if bits new 2 0 > 4 then merge m old 2 0 else m
/-- The flags as the bits [11:8] of SW (R17). -/
def flBits (f : Flags) : Word :=
  fld 11 (boolWord f.nv).toNat ||| fld 10 (boolWord f.of).toNat ||| fld 9 (boolWord f.uf).toNat
    ||| fld 8 (boolWord f.nx).toNat
/-- Two sets of flags joined. -/
def Flags.or (a b : Flags) : Flags := ⟨a.nv || b.nv, a.of || b.of, a.uf || b.uf, a.nx || b.nx⟩

/-! ### Bound workspaces and local memory (R12, R14, R19, R374) -/

/-- The workspaces of a core that are bound (R12): named by the WP or SWP of a slot, by a run-queue entry that holds
one, by a parked thread, or kept for a thread that is a guest elsewhere (R128). -/
def Core.bound (c : Core) : List Nat :=
  [0, 1, 2, 3].map (fun k => (c.slotAt k).swp)
    ++ (c.slots.filter (fun e => e.2.st != .free)).map (fun e => e.2.th.wp)
    ++ (c.rq.filter (fun e => !e.fresh)).map (fun e => e.th.wp)
    ++ c.park.map (fun e => e.th.wp)

/-- The home workspaces of the threads that are guests on other cores or on their way to one (R128). -/
def State.guestHomes (s : State) (n : Nat) : List Nat :=
  (s.cores.flatMap (fun c => c.2.slots)).filterMap
      (fun e => if e.2.st == .guest && e.2.th.home == n then some e.2.th.homeWp else none)
    ++ s.migrants.filterMap (fun m => if m.th.home == n then some m.th.homeWp else none)

/-- The bound workspaces of a core. -/
def State.bound (s : State) (n : Nat) : List Nat := (s.coreAt n).bound ++ s.guestHomes n

/-- Whether a byte offset lies in a bound workspace, at an offset range within it. -/
def inBound (b : List Nat) (lo hi a : Nat) : Bool :=
  decide (lo ≤ a % 1024) && decide (a % 1024 < hi) && b.contains (a / 1024)

/-- Whether a load of the byte reads zero: w0 and the reserved bytes of a bound workspace (R14). -/
def readsZero (b : List Nat) (a : Nat) : Bool := inBound b 0 8 a || inBound b 864 1024 a

/-- Whether a store to the byte is ignored: w0, read-only words and reserved bytes of a bound workspace (R14). -/
def ignoresStore (b : List Nat) (a : Nat) : Bool := inBound b 0 8 a || inBound b 832 1024 a

/-- The first byte of a range that a user-mode store may not reach (R14), if there is one. -/
def firstRefused (b : List Nat) : Nat → Nat → Option Nat
  | _, 0 => none
  | a, n + 1 => if inBound b 768 864 a then some a else firstRefused b (a + 1) n

/-- The bytes a load from local memory sees (R14). -/
def Core.load (c : Core) (b : List Nat) : Nat → Nat → List Byte
  | _, 0 => []
  | a, n + 1 => (if readsZero b a then 0 else c.lmem.read a) :: Core.load c b (a + 1) n

/-- Note that the 256-byte lines of a range were written (R374). -/
def addDirty (d : List Nat) (a n : Nat) : List Nat :=
  if n = 0 then d else
    let l := a / 256
    let d1 := if d.contains l then d else l :: d
    let h := (a + n - 1) / 256
    if h = l then d1 else (List.range (h - l)).foldl (fun d i => if d.contains (l + 1 + i) then d else (l + 1 + i) :: d) d1

/-- Write bytes into local memory, whatever they hold (hardware's own writes and register writes). -/
def Core.poke (c : Core) (a : Nat) (bs : List Byte) : Core :=
  { c with lmem := c.lmem.setBytes a bs, dirty := addDirty c.dirty a bs.length }

/-- Write the bytes of a store that R14 does not ignore. -/
def storeBytes (m : Memory) (b : List Nat) (a : Nat) : List Byte → Memory
  | [] => m
  | x :: r => storeBytes (if ignoresStore b a then m else m.write a x) b (a + 1) r

/-- A store to local memory under R14. -/
def Core.store (c : Core) (b : List Nat) (a : Nat) (bs : List Byte) : Core :=
  { c with lmem := storeBytes c.lmem b a bs, dirty := addDirty c.dirty a bs.length }

/-- Whether two byte ranges meet. -/
def meets (a n b m : Nat) : Bool := decide (a < b + m) && decide (b < a + n)

/-- The size of a granule of error correction (R368). -/
def granule (kind : Nat) : Nat := if kind = 1 then 32 else 8

/-- A device address lies in a stack that is out of service (R425). -/
def State.retired (s : State) (pa : Nat) : Bool := s.pkg.retired.contains (pa / 2 ^ 36)

/-- Whether a range of storage holds an uncorrectable error (R368), or lies in a retired stack (R425). -/
def State.isBad (s : State) (kind u a n : Nat) : Bool :=
  s.bad.any (fun g => g.kind == kind && g.u == u && meets g.addr (granule kind) a n) || (kind == 1 && s.retired a)

/-- Whether a write to the range must merge with an uncorrectable granule (R368, R369). -/
def State.mergesBad (s : State) (kind u a n : Nat) : Bool :=
  s.bad.any (fun g => g.kind == kind && g.u == u && meets g.addr (granule kind) a n
    && !(decide (a ≤ g.addr) && decide (g.addr + granule kind ≤ a + n)))

/-- A write covers whole granules and makes them good again (R368). -/
def State.heal (s : State) (kind u a n : Nat) : State :=
  { s with bad := s.bad.filter (fun g => !(g.kind == kind && g.u == u
      && decide (a ≤ g.addr) && decide (g.addr + granule kind ≤ a + n))) }

/-- Hardware's own write of bytes into a core's local memory. -/
def State.poke (s : State) (n a : Nat) (bs : List Byte) : State :=
  (s.modCore n (fun c => c.poke a bs)).heal 0 n a bs.length

/-- A store to a core's local memory under R14. -/
def State.storeL (s : State) (n a : Nat) (bs : List Byte) : State :=
  (s.modCore n (fun c => c.store (s.bound n) a bs)).heal 0 n a bs.length

/-- A load from a core's local memory under R14. -/
def State.loadL (s : State) (n a len : Nat) : List Byte := (s.coreAt n).load (s.bound n) a len

/-! ### Registers (R13, R15, R19) -/

/-- The base of a workspace in local memory (R11). -/
def wsBase (wp : Nat) : Nat := 1024 * wp

/-- A general register of a workspace; w0 reads as zero (R13, R59). -/
def Core.reg (c : Core) (wp r : Nat) : Word :=
  if r = 0 then 0 else BitVec.ofNat 64 (c.lmem.num (wsBase wp + 8 * r) 8)

/-- Write a general register; w0 discards (R13, R59). -/
def State.setReg (s : State) (n wp r : Nat) (v : Word) : State :=
  if r = 0 then s else s.poke n (wsBase wp + 8 * r) (toBytes 8 v.toNat)

/-- A vector register of a workspace (R13). -/
def Core.vreg (c : Core) (wp r : Nat) : Vec := BitVec.ofNat 512 (c.lmem.num (wsBase wp + 256 + 64 * r) 64)

/-- Write a vector register. -/
def State.setVreg (s : State) (n wp r : Nat) (v : Vec) : State :=
  s.poke n (wsBase wp + 256 + 64 * r) (toBytes 64 v.toNat)

/-- A word of local memory as the hardware reads it. -/
def Core.word (c : Core) (a : Nat) : Word := BitVec.ofNat 64 (c.lmem.num a 8)

/-- A word of local memory as the hardware writes it. -/
def State.pokeW (s : State) (n a : Nat) (v : Word) : State := s.poke n a (toBytes 8 v.toNat)

/-- Scoreboard counter k of a workspace (R13). -/
def Core.sc (c : Core) (wp k : Nat) : Nat := c.lmem.num (wsBase wp + 832 + 2 * k) 2

/-- Set a scoreboard counter. -/
def State.setSc (s : State) (n wp k v : Nat) : State := s.poke n (wsBase wp + 832 + 2 * k) (toBytes 2 v)

/-- The remaining budget of a workspace's task in µs (R13). -/
def Core.budget (c : Core) (wp : Nat) : Nat := c.lmem.num (wsBase wp + 848) 8 % 2 ^ 20

/-- The budget that means none (R13). -/
def noBudget : Nat := 0xFFFFF

/-- The TID word of a thread (R13). -/
def Thread.tid (t : Thread) : Word := fld 48 t.ctx ||| fld 38 t.prio ||| fld 32 t.tag ||| fld 0 t.seq.toNat

/-- Whether an offset of a core's local memory is private storage of a thread (R109): its workspace or its region. -/
def Thread.isPrivate (t : Thread) (n a : Nat) : Bool :=
  t.home == n && (a / 1024 == t.homeWp
    || (decide (256 * t.rbase ≤ a) && decide (a < 256 * (t.rbase + t.rsize)) && decide (a < localBytes)))

/-- A refusal of a posted access fills or counts in the deferred record (R363). -/
def Thread.refuse (t : Thread) (code acc : Nat) (addr : Word) (info : Nat) : Thread :=
  match t.deferred with
  | none => { t with deferred := some { code := code, acc := acc, addr := addr, info := info } }
  | some d => { t with deferred := some { d with count := Nat.min (d.count + 1) 65535 } }

/-- The deferred trap of a full record (R363). -/
def Deferred.trap (d : Deferred) : TrapInfo :=
  { code := d.code, info := Nat.min (1 + d.count) 65535, acc := d.acc, addr := d.addr, isDef := true }

/-- A core number that takes no packets: an unmapped hedge (R168) or a drained one (R425). -/
def State.noCore (s : State) (n : Nat) : Bool := decide (4096 ≤ n) || (s.hedge (hedgeOf n)).drained

/-- The thread runs in system mode. -/
def Thread.sys (t : Thread) : Bool := swMode t.sw

/-! ### Where a thread stands by its identity -/

/-- The core and slot where a thread runs, if it does. -/
def State.whereIs (s : State) (uid : Nat) : Option (Nat × Nat) :=
  s.cores.findSome? (fun c => c.2.slots.findSome? (fun e =>
    if e.2.st != .free && e.2.th.uid == uid then some (c.1, e.1) else none))

/-- Change the thread with an identity wherever it is: in a slot, in a run queue, parked or on its way. -/
def State.modUid (s : State) (uid : Nat) (f : Thread → Thread) : State :=
  { s with cores := s.cores.map (fun c => (c.1,
      { c.2 with
        slots := mapIf (fun e => e.2.st != .free && e.2.th.uid == uid) (fun e => (e.1, { e.2 with th := f e.2.th })) c.2.slots
        rq := mapIf (fun e => e.th.uid == uid) (fun e => { e with th := f e.th }) c.2.rq
        park := mapIf (fun e => e.th.uid == uid) (fun e => { e with th := f e.th }) c.2.park }))
           migrants := mapIf (fun m => m.th.uid == uid) (fun m => { m with th := f m.th }) s.migrants }

/-- Every thread that exists at the device's cores. -/
def State.threads (s : State) : List Thread :=
  s.cores.flatMap (fun c => (c.2.slots.filter (fun e => e.2.st != .free)).map (fun e => e.2.th)
    ++ c.2.rq.map (fun e => e.th) ++ c.2.park.map (fun e => e.th)) ++ s.migrants.map (fun m => m.th)

/-- The thread with an identity. -/
def State.thOf (s : State) (uid : Nat) : Option Thread := s.threads.find? (fun t => t.uid == uid)

/-- Change a scoreboard counter of a thread at its home (R13, R124). -/
def State.scAdd (s : State) (t : Thread) (k : Nat) (d : Int) : State :=
  s.setSc t.home t.homeWp k (((s.coreAt t.home).sc t.homeWp k + d).toNat)

/-- Take an identity number for a packet, thread or record of the model. -/
def State.fresh (s : State) : Nat × State := (s.nextId, { s with nextId := s.nextId + 1 })

/-! ### Input queues and notices (R107, R136, R137) -/

/-- The words a queue of messages holds. -/
def rxWords (q : List RxMsg) : Nat := (q.map (fun m => m.words.length)).sum

/-- The message of a queue that a slot reads next (R136): bound, part-read, or the oldest direct one for it. -/
def rxPick (q : List RxMsg) (uid slot : Nat) : Option RxMsg :=
  match q.find? (fun m => m.owner == .task uid) with
  | some m => some m
  | none =>
    match q.find? (fun m => m.owner == .slot slot) with
    | some m => some m
    | none => q.find? (fun m => m.owner == .direct && (bits m.hdr 14 14 == 0 || bits m.hdr 13 12 == slot))

/-- Input queue n0 or n1 of a core. -/
def Core.rx (c : Core) (p : Nat) : List RxMsg := if p = 0 then c.rx0 else c.rx1

/-- Replace input queue n0 or n1. -/
def Core.setRx (c : Core) (p : Nat) (q : List RxMsg) : Core := if p = 0 then { c with rx0 := q } else { c with rx1 := q }

/-- The word at the head of port p that a waiting group of another thread holds (R193): m is the message of n0 or n1. -/
def Core.heldFor (c : Core) (uid p m : Nat) : Bool :=
  c.heldWords.any (fun h => h.port == p && h.msg == m && h.uid != uid)

/-- A slot claims the message it reads if it is direct (R136). -/
def rxClaim (q : List RxMsg) (id slot : Nat) : List RxMsg :=
  mapIf (fun m => m.id == id && m.owner == .direct) (fun m => { m with owner := .slot slot }) q

/-- The message of n0 or n1 that a slot reads next; none while a group that waits elsewhere holds its next word. -/
def Core.portMsg (c : Core) (t : Thread) (slot p : Nat) : Option RxMsg :=
  (rxPick (c.rx p) t.uid slot).filter (fun m => !c.heldFor t.uid p m.id)

/-- The word a slot would pop from port p, 0..3 (R15, R136, R137): not one that a waiting group holds (R193). -/
def Core.portHead (c : Core) (t : Thread) (slot p : Nat) : Option Word :=
  match p with
  | 0 | 1 => (c.portMsg t slot p).bind (fun m => m.words.head?)
  | 2 => if c.heldFor t.uid 2 0 then none else c.rx2.head?
  | _ => if c.heldFor t.uid 3 0 then none else c.rx3.head?

/-- A group that waits holds the word it pops from port p at the head of its queue, and claims its message (R193, R136). -/
def Core.holdPort (c : Core) (t : Thread) (slot p : Nat) : Core :=
  match p with
  | 0 | 1 =>
    match c.portMsg t slot p with
    | none => c
    | some m =>
      { c.setRx p (rxClaim (c.rx p) m.id slot) with
        heldWords := { port := p, uid := t.uid, msg := m.id, claimed := m.owner == .direct } :: c.heldWords }
  | _ => { c with heldWords := { port := p, uid := t.uid } :: c.heldWords }

/-- The words held for a thread are no longer held (R193): its group has been performed. -/
def Core.popHeld (c : Core) (uid : Nat) : Core := { c with heldWords := c.heldWords.filter (fun h => h.uid != uid) }

/-- The words held for a thread stay at the heads of their queues, its claims are undone (R193): its group is left
unperformed. -/
def Core.giveBack (c : Core) (uid : Nat) : Core :=
  ((c.heldWords.filter (fun h => h.uid == uid && h.claimed)).foldl (fun c h =>
    c.setRx h.port (mapIf (fun m => m.id == h.msg) (fun m => { m with owner := .direct }) (c.rx h.port))) c).popHeld uid

/-- Pop port p (R15, R136, R137). -/
def Core.portPop (c : Core) (t : Thread) (slot p : Nat) : Core :=
  match p with
  | 0 | 1 =>
    match rxPick (c.rx p) t.uid slot with
    | none => c
    | some m => c.setRx p ((mapIf (fun x => x.id == m.id) (fun x => { x with words := x.words.tail })
        (rxClaim (c.rx p) m.id slot)).filter (fun x => !x.words.isEmpty))
  | 2 => { c with rx2 := c.rx2.tail }
  | _ => { c with rx3 := c.rx3.tail }

/-- The quantum may still be squashed (R225). -/
def OrdTask.canSquash (t : OrdTask) : Bool := t.st == .running || t.st == .ended

/-- The words of queue p of a core that quanta have popped and a squash may put back: their places stay taken (R107, R225). -/
def State.poppedWords (s : State) (n p : Nat) : Nat :=
  (s.ords.map (fun o => ((o.2.tasks.filter (fun t => t.core == n && t.canSquash)).map (fun t =>
    if p < 2 then ((t.kept.filter (fun m => m.1 == p)).map (fun m =>
        m.2.words.length - (match ((s.coreAt n).rx p).find? (fun x => x.id == m.2.id) with
          | some x => x.words.length
          | none => 0))).sum
    else (t.kept23.filter (fun x => x.1 == p)).length)).sum)).sum

/-- The words that input queue p of a core holds or keeps room for (R107). -/
def State.rxUsed (s : State) (n p : Nat) : Nat :=
  (match p with
    | 0 | 1 => rxWords ((s.coreAt n).rx p)
    | 2 => (s.coreAt n).rx2.length
    | _ => (s.coreAt n).rx3.length) + s.poppedWords n p

/-- Send a one-word notice to port 2 or 3 of a core; it waits at its source until room appears (R137). -/
def State.notify (s : State) (n port : Nat) (w : Word) : State :=
  let c := s.coreAt n
  if s.notices.any (fun x => x.1 == n && x.2.1 == port) || decide (128 ≤ s.rxUsed n port) then
    { s with notices := s.notices ++ [(n, port, w)] }
  else s.setCore n (if port = 2 then { c with rx2 := c.rx2 ++ [w] } else { c with rx3 := c.rx3 ++ [w] })

/-! ### Run queues (R107, R121) -/

/-- Entries of the run queue in use; fired records wait beside it (R116). -/
def Core.rqFree (c : Core) : Bool := decide (c.rq.length < 64)

/-- Insert a task into a run queue: ahead of the tasks of its priority (after those inserted ahead before), or
behind all of them (R121). -/
def Core.rqInsert (c : Core) (e : RqEntry) : Core := { c with rq := c.rq ++ [e] }

/-- The task sequence of a task created at a core (R109). -/
def Core.takeSeq (c : Core) : BitVec 32 × Core := (c.taskCount, { c with taskCount := c.taskCount + 1 })

/-- Whether a run-queue entry goes before another (R121): priority, tasks inserted ahead, budget, insertion. -/
def rqBefore (a b : RqEntry) : Bool :=
  decide (a.prio < b.prio) || (a.prio == b.prio && (if a.ahead then !b.ahead
    else !b.ahead && (decide (a.budget < b.budget))))

/-- The entry that a free slot takes (R121): the first least one among those the slot may take. -/
def rqChoose (q : List RqEntry) (slot : Nat) (ws : Bool) : Option RqEntry :=
  (q.filter (fun e => (match e.sb with | none => true | some k => k == slot) && (ws || !e.fresh))).foldl
    (fun best e => match best with
      | none => some e
      | some b => if rqBefore e b then some e else some b) none

/-- The lowest-numbered free workspace (R108). -/
def Core.lowFree (c : Core) : Option Nat :=
  (List.range 128).find? (fun i => if i < 64 then c.wsfree0.getLsbD i else c.wsfree1.getLsbD (i - 64))

/-- Clear or set the WSFREE bit of a workspace (R108). -/
def Core.setFree (c : Core) (i : Nat) (b : Bool) : Core :=
  if i < 64 then { c with wsfree0 := setBit c.wsfree0 i b } else { c with wsfree1 := setBit c.wsfree1 (i - 64) b }

/-- Number of priority p entries (R121, RQSTAT). -/
def Core.rqCount (c : Core) (p : Nat) : Nat := (c.rq.filter (fun e => e.prio == p)).length

/-! ### Taking a trap and returning from one (R348-R355) -/

/-- The TCAUSE word (R349). -/
def TrapInfo.cause (t : TrapInfo) : Word :=
  fld 63 (boolWord t.isDef).toNat ||| fld 16 t.info ||| fld 8 t.acc ||| fld 0 t.code

/-- Why a task ends (R145, R361). -/
inductive EndKind where
  | done
  | faulted
  | killed
  deriving DecidableEq, Repr

/-- The join counter decreases and the end is counted (R113, R150, R361). -/
def State.launchEnd (s : State) (t : Thread) (e : EndKind) : State :=
  match t.launch with
  | none => s
  | some id => { s with launches := mapIf (fun x => x.1 == id) (fun x => (x.1,
      { x.2 with
        counter := x.2.counter - 1
        flt := if e = .faulted then Nat.min 0xFFFF (x.2.flt + 1) else x.2.flt
        kill := if e = .killed then Nat.min 0xFFFF (x.2.kill + 1) else x.2.kill
        ended := (t.lin, t.k) :: x.2.ended })) s.launches }

/-- Discard the unread words of the messages bound to a task (R136, R145). -/
def Core.dropBound (c : Core) (uid : Nat) : Core :=
  { c with
    rx0 := c.rx0.filter (fun m => m.owner != .task uid)
    rx1 := c.rx1.filter (fun m => m.owner != .task uid) }

/-- A thread leaves its chain; the holder passes the baton on (R126, R156). The writes that a holder which ended otherwise
than by texit has still under way are awaited before the next iteration receives it (past; log 57). -/
def State.leaveChain (s : State) (t : Thread) (e : EndKind) : State :=
  match t.chain with
  | none => s
  | some cid =>
    let c := s.chains.get {} cid
    let c1 : Chain := { c with
      iters := c.iters.filter (fun u => u != t.uid)
      past := if e = .done then c.past else t.uid :: c.past
      snaps := c.snaps.filter (fun x => x.1 != t.uid)
      baton := c.baton && c.iters.head? != some t.uid }
    { s with chains := s.chains.set cid c1 }

/-- What a task's end changes beside its workspace and slot: its bound message is discarded, its launch counts it, its
chain and its ordered launch forget it (R145 steps 3 and 4, R126, R361, R224). A holder that faults or is killed passes
the baton on as texit does (DEDUCED for texit in system mode, DESIGN CHOICE for a kill, log 57). -/
def State.endRecord (s : State) (t : Thread) (e : EndKind) : State :=
  let s1 := ((s.modCore t.home (fun c => c.dropBound t.uid)).launchEnd t e).leaveChain t e
  { s1 with
    ords := s1.ords.map (fun o => (o.1, { o.2 with tasks := mapIf (fun x => x.uid == t.uid) (fun x => { x with st := .gone }) o.2.tasks })) }

/-- A task that holds a workspace ends: the workspace is unbound and given back as it stands (R23, R145, R361). The slot is
not touched. -/
def State.endTask (s : State) (t : Thread) (e : EndKind) : State :=
  (s.endRecord t e).modCore t.home (fun c => c.setFree t.homeWp true)

/-- Pending register writes are performed, in the workspaces they were issued in (R19, R61). -/
def State.flushPend (s : State) (n k : Nat) : State :=
  ((s.slotAt n k).pend.foldl (fun s p => match p with
    | .w wp r v => s.setReg n wp r v
    | .v wp r v => s.setVreg n wp r v) s).modSlot n k (fun x => { x with pend := [] })

/-- PC and SW of a thread that leaves its slot on core n go to its workspace (R20). -/
def State.savePcSw (s : State) (n : Nat) (t : Thread) : State :=
  (s.pokeW n (wsBase t.wp + 768) t.pc).pokeW n (wsBase t.wp + 776) t.sw

/-- PC and SW of a thread that enters a slot of core n come from its workspace (R20); a value 5..7 of rm is kept
(DESIGN CHOICE, log 55). -/
def Core.loadPcSw (c : Core) (t : Thread) : Thread :=
  { t with pc := c.word (wsBase t.wp + 768) &&& ~~~(3 : Word), sw := c.word (wsBase t.wp + 776) &&& swFields }

/-- The slot becomes free; SWP stays (R107, R145). Its pending register writes have been performed (R19); words that its
group held stay in their queues (R193). -/
def State.freeSlot (s : State) (n k : Nat) : State :=
  ((s.flushPend n k).modCore n (fun c => c.giveBack (c.slotAt k).th.uid)).modSlot n k (fun x =>
    { x with st := .free, th := {}, hold := none, pend := [], stalled := false })

/-- A thread leaves its slot for good or to another core: PC and SW go to its workspace (R20), the slot becomes free. -/
def State.leaveSlot (s : State) (n k : Nat) : State := ((s.flushPend n k).savePcSw n (s.thAt n k)).freeSlot n k

/-- A core counts a refusal in WINNACK (R168). -/
def State.countNack (s : State) (n : Nat) : State :=
  if n < 4096 then s.modCore n (fun c => { c with winnack := Nat.min (c.winnack + 1) 0xFFFFFFFF }) else s

/-- An error record waits to be enqueued on ERRQ (R370): kind, consumer, address, context, unit, identity. -/
def errRecord (kind consumer addr ctx unit : Nat) (id : Word) : List Word :=
  [fld 44 noBudget ||| fld 32 2, fld 0 kind ||| fld 8 consumer, fld 0 addr, fld 0 ctx, fld 0 unit, id, 0, 0]

/-- The unit word of an error record: physical hedge, slice, thicket, slot (R370). -/
def unitOf (n slot : Nat) : Nat := physHedge (hedgeOf n) + 256 * sliceOf n + 2048 * (yOf n % 4 / 2) + 4096 * slot

/-- A record to the error queue: sent as a packet to the queue's home and performed there (R370). -/
def State.postError (s : State) (rec : List Word) : State :=
  { s with net := s.net ++ [{ id := s.nextId, cls := 3, src := { sys := true }, home := .slice 0, space := .dev,
                              va := s.pkg.errq, kind := .sysm rec }]
           nextId := s.nextId + 1 }

/-- The kind of R370 of an error in the granules of a core's local memory that a range meets: 1 where it struck the register
cache. -/
def State.localKind (s : State) (n a len : Nat) : Nat :=
  if s.bad.any (fun g => g.kind == 0 && g.u == n && meets g.addr 8 a len && g.reg) then 1 else 0

/-- The kind of R370 of an error in a sector of device memory: in the cache, or in HBM. -/
def State.devKind (s : State) (pa : Nat) : Nat := if s.isBad 2 0 (pa / 64 * 64) 64 then 2 else 3

/-- The unit word of a record about device memory: its stack (R370). -/
def stackUnit (pa : Nat) : Nat := 65536 * (pa / 2 ^ 36 % 16)

/-- The error record of an uncorrectable error that a thread's access to core n's local memory meets (R370). -/
def State.localError (s : State) (n a : Nat) (t : Thread) : State :=
  s.postError (errRecord (s.localKind n a 8) 1 a t.ctx (unitOf n 0) t.tid)

/-- The error record of a walk that meets an uncorrectable error (R370); the identity is that of the thread or job whose access
is walked (DEDUCED, log 50). -/
def State.walkError (s : State) (pa ctx : Nat) (id : Word) : State := s.postError (errRecord 7 3 pa ctx (stackUnit pa) id)

/-- Trap entry on a slot (R352): the frame goes to the system workspace; SW, WP and PC change. A trap in system mode
with WP = SWP is a double trap: an error record, and the task ends as killed. -/
def State.takeTrap (s : State) (n k : Nat) (t : TrapInfo) (pc sw : Word) : State :=
  let x := s.slotAt n k
  if swMode sw && x.th.wp == x.swp then
    ((s.postError (errRecord 8 1 (1024 * x.swp) x.th.ctx (unitOf n k) x.th.tid)).endTask x.th .killed).leaveSlot n k
  else
    let frame := [pc, sw, t.cause, t.addr, fld 63 (boolWord (swPp sw)).toNat ||| fld 0 (swPfx sw).toNat, fld 10 x.th.wp]
    let s1 := s.poke n (wsBase x.swp + 784) (frame.flatMap (fun w => toBytes 8 w.toNat))
    s1.modSlot n k (fun y => { y with
      stalled := false
      th := { y.th with
        wp := x.swp
        sw := fld 63 1
        pc := (s.hedge (hedgeOf n)).trapvec &&& ~~~(3 : Word)
        deferred := if t.isDef then none else y.th.deferred } })

/-- The SW that rft restores (R355): reserved fields zero, ra 0, ord exactly in user mode of an ordered launch. A value
5..7 of rm, which R18 keeps out of CSR writes only, is kept (DESIGN CHOICE, log 55). -/
def rftSw (w : Word) (ord : Bool) : Word :=
  let v := setBit (w &&& swFields) 61 false
  if !swMode w && ord then setBit v 62 true else setBit v 62 false

/-- Whether a thread belongs to an ordered launch (R220, R355). -/
def State.inOrdered (s : State) (t : Thread) : Bool :=
  match t.launch with
  | none => false
  | some id => s.ords.any (fun o => o.1 == id)

/-- The return of rft into a slot (R355): pc, sw and wp as read from the frame. The workspace of the task is the one that it
returns to in user mode. -/
def State.rftReturn (s : State) (n k : Nat) (pc sw : Word) (wp : Nat) : State :=
  s.modTh n k (fun t => { t with pc := pc, sw := rftSw sw (s.inOrdered t), wp := wp,
                                 homeWp := if n = t.home && !swMode sw then wp else t.homeWp
                                 trapNext := if swMode sw then t.trapNext else t.trapLater
                                 trapLater := if swMode sw then t.trapLater else none })

end Sys2Proof.Machine
end

