-- ==== Sys2Proof/Machine/Device.lean ====
section
/-! DEFINITION. Translation, the scratch aperture and the remote region, device memory behind the last-level cache,
and instruction fetch (08, 22 R403-R404, 01 R20, 09 R204 of the spec). -/

namespace Sys2Proof.Machine

/-- The end of device memory (R172). -/
def devTop : Nat := 0xC000000000
/-- The start of host memory in the physical space (R172). -/
def hostBase : Nat := 0x800000000000

/-! ### Sectors of the last-level cache (R174-R176) -/

/-- The bits of the bytes that a byte mask enables. -/
def wideMask (m : BitVec 64) : Vec :=
  (List.range 64).foldl (fun acc i => if m.getLsbD i then acc ||| BitVec.ofNat 512 (255 <<< (8 * i)) else acc) 0

/-- The byte mask of n bytes from byte i on. -/
def byteMask (i n : Nat) : BitVec 64 := BitVec.ofNat 64 ((2 ^ n - 1) <<< i)

/-- The bytes n from byte i of a sector, as a number. -/
def vecNum (d : Vec) (i n : Nat) : Nat := (d.toNat >>> (8 * i)) % 2 ^ (8 * n)

/-- A number placed at byte i of a sector. -/
def vecAt (i v : Nat) : Vec := BitVec.ofNat 512 (v <<< (8 * i))

/-- The words of a sector that a byte range touches, as a mask of 4-byte words. -/
def wordsOf (i n : Nat) : BitVec 16 :=
  (List.range 16).foldl (fun acc w => if meets i n (4 * w) 4 then acc ||| BitVec.ofNat 16 (1 <<< w) else acc) 0

/-- The 4-byte words that a byte mask covers whole. -/
def fullWords (m : BitVec 64) : BitVec 16 :=
  (List.range 16).foldl (fun acc w => if m.extractLsb' (4 * w) 4 == 15 then acc ||| BitVec.ofNat 16 (1 <<< w) else acc) 0

/-- The 4-byte words that a byte mask touches. -/
def anyWords (m : BitVec 64) : BitVec 16 :=
  (List.range 16).foldl (fun acc w => if m.extractLsb' (4 * w) 4 != 0 then acc ||| BitVec.ofNat 16 (1 <<< w) else acc) 0

/-- The byte mask of a mask of 4-byte words. -/
def bytesOfWords (m : BitVec 16) : BitVec 64 :=
  (List.range 16).foldl (fun acc w => if m.getLsbD w then acc ||| BitVec.ofNat 64 (15 <<< (4 * w)) else acc) 0

/-- The sector that holds a device address, by number PA div 64. -/
def State.sector (s : State) (k : Nat) : Sector := s.llc.get {} k

/-- The 64 bytes that HBM holds for a sector. -/
def State.hbmSector (s : State) (k : Nat) : Vec := BitVec.ofNat 512 (s.hbm.num (64 * k) 64)

/-- The 64 bytes a home slice would return now: the sector's own words over HBM (R174, R175). -/
def State.sectorData (s : State) (k : Nat) : Vec :=
  let x := s.sector k
  if x.v then x.data
  else if x.mask = 0 then s.hbmSector k
  else
    let m := wideMask (bytesOfWords x.mask)
    (s.hbmSector k &&& ~~~m) ||| (x.data &&& m)

/-- A number read at a device address, within one sector, as the home slice returns it. -/
def State.devNum (s : State) (pa n : Nat) : Nat := vecNum (s.sectorData (pa / 64)) (pa % 64) n

/-- Write bytes of one sector to HBM. -/
def State.hbmPut (s : State) (k : Nat) (data : Vec) (m : BitVec 64) : State :=
  let bs := (List.range 64).foldl (fun mem i =>
    if m.getLsbD i then mem.write (64 * k + i) (data.extractLsb' (8 * i) 8) else mem) s.hbm
  let s1 := { s with hbm := bs }
  { s1 with bad := s1.bad.filter (fun g => !(g.kind == 1 && meets g.addr 32 (64 * k) 64
      && m.extractLsb' (g.addr % 64) 32 == BitVec.allOnes 32)) }

/-- Evict a sector (R175): a modified one is written whole, a partial one with word enables. A granule that is uncorrectable
in what is written stays so in HBM (R368). -/
def State.evictSector (s : State) (k : Nat) : State :=
  let x := s.sector k
  let m := if x.v && x.d then BitVec.allOnes 64 else if x.v then 0 else bytesOfWords x.mask
  let s1 := if m = 0 then s else s.hbmPut k x.data m
  let moved := (s1.bad.filter (fun g => g.kind == 2 && decide (g.addr / 64 = k) && m.extractLsb' (g.addr % 64) 8 != 0)).map
    (fun g => { kind := 1, u := 0, addr := g.addr / 32 * 32 : BadGranule })
  { s1 with llc := s1.llc.del k
            bad := s1.bad.filter (fun g => !(g.kind == 2 && decide (g.addr / 64 = k))) ++ moved }

/-- Evict the sectors of a line (R175). -/
def State.evictLine (s : State) (l : Nat) : State :=
  (List.range 4).foldl (fun s i => if s.llc.has (4 * l + i) then s.evictSector (4 * l + i) else s) s

/-- The slice, counted over the device, and the set of a line of 256 bytes (R173). -/
def lineSet (l : Nat) : Nat × Nat :=
  let o := l % (3 * 2 ^ 28)
  (72 * (l / (3 * 2 ^ 28)) + o % 72, o / 72 % 512)

/-- The ways of a slice for expert lines, or for all others (R178). While no way is an expert way, expert lines take
general ways (DESIGN CHOICE, log 68; timing only, R176). -/
def State.ways (s : State) (slice pol : Nat) : Nat :=
  let ew := bits s.pkg.llcpart 7 4
  let rw := if slice % 72 / 8 = 0 then 0 else bits s.pkg.llcpart 11 8
  if 4 ≤ pol && ew != 0 then ew else 16 - rw - ew

/-- The lines that share the set of a line and its use of the ways (R173, R178). -/
def State.waySharers (s : State) (l pol : Nat) : List (Nat × Nat) :=
  let mine (e : Nat × Sector) : Bool := lineSet (e.1 / 4) == lineSet l
    && (bits s.pkg.llcpart 7 4 == 0 || (decide (4 ≤ e.2.pol) == decide (4 ≤ pol)))
  ((s.llc.filter mine).map (fun e => (e.1 / 4, e.2.pol % 4))).foldl (fun (a : List (Nat × Nat)) x =>
    if a.any (fun y => y.1 == x.1) then a else a ++ [x]) []

/-- Room for a line in its set (R173, R176, R178): where its ways are taken, a streaming line leaves first; which of the
others does is timing only. -/
def State.makeRoom (s : State) (l pol : Nat) : State :=
  if s.llc.any (fun e => e.1 / 4 == l) then s
  else
    let q := s.waySharers l pol
    if q.length < s.ways (lineSet l).1 pol then s
    else match q.find? (fun x => x.2 == 1), q with
      | some x, _ => s.evictLine x.1
      | none, x :: _ => s.evictLine x.1
      | none, [] => s

/-- A sector takes its place in the cache. -/
def State.llcPut (s : State) (k : Nat) (x : Sector) : State :=
  let s1 := s.makeRoom (k / 4) x.pol
  { s1 with llc := s1.llc.set k x }

/-- Fill a sector from HBM, the masked words laid over the fill (R175); errors of HBM come with it (R368). -/
def State.fillSector (s : State) (k pol : Nat) : State :=
  let x := s.sector k
  if x.v || s.retired (64 * k) then s else
    let bads := (s.bad.filter (fun g => g.kind == 1 && meets g.addr 32 (64 * k) 64)).flatMap (fun g =>
      ((List.range 4).map (fun i => g.addr + 8 * i)).filterMap (fun a =>
        if (x.mask.extractLsb' ((a % 64) / 4) 2) == 3 then none else some { kind := 2, u := 0, addr := a }))
    let s1 := s.llcPut k { v := true, d := x.mask != 0, mask := 0, data := s.sectorData k, pol := pol }
    { s1 with bad := s1.bad ++ bads }

/-- A load at the home slice (R175, R176): whether it fills, and the state after it. -/
def State.devLoad (s : State) (pa n pol : Nat) : State :=
  let x := s.sector (pa / 64)
  let need := wordsOf (pa % 64) n
  if x.v || (x.mask &&& need) == need then s
  else if pol % 4 = 2 && x.mask == 0 then s
  else s.fillSector (pa / 64) pol

/-- Whether a device read of a range meets an uncorrectable error (R369). -/
def State.devBad (s : State) (pa n : Nat) : Bool :=
  let x := s.sector (pa / 64)
  let need := wordsOf (pa % 64) n
  s.isBad 2 0 pa n || (!x.v && (x.mask &&& need) != need && s.isBad 1 0 pa n)

/-- A store at the home slice: bytes of one sector under a byte mask (R175, R176). -/
def State.devStore (s : State) (k : Nat) (data : Vec) (m : BitVec 64) (pol : Nat) : State :=
  let w := wideMask m
  let lay (old : Vec) : Vec := (old &&& ~~~w) ||| (data &&& w)
  let partly := anyWords m &&& ~~~fullWords m
  let x0 := s.sector k
  let s1 := if !x0.v && (partly &&& ~~~x0.mask) != 0 && !(pol % 4 = 2 && x0.mask == 0) then s.fillSector k pol else s
  let x := s1.sector k
  let absent := !x.v && x.mask == 0
  let s2 :=
    if pol % 4 = 2 && absent then s1
    else if x.v then s1.llcPut k { x with data := lay x.data, d := true }
    else s1.llcPut k { x with data := lay x.data, mask := x.mask ||| anyWords m, pol := pol }
  let s3 := { s2 with bad := s2.bad.filter (fun g => !(g.kind == 2 && decide (g.addr / 64 = k)
      && m.extractLsb' (g.addr % 64) 8 == 255)) }
  if pol % 4 = 2 then s3.hbmPut k data m else s3

/-- Whether a store must merge with an uncorrectable granule (R369): an 8-byte piece held in the cache that the store
covers in part, or a fill that reads the error. -/
def State.devMergeBad (s : State) (k : Nat) (m : BitVec 64) : Bool :=
  let x := s.sector k
  s.bad.any (fun g => g.kind == 2 && decide (g.addr / 64 = k)
      && m.extractLsb' (g.addr % 64) 8 != 0 && m.extractLsb' (g.addr % 64) 8 != 255)
    || s.retired (64 * k) || (!x.v && s.bad.any (fun g => g.kind == 1 && meets g.addr 32 (64 * k) 64
      && (anyWords m &&& ~~~fullWords m &&& ~~~x.mask &&& wordsOf (g.addr % 64) 32) != 0))

/-! ### Host memory -/

/-- A number read at a host physical address. -/
def State.hostNum (s : State) (pa n : Nat) : Nat := s.hostMem.num pa n

/-! ### Page tables (R179-R185) -/

/-- A word of a table or descriptor, read from HBM directly (R185); where device memory ends, a free value (log 67). -/
def State.tableWord (s : State) (pa : Nat) : Word :=
  if pa + 8 ≤ devTop then BitVec.ofNat 64 (s.hbm.num pa 8) else Config.strayWord pa

/-- A table word holds an uncorrectable error (R183). The tables of a retired stack are read by the recovery walker, with
the same results (R189). -/
def State.tableBad (s : State) (pa : Nat) : Bool :=
  s.bad.any (fun g => g.kind == 1 && meets g.addr (granule 1) pa 8)

/-- An entry with v = 1 that is malformed at a level (R182). -/
def malformed (e : Word) (lvl : Nat) : Bool :=
  let leaf := e.getLsbD 1
  let addr := bits e 47 13 * 8192
  let pol := bits e 3 2
  bits e 63 48 != 0 || e.getLsbD 12 || e.getLsbD 7
    || (leaf && lvl == 3) || (!leaf && lvl == 0)
    || (!leaf && (bits e 6 2 != 0 || decide (addr ≥ devTop)))
    || (leaf && (addr % 2 ^ (16 + 10 * lvl) != 0 || (decide (addr ≥ devTop) && decide (addr < hostBase))
        || (pol == 3 && decide (addr < devTop)) || (pol != 3 && decide (addr ≥ hostBase))))

/-- The index of a level (R179). -/
def levelIndex (va : Word) (lvl : Nat) : Nat := (va.toNat >>> (16 + 10 * lvl)) % 1024

/-- Follow the tables from a level down (R183). -/
def State.walkFrom (s : State) (ctx : Nat) (va : Word) : Nat → Nat → Walk
  | lvl, t =>
    let pa := t + 8 * levelIndex va lvl
    let e := s.tableWord pa
    if s.tableBad pa then .dataErr pa
    else if !e.getLsbD 0 then .invalid
    else if malformed e lvl then .malformed
    else if e.getLsbD 1 then
      .ok { ctx := ctx, va := va.toNat / 2 ^ (16 + 10 * lvl) * 2 ^ (16 + 10 * lvl), size := 2 ^ (16 + 10 * lvl),
            frame := bits e 47 13 * 8192, x := e.getLsbD 6, usr := e.getLsbD 5, w := e.getLsbD 4, pol := bits e 3 2 }
    else
      match lvl with
      | 0 => .invalid
      | l + 1 => State.walkFrom s ctx va l (bits e 47 13 * 8192)

/-- The address of word i of a context's descriptor (R180). -/
def State.descAddr (s : State) (ctx i : Nat) : Nat := bits s.pkg.ctxbase 47 6 * 64 + 64 * ctx + 8 * i

/-- Translate by walking (R183). -/
def State.walk (s : State) (ctx : Nat) (va : Word) : Walk :=
  if ctx ≥ bits s.pkg.ctxbase 63 48 then .invalid else
    let a := s.descAddr ctx (if va.getLsbD 55 then 1 else 0)
    let r := s.tableWord a
    if s.tableBad a then .dataErr a
    else if !r.getLsbD 0 then .invalid
    else s.walkFrom ctx va 3 (bits r 47 13 * 8192)

/-- Whether a translation covers an address of a context. -/
def TlbEntry.covers (e : TlbEntry) (ctx : Nat) (va : Word) : Bool :=
  e.ctx == ctx && decide (e.va ≤ va.toNat) && decide (va.toNat < e.va + e.size)

/-- The entry of a hedge's miss-merge table for a context and 64 KiB page (R186). -/
def State.missOf (s : State) (h ctx page : Nat) : Option Miss :=
  (s.hedge h).misses.find? (fun m => m.ctx == ctx && m.page == page)

/-- Translate through a hedge's translation cache (R186): a miss that merged is answered by the walk it waited on, another
walks. -/
def State.translate (s : State) (h ctx : Nat) (va : Word) : Walk :=
  match (s.hedge h).tlb.find? (fun e => e.covers ctx va) with
  | some e => .ok e
  | none => match (s.missOf h ctx (va.toNat / 2 ^ 16)).bind (fun m => m.out) with
    | some w => w
    | none => s.walk ctx va

/-- Install a translation in a hedge's cache of 512 (R186). -/
def Hedge.install (h : Hedge) (e : TlbEntry) : Hedge :=
  if h.tlb.contains e then h else { h with tlb := (e :: h.tlb).take 512 }

/-- The number by which the agent that acts now waits on a miss: the job of an engine, else the thread of the issuing slot. -/
def State.missKey (s : State) : Nat := if s.job = 0 then 2 * (s.thAt s.core s.slot).uid else 2 * s.job + 1

/-- An agent that merged with a miss still waits: a thread whose slot is stalled, or a running job. -/
def State.awaits (s : State) (w : Nat) : Bool :=
  if w % 2 = 0 then s.cores.any (fun c => c.2.slots.any (fun x => x.2.st != .free && x.2.stalled && 2 * x.2.th.uid == w))
  else s.jobs.any (fun j => 2 * j.order + 1 == w && j.st == .running && !j.finished)

/-- The agent that a finished walk answers next: the first, in order of arrival, that still waits (R186). -/
def State.missHead (s : State) (m : Miss) : Option Nat := m.waiters.find? (fun w => w == s.missKey || s.awaits w)

/-- The entries of a hedge's miss-merge table in use: walks under way, and answers still to be taken. -/
def State.missCount (s : State) (h : Nat) : Nat :=
  ((s.hedge h).misses.filter (fun m => m.out.isNone || (s.missHead m).isSome)).length

/-- A miss must wait (R186): the walk for its context and 64 KiB page is under way, or answers those that merged before it;
or the miss-merge table of 32 entries is full. -/
def State.missWaits (s : State) (h ctx : Nat) (va : Word) : Bool :=
  let hit := (s.hedge h).tlb.any (fun e => e.covers ctx va)
  match s.missOf h ctx (va.toNat / 2 ^ 16) with
  | some m =>
    if m.out.isNone then !hit
    else if hit && !m.waiters.contains s.missKey then false
    else (match s.missHead m with
      | some w => w != s.missKey
      | none => false)
  | none => !hit && decide (32 ≤ s.missCount h)

/-- A walk for a context and page begins (R186): a miss enters the merge table. -/
def State.beginWalk (s : State) (h ctx page : Nat) : State :=
  if (s.missOf h ctx page).isSome || decide (32 ≤ s.missCount h) then s
  else s.modHedge h (fun x => { x with misses := x.misses ++ [{ ctx := ctx, page := page }] })

/-- The agent that acts now merges with the miss that it waits on, behind those that came before (R186). -/
def State.joinMiss (s : State) (h ctx page : Nat) : State :=
  match s.missOf h ctx page with
  | none => s
  | some m => if m.waiters.contains s.missKey then s
    else s.modHedge h (fun x => { x with misses := mapIf (fun y => y == m) (fun y => { y with waiters := y.waiters ++ [s.missKey] }) x.misses })

/-- A walk has ended (R186): its outcome waits for those that merged; with none the entry is free. -/
def Hedge.endMiss (h : Hedge) (ctx page : Nat) (w : Walk) : Hedge :=
  { h with misses := h.misses.filterMap (fun m => if m.ctx == ctx && m.page == page then
      (if m.waiters.isEmpty then none else some { m with out := some w }) else some m) }

/-- Agents that go on no longer wait on a miss; an answered entry that nobody waits on is free. -/
def State.leaveMiss (s : State) (h : Nat) (gone : Nat → Bool) : State :=
  if (s.hedge h).misses.isEmpty then s
  else s.modHedge h (fun x => { x with misses := x.misses.filterMap (fun m =>
    let ws := m.waiters.filter (fun w => !gone w)
    if m.out.isSome && ws.isEmpty then none else some { m with waiters := ws }) })

/-- The placement entry of a logical hedge in a context (R181), from the hedge's copy or from memory. -/
def State.pmapEntry (s : State) (h ctx lh : Nat) : Nat :=
  match (s.hedge h).pmaps.find? (fun e => e.1 == ctx) with
  | some e => e.2.getD lh 0
  | none =>
    if ctx ≥ bits s.pkg.ctxbase 63 48 then 0 else
      let p := s.tableWord (s.descAddr ctx 2)
      let a := bits p 47 9 * 512 + 2 * lh
      if !p.getLsbD 0 then 0 else if a + 2 ≤ devTop then s.hbm.num a 2 else bits (Config.strayWord a) 15 0

/-- The physical position of a logical core (R5, R181), if its hedge is mapped. -/
def State.place (s : State) (h ctx lin : Nat) : Option Nat :=
  let e := s.pmapEntry h ctx (hedgeOf lin)
  if e / 32768 = 1 && e / 256 % 128 = 0 then some (coreIn (hedgePos (e % 256)) (inHedge lin)) else none

/-- The logical linear index of a physical position in a context: by the hedge that maps to it; where none does, the spec
gives no index, and the value is free (DESIGN CHOICE, log 21). -/
def State.logical (s : State) (h ctx n : Nat) : Nat :=
  match (List.range 256).find? (fun lh => s.pmapEntry h ctx lh == 32768 + physHedge (hedgeOf n)) with
  | some lh => coreIn lh (inHedge n)
  | none => Config.unmappedIndex ctx n % 4096

/-- A logical core lies in a rectangle laid out as PRERECT (R371). -/
def inRect (r : Word) (lin : Nat) : Bool :=
  decide (bits r 63 58 ≤ xOf lin) && decide (xOf lin < bits r 63 58 + bits r 51 45)
    && decide (bits r 57 52 ≤ yOf lin) && decide (yOf lin < bits r 57 52 + bits r 44 38)

/-- A context is stopped at a logical core (R372). -/
def State.stopLin (s : State) (ctx lin : Nat) : Bool := s.pkg.stops.any (fun x => x.1 == ctx && inRect x.2 lin)

/-- A context is stopped at a core (R372). -/
def State.stoppedAt (s : State) (n ctx : Nat) : Bool :=
  !s.pkg.stops.isEmpty && s.stopLin ctx (s.logical (hedgeOf n) ctx n)

/-- A thread on a core is stopped: by where it runs or by where its home is (R372). -/
def State.thStopped (s : State) (n : Nat) (t : Thread) : Bool :=
  !s.pkg.stops.isEmpty && (s.stoppedAt n t.ctx || s.stopLin t.ctx t.lin)

/-! ### Resolving a global access (R161-R164, R404) -/

/-- What an address names: a core's local memory (none: an unmapped hedge), device, host or another package (coords: by aperture coordinates, else by a remote-region address). -/
inductive Place where
  | loc (core : Option Nat) (off : Nat)
  | dev (pa pol : Nat)
  | host (pa : Nat)
  | remote (pkg : Nat) (coords : Bool)
  deriving DecidableEq, Repr

/-- The outcome of the checks of an access (R162); wait: its translation is awaited (R186). -/
inductive Res where
  | ok (p : Place) (tlb : List TlbEntry)
  | trap (t : TrapInfo)
  | wait (page : Nat)
  deriving DecidableEq, Repr

/-- Bits [63:56] all equal bit 55 (R161). -/
def canonical (va : Word) : Bool := bits va 63 55 == 0 || bits va 63 55 == 511

/-- Whether an address lies in the scratch aperture (R163). -/
def State.inAperture (s : State) (va : Word) : Bool :=
  s.pkg.apbase.getLsbD 0 && bits va 63 36 == bits s.pkg.apbase 54 36

/-- A package that can be reached (R403). -/
def State.reachable (s : State) (p : Nat) : Bool :=
  p == s.pkgNo || (s.pkg.calcfg.getLsbD 63 && decide (p < 2 ^ bits s.pkg.calcfg 10 8) && (s.pkg.peers.get 0 p).getLsbD 63)

/-- Whether an address lies in the remote region and names another package (R404). -/
def State.remotePkg (s : State) (va : Word) : Option Nat :=
  if s.pkg.rmbase.getLsbD 0 && !s.inAperture va && bits va 63 51 == bits s.pkg.rmbase 54 51 && bits va 50 44 != s.pkgNo
  then some (bits va 50 44) else none

/-- Whether a leaf permits an access: kinds 1 load, 2 store, 3 read-modify-write, 4 fetch (R184). -/
def permits (e : TlbEntry) (sys : Bool) (acc : Nat) : Bool :=
  (sys || e.usr) && (acc == 1 || (acc == 4 && e.x) || ((acc == 2 || acc == 3) && e.w))

/-- The place a leaf gives an address. -/
def TlbEntry.place (e : TlbEntry) (va : Word) : Place :=
  let pa := e.frame + va.toNat % e.size
  if e.pol = 3 then .host pa else .dev pa e.pol

/-- The trap of a walk that does not end in a leaf (R348, R369). -/
def walkTrap (va : Word) (acc : Nat) : Walk → TrapInfo
  | .malformed => { code := 6, info := 1, acc := acc, addr := va }
  | .dataErr pa => { code := 12, info := 1, acc := acc, addr := va, pa := pa }
  | _ => { code := 6, info := 0, acc := acc, addr := va }

/-- An address lies in a region, or a replica of it, that the expert region table holds in the cache (R178, R320). -/
def State.expert (s : State) (ctx : Nat) (va : Word) : Bool :=
  s.regions.any (fun r => r.2.ctx == ctx && r.2.state == 1 && r.2.pol != 1
    && (r.2.base :: (r.2.reps.map (fun x => x.2)).filter (fun b => b != 0)).any (fun b =>
      decide (b ≤ va.toNat) && decide (va.toNat < b + 65536 * r.2.size)))

/-- The place with the ways that its line allocates in (R178). -/
def State.inWays (s : State) (ctx : Nat) (va : Word) : Place → Place
  | .dev pa pol => .dev pa (if s.expert ctx va then pol + 4 else pol)
  | p => p

/-- Steps 5 and 6 of R162 in a context. -/
def State.translated (s : State) (h ctx : Nat) (sys : Bool) (va : Word) (acc : Nat) : Res :=
  if s.missWaits h ctx va then .wait (va.toNat / 2 ^ 16) else
    match s.translate h ctx va with
    | .ok e => if permits e sys acc then .ok (s.inWays ctx va (e.place va)) [e] else .trap { code := 7, acc := acc, addr := va }
    | w => .trap (walkTrap va acc w)

/-- Whether the end of an access stays canonical, does not wrap and keeps its half (R162 step 1); the exact address
may lie outside 64 bits. -/
def spanOk (ea : Int) (n : Nat) : Bool :=
  decide (0 ≤ ea) && decide (ea + n ≤ 2 ^ 64) && canonical (ofInt ea) && canonical (ofInt (ea + n - 1))
    && (ofInt ea).getLsbD 55 == (ofInt (ea + n - 1)).getLsbD 55

/-- The checks of a global access in order (R162 steps 1-6), from a hedge in a context. -/
def State.resolve (s : State) (h ctx : Nat) (sys : Bool) (ea : Int) (n acc : Nat) : Res :=
  let va := ofInt ea
  if !spanOk ea n then .trap { code := 4, acc := acc, addr := va }
  else if va.toNat % n != 0 then .trap { code := 5, acc := acc, addr := va }
  else if !sys && va.getLsbD 55 then .trap { code := 7, acc := acc, addr := va }
  else if s.inAperture va then
    let o := bits va 35 0
    if !s.reachable (o / 2 ^ 29) then .trap { code := 4, acc := acc, addr := va }
    else if o / 2 ^ 29 != s.pkgNo then .ok (.remote (o / 2 ^ 29) true) []
    else .ok (.loc (s.place h ctx (linOf (o / 2 ^ 17 % 64) (o / 2 ^ 23 % 64))) (o % 2 ^ 17)) []
  else match s.remotePkg va with
    | some p => if s.reachable p then .ok (.remote p false) [] else .trap { code := 4, acc := acc, addr := va }
    | none => s.translated h ctx sys va acc

/-- The home of a place (R161, R173). -/
def Place.home : Place → Home
  | .loc (some n) _ => .core n
  | .loc none _ => .core 4096
  | .dev pa _ => .slice (72 * (pa / (3 * 2 ^ 36)) + pa % (3 * 2 ^ 36) / 256 % 72)
  | .host _ => .host
  | .remote p _ => .remote p

/-- The storage of a place; an unmapped hedge is core number 4096, which no package has (R168). -/
def Place.space : Place → Space
  | .loc (some n) _ => .core n
  | .loc none _ => .core 4096
  | .dev _ _ => .dev
  | .host _ => .host
  | .remote p _ => .remote p

/-- The address within the storage; in another package the virtual address itself (R404), or the place that aperture
coordinates name, which ldr, str and the aperture share (R164, R195). -/
def Place.addr (va : Word) : Place → Nat
  | .loc _ o => o
  | .dev pa _ => pa
  | .host pa => pa
  | .remote _ coords => if coords then 2 ^ 64 + va.toNat % 2 ^ 36 else va.toNat

/-- The leaf policy of a place (R176), 4 more for expert ways (R178); in another package 1 tells an access by coordinates. -/
def Place.pol : Place → Nat
  | .dev _ p => p
  | .remote _ c => if c then 1 else 0
  | _ => 0

/-! ### Windows (R165-R168) -/

/-- The window check at a target core (R167): acc 1 read, 2 write, 3 read-modify-write, 6 migrate. -/
def State.windowOk (s : State) (n : Nat) (src : Source) (acc off len : Nat) : Bool :=
  src.sys || (List.range 8).any (fun i =>
    let a := (s.coreAt n).wina.get 0 i
    let b := (s.coreAt n).winb.get 0 i
    let base := 64 * bits b 63 53
    let x := xOf src.lin
    let y := yOf src.lin
    a.getLsbD 63 && bits a 15 0 == src.ctx && (a.getLsbD 59 || bits a 58 52 == src.pkg)
      && decide (bits a 51 46 ≤ x) && decide (x < bits a 51 46 + bits a 39 33)
      && decide (bits a 45 40 ≤ y) && decide (y < bits a 45 40 + bits a 32 26)
      && decide (base ≤ off) && decide (off + len ≤ Nat.min (base + 64 * bits b 52 41) localBytes)
      && (acc != 1 || a.getLsbD 62) && (acc != 2 || a.getLsbD 61)
      && (acc != 3 || (a.getLsbD 62 && a.getLsbD 61)) && (acc != 6 || (a.getLsbD 62 && a.getLsbD 60)))

/-- The whole check of an arriving access (R167): the windows, and R14 with the source's mode for writes. -/
def State.arriveOk (s : State) (n : Nat) (src : Source) (acc off len : Nat) : Bool :=
  !s.noCore n && s.windowOk n src acc off len
    && (src.sys || acc == 1 || acc == 6 || (firstRefused (s.bound n) off len).isNone)

/-! ### Instruction fetch (R20, R33 step 1, R204) -/

/-- What a fetch of one syllable gives. -/
inductive Fetch where
  | ok (w : Syll) (tlb : List TlbEntry) (line : Nat)
  | trap (t : TrapInfo)
  | wait (page : Nat)
  | ask (pa : Nat)
  deriving DecidableEq, Repr

/-- Fetch the syllable at an address (R33 step 1): canonical and aligned (R75), in the right half, from an executable
page; from the hedge's instruction cache if it holds the line, from host memory by an access of its own (R414, R415). A fetch
allocates no sector in the last-level cache: R175 speaks of loads and stores only (DESIGN CHOICE, log 68). The aperture and other packages hold no executable
leaf of this package: the protection trap (DEDUCED, log 22). -/
def State.fetch (s : State) (h ctx : Nat) (sys : Bool) (pc : Word) : Fetch :=
  if !canonical pc then .trap { code := 4, acc := 4, addr := pc }
  else if bits pc 1 0 != 0 then .trap { code := 5, acc := 4, addr := pc }
  else if !sys && pc.getLsbD 55 then .trap { code := 7, acc := 4, addr := pc }
  else if s.inAperture pc || (s.remotePkg pc).isSome then .trap { code := 7, acc := 4, addr := pc }
  else match s.translated h ctx sys pc 4 with
    | .wait page => .wait page
    | .trap t => .trap t
    | .ok p tlb =>
      let pa := p.addr pc
      match p with
      | .host _ => (match (s.slotAt s.core s.slot).code.find? (fun e => e.1 == pa) with
        | some e => .ok e.2 tlb (pa / 4)
        | none => .ask pa)
      | _ =>
      match (s.hedge h).icache.find? (fun e => e.1 == pa / 4) with
      | some e => .ok e.2 tlb (pa / 4)
      | none =>
        if s.devBad pa 4 then .trap { code := 12, acc := 4, addr := pc, pa := pa }
        else .ok (BitVec.ofNat 32 (s.devNum pa 4)) tlb (pa / 4)

end Sys2Proof.Machine
end

