-- ==== Sys2Proof/Machine/Flags.lean ====
section
/-! DEFINITION. The prefix (R34-R37), its fallbacks and the warning bits of SW. Bit i of a warning set is SW bit
16 + i (R37). -/

namespace Sys2Proof.Machine

/-- The fields of a prefix value (R34). -/
structure Prefix where
  fa : Nat := 0
  fb : Nat := 0
  fd : Nat := 0
  scl : Nat := 0
  rnd : Nat := 0
  sat : Nat := 0
  uns : Bool := false
  deriving DecidableEq, Repr

/-- The fields of a value (R34). -/
def Prefix.of (v : BitVec 24) : Prefix :=
  { fa := bits v 23 20, fb := bits v 19 16, fd := bits v 15 12, scl := bits v 11 10, rnd := bits v 9 7,
    sat := bits v 6 5, uns := v.getLsbD 4 }

/-- One warning bit, by SW bit number (R37). -/
def warnBit (i : Nat) (b : Bool) : BitVec 16 := if b then BitVec.ofNat 16 (1 <<< (i - 16)) else 0

/-- The prefix that reaches the next syllable (R36): the pending one for the first syllable of a group, else the one
that the syllable before it set up. -/
def State.curPfx (s : State) : Option (BitVec 24) :=
  if s.grp.idx = 0 then
    let w := (s.thAt s.core s.slot).sw
    if swPp w then some (swPfx w) else none
  else s.grp.pfx

/-- The fallback of a target that accepts no prefix field (R60). -/
def fallAll (p : Option (BitVec 24)) : BitVec 16 :=
  match p with
  | none => 0
  | some v =>
    let q := Prefix.of v
    warnBit 18 (q.fa != 0 || q.fb != 0 || q.fd != 0 || q.uns) ||| warnBit 20 (q.scl != 0)
      ||| warnBit 22 (q.rnd != 0) ||| warnBit 24 (q.sat != 0)

/-- The fallback of a class C target: the whole prefix is discarded (R37, R60). -/
def fallControl (p : Option (BitVec 24)) : BitVec 16 := warnBit 16 p.isSome

/-- The fallback of a pfx as target: the earlier prefix is discarded (R37, R60). -/
def fallPfx (p : Option (BitVec 24)) : BitVec 16 := warnBit 17 p.isSome

/-- Warning bits joined into SW (R31, R37): bits 28..16. -/
def swWarn (w : Word) (x : BitVec 16) : Word := w ||| fld 16 (x &&& 0x1FFF).toNat

end Sys2Proof.Machine
end

