-- ==== Sys2Proof/Machine/Operands.lean ====
section
/-! DEFINITION. Operands and results of a syllable (R15, R21, R59, R61): what a field supplies in the read phase, and
the staging of what the write phase will do. -/

namespace Sys2Proof.Machine

/-- The issuing thread. -/
def State.th (s : State) : Thread := s.thAt s.core s.slot
/-- The issuing core. -/
def State.cor (s : State) : Core := s.coreAt s.core
/-- The hedge of the issuing core. -/
def State.hg (s : State) : Nat := hedgeOf s.core
/-- The address of the syllable being performed. -/
def State.syllAddr (s : State) : Word := s.th.pc + BitVec.ofNat 64 (4 * s.grp.idx)

/-- The value a scalar source field supplies (R59): w0 zero, a register, or the word a port would pop. -/
def State.val (s : State) (r : Reg) : Word :=
  if r.toNat < 28 then s.cor.reg s.th.wp r.toNat else (s.cor.portHead s.th s.slot (r.toNat - 28)).getD 0

/-- The value of a vector field. -/
def State.vval (s : State) (r : Reg) : Vec := s.cor.vreg s.th.wp r.toNat

/-- A register write of an earlier group is still pending (R61). -/
def State.pendW (s : State) (r : Nat) : Bool :=
  (s.slotAt s.core s.slot).pend.any (fun p => match p with | .w _ q _ => q == r | .v .. => false)

/-- A vector-register write of an earlier group is still pending (R61). -/
def State.pendV (s : State) (r : Nat) : Bool :=
  (s.slotAt s.core s.slot).pend.any (fun p => match p with | .w .. => false | .v _ q _ => q == r)

/-- The thread runs as a guest (R129). -/
def State.isGuest (s : State) : Bool := (s.slotAt s.core s.slot).st == .guest

/-- Stage a trap: the first of the group in program order stands. -/
def Fx.trapIf (fx : Fx) (b : Bool) (t : TrapInfo) : Fx := if b && fx.trap.isNone then { fx with trap := some t } else fx

/-- Stage an issue-time stall (R61, R77). -/
def Fx.stallIf (fx : Fx) (b : Bool) : Fx := { fx with stall := fx.stall || b }

/-- Stage the reading of a scalar register: pending writes (R61), a guest's missing registers (R129), an
uncorrectable error (R369). -/
def State.useReg (s : State) (r : Nat) (fx : Fx) : Fx :=
  if r = 0 then fx else
    let a := wsBase s.th.wp + 8 * r
    Fx.trapIf { fx with stall := fx.stall || s.pendW r, home := fx.home || (s.isGuest && decide (15 < r)) }
      (s.isBad 0 s.core a 8) { code := 12, addr := BitVec.ofNat 64 a }

/-- Stage the popping of a port word (R15); a word bound at home sends a guest home (R129). -/
def State.usePort (s : State) (p : Nat) (fx : Fx) : Fx :=
  { fx with
    pops := fx.pops ++ [p]
    portWait := fx.portWait || (s.cor.portHead s.th s.slot p).isNone
    home := fx.home || (s.isGuest && ((s.coreAt s.th.home).rx0 ++ (s.coreAt s.th.home).rx1).any
      (fun m => m.owner == .task s.th.uid)) }

/-- Stage the reading of a scalar source field. -/
def State.use (s : State) (r : Reg) (fx : Fx) : Fx :=
  if r.toNat < 28 then s.useReg r.toNat fx else s.usePort (r.toNat - 28) fx

/-- Stage the reading of a vector register. -/
def State.useV (s : State) (r : Reg) (fx : Fx) : Fx :=
  let a := wsBase s.th.wp + 256 + 64 * r.toNat
  Fx.trapIf { fx with stall := fx.stall || s.pendV r.toNat, home := fx.home || s.isGuest }
    (s.isBad 0 s.core a 64) { code := 12, addr := BitVec.ofNat 64 a }

/-- Stage a write of a scalar destination (R59); n0 and n1 append. -/
def State.put (s : State) (d : Reg) (v : Word) (fx : Fx) : Fx :=
  if d = 0 then fx else
    { fx with
      wr := fx.wr ++ [(d.toNat, v)]
      stall := fx.stall || (decide (d.toNat < 28) && s.pendW d.toNat)
      home := fx.home || (s.isGuest && decide (15 < d.toNat) && decide (d.toNat < 28)) }

/-- Stage a scalar destination whose value arrives with a reply (R193). -/
def State.putLater (s : State) (d : Reg) (x : Dst) (fx : Fx) : Fx :=
  { fx with
    dst := x
    stall := fx.stall || (decide (d.toNat < 28) && s.pendW d.toNat)
    home := fx.home || (s.isGuest && decide (15 < d.toNat) && decide (d.toNat < 28)) }

/-- The scalar destination just staged belongs to a syllable whose result completes after issue (R19, R61). -/
def Fx.later (fx : Fx) (d : Reg) : Fx := { fx with late := fx.late ++ [d.toNat] }

/-- Stage a write of a vector register. -/
def State.putV (s : State) (d : Reg) (v : Vec) (fx : Fx) : Fx :=
  { fx with vwr := fx.vwr ++ [(d.toNat, v)], stall := fx.stall || s.pendV d.toNat,
            home := fx.home || s.isGuest }

/-- The syllable names a scoreboard counter: a guest goes home (R129). -/
def State.useSc (s : State) (fx : Fx) : Fx := { fx with home := fx.home || s.isGuest }

/-- Stage warning bits. -/
def Fx.warnWith (fx : Fx) (w : BitVec 16) : Fx := { fx with warn := fx.warn ||| w }

/-- The effects staged so far, with the fallback of a target that accepts no prefix (R60). -/
def State.fx0 (s : State) : Fx := s.grp.fx.warnWith (fallAll s.curPfx)

/-- The effects staged so far, with the fallback of a class C target (R60). -/
def State.fxC (s : State) : Fx := s.grp.fx.warnWith (fallControl s.curPfx)

/-- Stage a trap of the syllable. -/
def State.trapFx (s : State) (fx : Fx) (b : Bool) (code acc : Nat) (addr : Word) (info : Nat := 0) : Fx :=
  let _ := s
  fx.trapIf b { code := code, acc := acc, addr := addr, info := info }

/-- The privilege trap of a system-only syllable in user mode (R33 step 4). -/
def State.needSys (s : State) (fx : Fx) : Fx :=
  if !s.th.sys && fx.pre.isNone then { fx with pre := some { code := 3, addr := s.syllAddr } } else fx

/-- The illegal-syllable trap of a syllable whose fields name nothing (R29), for a term that no word decodes to. -/
def State.illegal (s : State) (b : Bool) (fx : Fx) : Fx :=
  if b && fx.pre.isNone then { fx with pre := some { code := 1, addr := s.syllAddr } } else fx

/-- The logical linear index of the core on which a thread runs, in its context: its home's, or as a guest's core has it. -/
def State.linAt (s : State) (n : Nat) (t : Thread) : Nat := if n = t.home then t.lin else s.logical (hedgeOf n) t.ctx n

/-- Who issues the accesses of the issuing thread (R167, R184). -/
def State.source (s : State) : Source :=
  { pkg := s.pkgNo, core := s.core, uid := s.th.uid, ctx := s.th.ctx, sys := s.th.sys,
    lin := s.linAt s.core s.th }

/-- The byte offset of a signed field of w bits. -/
def sOff {w : Nat} (x : BitVec w) : Int := x.toInt

/-- check_target (R75): the exact target must be canonical (address trap), then aligned (align trap). -/
def State.checkTarget (s : State) (t : Int) (fx : Fx) : Fx :=
  let v := ofInt t
  let bad := decide (t < 0) || decide ((2 : Int) ^ 64 ≤ t) || !canonical v
  let fx1 := s.trapFx fx bad 4 0 v
  let fx2 := s.trapFx fx1 (!bad && bits v 1 0 != 0) 5 0 v
  { fx2 with next := some v }

end Sys2Proof.Machine
end

