-- ==== Sys2Proof/Machine/Tasks.lean ====
section
/-! DEFINITION. Messages on their way, the dispatch stage, the creation, start and departure of tasks, dependence
records and run-ahead chains (06, 07 of the spec), as operations shared by instructions and events. -/

namespace Sys2Proof.Machine

/-! ### Packets -/

/-- Put a packet into the network (R208, R210); its identity number is returned. -/
def State.post (s : State) (p : Packet) : Nat × State :=
  (s.nextId, { s with net := s.net ++ [{ p with id := s.nextId }], nextId := s.nextId + 1 })

/-- An access waits on bytes that an engine of another package has claimed: the recall goes there, once for each claim
(R216). -/
def State.recallFar (s : State) (sp : Space) (a n : Nat) : State :=
  let hit (c : FarClaim) : Bool := c.space == sp && !c.recalled && meets c.addr 64 a n
  let ask (c : FarClaim) : Packet :=
    { cls := 3, src := c.src, home := .remote c.src.pkg, space := .remote c.src.pkg, va := c.wire, kind := .recall }
  (s.farClaims.filter hit).foldl (fun s c => (s.post (ask c)).2)
    { s with farClaims := mapIf hit (fun c => { c with recalled := true }) s.farClaims }

/-- Two accesses share their source (R210): one thread, counted across its slot, guest slot and home core and in both modes,
or one engine job. -/
def Source.same (a b : Source) : Bool := a.uid == b.uid && a.job == b.job && a.pkg == b.pkg && a.far == b.far

/-- Whether a packet is a posted store, non-returning atomic or tdec, which fences wait for (R203). -/
def Packet.posted (p : Packet) : Bool :=
  match p.kind with
  | .store _ _ => true
  | .amo _ _ _ _ nr => nr
  | .tdec _ => true
  | _ => false

/-- The scopes of the fences (R202): whether a home lies within scope k of a core. -/
def Home.within (h : Home) (n k : Nat) : Bool :=
  match h with
  | .core m =>
    match k with
    | 0 => m == n
    | 1 => thicketOf m == thicketOf n
    | 2 => hedgeOf m == hedgeOf n
    | 3 => dieOf m == dieOf n
    | _ => true
  | .slice j => decide (4 ≤ k) || (k == 3 && j / 72 == dieOf n)
  | .host => decide (5 ≤ k)
  | .remote _ => decide (5 ≤ k)

/-- A posted access of a thread within a scope is still unacknowledged (R203). -/
def State.unacked (s : State) (uid n k : Nat) : Bool :=
  s.net.any (fun p => p.posted && p.src.uid == uid && p.src.job == 0 && !p.src.far && p.home.within n k)
    || s.replies.any (fun r => r.posted && r.src.uid == uid && r.src.job == 0 && !r.src.far && r.home.within n k)

/-! ### Composing and sending messages (R133-R140) -/

/-- The composition buffer of the thread in a slot: a user pair and a system pair, which stay with the task when it leaves
the slot (R134, R357). -/
def Slot.comp (x : Slot) (p : Nat) : List Word :=
  if swMode x.th.sw then (if p = 0 then x.th.scomp0 else x.th.scomp1) else (if p = 0 then x.th.comp0 else x.th.comp1)

/-- Replace a composition buffer. -/
def Slot.setComp (x : Slot) (p : Nat) (w : List Word) : Slot :=
  if swMode x.th.sw then { x with th := if p = 0 then { x.th with scomp0 := w } else { x.th with scomp1 := w } }
  else { x with th := if p = 0 then { x.th with comp0 := w } else { x.th with comp1 := w } }

/-- The header fields the hardware sets when a message is sent (R138). -/
def sendHeader (h : Word) (p len slot : Nat) : Word :=
  let a := merge h (fld 43 p) 44 43
  let b := merge a (fld 33 len) 36 33
  let c := merge b (fld 15 slot) 16 15
  merge c 0 4 0

/-- Whether a rectangle of logical cores is a legal subgroup of a launch (R114). -/
def Launch.legal (l : Launch) (x y lw lh : Nat) : Bool :=
  decide (l.x0 ≤ x) && decide (l.y0 ≤ y) && (x - l.x0) % 2 ^ lw == 0 && (y - l.y0) % 2 ^ lh == 0
    && decide (x + 2 ^ lw ≤ l.x0 + l.wx) && decide (y + 2 ^ lh ≤ l.y0 + l.wy)

/-- The launch of a thread. -/
def State.launchOf (s : State) (t : Thread) : Option Launch := t.launch.bind (fun id => s.launches.find? (fun l => l.1 == id) |>.map (·.2))

/-- The logical cores that a header names, with the package (R133, R140). -/
def headerCores (h : Word) : List Nat :=
  let x := bits h 50 45
  let y := bits h 56 51
  if h.getLsbD 11 then
    (List.range (2 ^ bits h 7 5)).flatMap (fun j => (List.range (2 ^ bits h 10 8)).map (fun i => linOf (x + i) (y + j)))
  else [linOf x y]

/-- The checks of a header at send (R138, R140, R181): package reachable, multicast legal, hedges mapped. -/
def State.headerOk (s : State) (hg : Nat) (t : Thread) (h : Word) : Bool :=
  let pkg := bits h 63 57
  s.reachable pkg
    && (if h.getLsbD 11 then
          pkg == s.pkgNo && decide (bits h 10 8 ≤ 6) && decide (bits h 7 5 ≤ 6)
            && (match s.launchOf t with
                | none => false
                | some l => l.legal (bits h 50 45) (bits h 56 51) (bits h 10 8) (bits h 7 5))
        else true)
    && (pkg != s.pkgNo || (headerCores h).all (fun c => (s.place hg t.ctx c).isSome))

/-- Messages of a class that the outgoing queue of a core holds (R139): the copies of one multicast are one message. -/
def State.outgoing (s : State) (n p : Nat) : Nat :=
  let q := s.net.filter (fun q => q.queued && q.src.core == n && q.cls == p && !q.src.far)
  (q.filter (fun x => x.mc == 0)).length + ((q.filter (fun x => x.mc != 0)).map (fun x => x.mc)).eraseDups.length

/-- Inject a message: one packet, or one for each core of a multicast (R138, R140). -/
def State.inject (s : State) (src : Source) (slot p : Nat) (words : List Word) : State :=
  match words with
  | [] => s
  | h0 :: pay =>
    let h := sendHeader h0 p pay.length slot
    let pkt : Packet := { cls := p, src := src, kind := .msg (h :: pay), sslot := slot, queued := true,
                          mc := if h.getLsbD 11 then s.nextId else 0 }
    if bits h 63 57 = s.pkgNo then
      (headerCores h).foldl (fun s c =>
        match s.place (hedgeOf src.core) src.ctx c with
        | none => s
        | some m => (s.post { pkt with home := .core m, space := .core m }).2) s
    else (s.post { pkt with home := .remote (bits h 63 57), space := .remote (bits h 63 57) }).2

/-! ### Tasks: creation, start, departure (R107-R112, R121, R22) -/

/-- The threads that a saved core section holds (R374). -/
def CoreImage.threads (c : CoreImage) : List Thread :=
  c.slots.map (fun e => e.2.th) ++ c.rq.map (fun e => e.th) ++ c.park.map (fun e => e.th)

/-- The images whose contents are away from the device: saved and not restored since (R372, R375). -/
def State.saved (s : State) : List Image := s.images.filter (fun i => i.away)

/-- Whether a task of a tag exists at its core (R112): anywhere between creation and texit, pre-empted ones included. -/
def State.tagExists (s : State) (n tag : Nat) : Bool :=
  s.threads.any (fun t => t.tag == tag && t.home == n)
    || s.saved.any (fun i => i.cores.any (fun c => c.threads.any (fun t => t.tag == tag && s.place (hedgeOf n) t.ctx c.lin == some n)))

/-- What a descriptor, record or table entry gives a new task (R109). -/
structure TaskDesc where
  entry : Word
  arg : Word
  budget : Nat
  prio : Nat
  sb : Option Nat := none
  rbase : Nat := 0
  rsize : Nat := 0
  tag : Nat := 0
  deriving DecidableEq, Repr

/-- A task descriptor of four words (R109); from user mode priority 0 runs at 1; reserved fields and tag ignored. -/
def TaskDesc.of (w0 w1 w2 : Word) (user : Bool) : TaskDesc :=
  { entry := w0, arg := w1, budget := bits w2 63 44,
    prio := if user && bits w2 43 42 == 0 then 1 else bits w2 43 42,
    sb := if w2.getLsbD 35 then some (bits w2 34 33) else none, rbase := bits w2 32 24, rsize := bits w2 23 15 }

/-- Create a task at a core: it takes the core's task count as its sequence and enters the run queue (R109). The
core's logical index in the task's context gives w2 (R22). -/
def State.createTask (s : State) (n ctx : Nat) (d : TaskDesc) : Nat × State :=
  let c := s.coreAt n
  let lin := s.logical (hedgeOf n) ctx n
  let th : Thread := { uid := s.nextId, ctx := ctx, prio := d.prio, tag := d.tag, seq := c.taskCount, lin := lin,
                       w2 := fld 63 1 ||| fld 0 lin, pc := d.entry, home := n, rbase := d.rbase, rsize := d.rsize }
  let e : RqEntry := { th := th, sb := d.sb, prio := d.prio, budget := d.budget, arg := d.arg, waited := c.cycles }
  (c.taskCount.toNat, { (s.setCore n { c with rq := c.rq ++ [e], taskCount := c.taskCount + 1 }) with nextId := s.nextId + 1 })

/-- What the dispatch stage does with a message of a tag (R112). -/
inductive Disp where
  | direct
  | discard
  | hold
  | create
  deriving DecidableEq, Repr

/-- The decision of the dispatch stage for a message, with the messages older than it (R112). A held message whose
TAGATTR.v is clear when it is examined again is discarded, as the pseudocode has it (DESIGN CHOICE, log 66: the prose says
that a held message is never discarded). -/
def State.dispatch (s : State) (n : Nat) (m : RxMsg) : Disp :=
  let c := s.coreAt n
  let t := bits m.hdr 42 37
  let e := c.tagattr.get 0 t
  if t = 0 then .direct
  else if !e.getLsbD 63 then .discard
  else if (c.rx0 ++ c.rx1).any (fun o => o.owner == .held && decide (o.id < m.id) && bits o.hdr 42 37 == t) then .hold
  else if !c.tagen.getLsbD t || s.stoppedAt n (bits e 15 0) then .hold
  else if !e.getLsbD 62 && s.tagExists n t then .hold
  else if !c.rqFree || !c.ready.isEmpty then .hold
  else .create

/-- Perform the decision for a message that stands in input queue p (R112). -/
def State.dispatchAt (s : State) (n p id : Nat) : State :=
  let c := s.coreAt n
  match (c.rx p).find? (fun m => m.id == id) with
  | none => s
  | some m =>
    match s.dispatch n m with
    | .direct => s.setCore n (c.setRx p (mapIf (fun x => x.id == id) (fun x => { x with owner := .direct }) (c.rx p)))
    | .discard => s.setCore n ({ c with tagdrop := Nat.min (c.tagdrop + 1) 0xFFFFFFFF }.setRx p ((c.rx p).filter (fun x => x.id != id)))
    | .hold => s
    | .create =>
      let t := bits m.hdr 42 37
      let e := c.tagattr.get 0 t
      let b := bits m.hdr 32 17
      let s1 := s.setCore n (c.setRx p (mapIf (fun x => x.id == id) (fun x => { x with owner := .task s.nextId }) (c.rx p)))
      let s2 := (s1.createTask n (bits e 15 0)
        { entry := c.tagpc.get 0 t, arg := m.hdr, budget := if b = 0xFFFF then noBudget else b, prio := bits e 61 60,
          rbase := bits e 51 43, rsize := bits e 42 34, tag := t }).2
      s2.modUid s.nextId (fun th => { th with lateMsg := m.hdr.getLsbD 4 })

/-- TAGPND, computed (R111): bit t while a message of tag t is held and TAGEN bit t is 0. -/
def Core.tagpnd (c : Core) : Word :=
  (List.range 64).foldl (fun w t => if t != 0 && !c.tagen.getLsbD t
    && (c.rx0 ++ c.rx1).any (fun m => m.owner == .held && bits m.hdr 42 37 == t) then w ||| fld t 1 else w) 0

/-- An entry of the run queue with the rises that are due (R122): each 2^20 cycles of waiting at priority 2 or 3 lift it
one level, and the waiting time starts again. A task that was inserted ahead of its priority stands ahead of the tasks of
the level it rises to as well (DESIGN CHOICE, log 58). -/
def RqEntry.risen (now : Nat) (e : RqEntry) : RqEntry :=
  let up (e : RqEntry) : RqEntry :=
    let w := e.aged + (now - e.waited)
    if decide (2 ≤ e.prio) && decide (2 ^ 20 ≤ w) then { e with prio := e.prio - 1, waited := now, aged := w - 2 ^ 20 } else e
  up (up e)

/-- The run queue with every rise that is due. -/
def Core.risen (c : Core) : Core := { c with rq := c.rq.map (RqEntry.risen c.cycles) }

/-- RQSTAT, computed (R121, R122). -/
def Core.rqstat (c0 : Core) : Word :=
  let c := c0.risen
  fld 35 (if c.ready.isEmpty then 0 else 1) ||| fld 28 c.rq.length ||| fld 21 (c.rqCount 3) ||| fld 14 (c.rqCount 2)
    ||| fld 7 (c.rqCount 1) ||| fld 0 (c.rqCount 0)

/-- A thread that holds a bound workspace goes into its home's run queue at its own priority, whatever level aging had
given it there (DESIGN CHOICE, log 58), and keeps the workspace in force (R108, R121, R146). -/
def State.requeue (s : State) (t : Thread) (ahead : Bool) : State :=
  s.modCore t.home (fun c => c.rqInsert { th := t, fresh := false, ahead := ahead, prio := t.prio,
                                          budget := c.budget t.homeWp, waited := c.cycles })

/-- The placement map that a hedge keeps for a running context (R186). -/
def State.cachePmap (s : State) (h ctx : Nat) : State :=
  if (s.hedge h).pmaps.has ctx || decide (ctx ≥ bits s.pkg.ctxbase 63 48) then s
  else if !(s.tableWord (s.descAddr ctx 2)).getLsbD 0 then s
  else s.modHedge h (fun x => { x with pmaps := x.pmaps.set ctx ((List.range 256).map (s.pmapEntry h ctx)) })

/-- A slot begins a fresh task in a workspace allotted to it (R22), or a run-ahead child with its snapshot (R155). -/
def State.fillSlot (s : State) (n k wp : Nat) (e : RqEntry) : State :=
  let c := s.coreAt n
  let b := wsBase wp
  let tmsg := (s.hedge (hedgeOf n)).latecfg.getLsbD 3
  let th := { e.th with wp := wp, homeWp := wp, prio := e.prio, 
                        deadline := e.th.deadline <|> (if e.th.lateMsg && tmsg then some 1 else none) }
  let regs := match e.regs with
    | some m => m
    | none => ((Memory.setNum [] 8 8 e.arg.toNat).setNum 16 8 e.th.w2.toNat).setNum 24 8 k
  let l1 := (c.lmem.clear (b + 8) 840).replace (b + 8) 760 (regs.map (fun x => (b + x.1, x.2)))
  let l2 := (l1.setNum (b + 848) 8 e.budget).setNum (b + 856) 8 th.tid.toNat
  let x : Slot := { c.slotAt k with
    st := .running, th := th, hold := if s.inOrdered th then some (.commit, {}) else none, pend := [], stalled := false }
  (s.setCore n ({ c with lmem := l2, dirty := addDirty c.dirty (b + 8) 856 }.setSlot k x)).heal 0 n (b + 8) 856

/-- A slot takes an entry of the run queue (R22, R20, R108, R121): a fresh task gets the lowest free workspace and the
values of task start; another continues from its workspace, with the group that a remote read brought home still to be
performed (R128). -/
def State.startTask (s : State) (n k : Nat) (e : RqEntry) : State :=
  let c := s.coreAt n
  let s1 := s.setCore n { c with rq := c.rq.filter (fun x => x.th.uid != e.th.uid) }
  if e.fresh then
    match c.lowFree with
    | none => s
    | some wp => ((s1.modCore n (fun c => c.setFree wp false)).fillSlot n k wp e).cachePmap (hedgeOf n) e.th.ctx
  else
    (s1.modCore n (fun c => c.setSlot k { c.slotAt k with
      st := .running, th := c.loadPcSw e.th, hold := e.held.map (fun h => (.back, h.1)), pend := [], stalled := false })).cachePmap
        (hedgeOf n) e.th.ctx

/-- yield (R146): behind the tasks of equal priority and budget; nothing if the run queue is full. -/
def State.yield (s : State) (n k : Nat) : State :=
  let t := s.thAt n k
  if (s.coreAt n).rqFree then ((s.savePcSw n t).requeue t false).freeSlot n k else s

/-- A guest goes home (R129): its pending register writes are performed (R19), PC, SW and w1..w15 go into the home
workspace, the guest's workspace is given back, and the thread enters its home's run queue ahead of the tasks of its
priority, or behind them if it yields. -/
def State.guestHome (s0 : State) (n k : Nat) (ahead : Bool) : State :=
  let s := s0.flushPend n k
  let t := s.thAt n k
  let t1 := { t with wp := t.homeWp }
  let regs := (List.range 15).map (fun i => (s.coreAt n).reg t.wp (i + 1))
  let s1 := s.poke t.home (wsBase t.homeWp + 8) (regs.flatMap (fun w => toBytes 8 w.toNat))
  let s2 := (s1.savePcSw t.home t1).requeue t1 ahead
  (s2.modCore n (fun c => c.setFree t.wp true)).leaveSlot n k

/-- A decrement of a dependence record at its home core (R116): the record fires when its count reaches zero. What the link
bytes hold while rdy is 1 is the hardware's own: the ready list stands in the core, and the bytes stay (DESIGN CHOICE, log 75). -/
def State.decrement (s : State) (n off amount ctx : Nat) (user : Bool) : State :=
  let c := s.coreAt n
  let w := c.word off
  let cnt := bits w 31 0
  let w1 := if amount ≤ cnt then merge w (fld 0 (cnt - amount)) 31 0 else setBit (merge w 0 31 0) 62 true
  if amount = 0 then s
  else if 0 < cnt && decide (cnt ≤ amount) then
    let w2 := setBit w1 63 true
    if c.rqFree then
      let s1 := s.pokeW n off w2
      (s1.createTask n ctx (TaskDesc.of (c.word (off + 8)) (c.word (off + 16)) (c.word (off + 24)) user)).2
    else
      (s.pokeW n off (setBit w2 61 true)).modCore n (fun c => { c with ready := c.ready ++ [⟨off, ctx, user⟩] })
  else s.pokeW n off w1

/-- The first record of the ready list enters the run queue (R116). -/
def State.readyInsert (s : State) (n : Nat) : State :=
  let c := s.coreAt n
  match c.ready with
  | [] => s
  | r :: rest =>
    if !c.rqFree || s.stoppedAt n r.ctx then s else
      let s1 := (s.setCore n { c with ready := rest }).pokeW n r.off (setBit (c.word r.off) 61 false)
      (s1.createTask n r.ctx (TaskDesc.of (c.word (r.off + 8)) (c.word (r.off + 16)) (c.word (r.off + 24)) r.user)).2

/-! ### Writes of a thread -/

/-- Write destination d of a thread's slot: a register of its workspace, or a word appended to a message (R15). -/
def State.wrD (s : State) (n k d : Nat) (v : Word) : State :=
  if d < 28 then s.setReg n (s.thAt n k).wp d v
  else s.modSlot n k (fun x => x.setComp (d - 28) (x.comp (d - 28) ++ [v]))

/-! ### Speculative storage (R126, R223) -/

/-- Whether a byte mask of a line of storage is private storage of a thread, which is not buffered (R77, R109). -/
def Thread.privLine (t : Thread) (sp : Space) (line : Nat) : Bool :=
  match sp with
  | .core n => t.isPrivate n line
  | _ => false

/-- The thread's stores are held back: ordered mode or a running-ahead iteration, in user mode (R77). -/
def Thread.spec (t : Thread) : Bool := (swOrd t.sw || swRa t.sw) && !t.sys

/-- Whether a held atomic of the buffer targets a line (R222). -/
def BufEntry.amoAt (e : BufEntry) (sp : Space) (line : Nat) : Bool :=
  match e with
  | .amo p => p.space == sp && p.loc / 64 * 64 == line
  | .line .. => false

/-- The line positions of a thread's buffer in use (R107). -/
def Thread.bufUsed (t : Thread) : Nat := t.buf.length

/-- Whether a store to the line finds its position in the buffer: the line's entry, with no atomic on it since. -/
def bufFinds : List BufEntry → Space → Nat → Bool
  | [], _, _ => false
  | .line s n .. :: r, sp, ln => if s == sp && n == ln && !r.any (fun e => e.amoAt sp ln) then true else bufFinds r sp ln
  | .amo _ :: r, sp, ln => bufFinds r sp ln

/-- Lay bytes over a line entry. -/
def layOver (old new : Vec) (m : BitVec 64) : Vec := (old &&& ~~~wideMask m) ||| (new &&& wideMask m)

/-- Put a store into the buffer (R126, R223): into its line's entry, or as a new line at the end. va is its address, none
for a local store; cnt is 1 for one that a counter counts. -/
def bufPut : List BufEntry → Space → Nat → Vec → BitVec 64 → Option Word → Nat → Nat → List BufEntry
  | [], sp, ln, d, m, va, pol, cnt => [.line sp ln d m pol cnt [(va, d, m)]]
  | .line s n d0 m0 p0 c0 ps :: r, sp, ln, d, m, va, pol, cnt =>
    if s == sp && n == ln && !r.any (fun e => e.amoAt sp ln) then
      .line s n (layOver d0 d m) (m0 ||| m) p0 (c0 + cnt) (ps ++ [(va, d, m)]) :: r
    else .line s n d0 m0 p0 c0 ps :: bufPut r sp ln d m va pol cnt
  | .amo p :: r, sp, ln, d, m, va, pol, cnt => .amo p :: bufPut r sp ln d m va pol cnt

/-- Overlay a thread's own buffered bytes on a line it reads (R126, R223). -/
def bufOver : List BufEntry → Space → Nat → Vec → Vec
  | [], _, _, v => v
  | .line s n d m .. :: r, sp, ln, v => bufOver r sp ln (if s == sp && n == ln then layOver v d m else v)
  | .amo _ :: r, sp, ln, v => bufOver r sp ln v

/-- The bytes of a mask over a line of local memory that a store changes (R14). -/
def State.keptBytes (s : State) (n line : Nat) (m : BitVec 64) : BitVec 64 :=
  (List.range 64).foldl (fun acc i => if m.getLsbD i && !ignoresStore (s.bound n) (line + i) then acc ||| byteMask i 1 else acc) 0

/-- The 64-byte line of local memory, as a load under R14 sees it, with the thread's buffered bytes over it. -/
def State.localLine (s : State) (n : Nat) (t : Thread) (line : Nat) : Vec :=
  let v := BitVec.ofNat 512 (ofBytes (s.loadL n line 64))
  if t.buf.isEmpty || !t.spec then v
  else layOver v (bufOver t.buf (.core n) line v) (s.keptBytes n line (BitVec.allOnes 64))

/-- Bytes of local memory as a thread's load sees them (R76, R77, R223); a handler sees nothing of a buffer (R352). -/
def State.localNum (s : State) (n : Nat) (t : Thread) (a len : Nat) : Nat :=
  if t.buf.isEmpty || !t.spec || t.isPrivate n a then ofBytes (s.loadL n a len)
  else vecNum (s.localLine n t (a / 64 * 64)) (a % 64) len

end Sys2Proof.Machine
end

