-- ==== Sys2Proof/Machine/JobOps.lean ====
section
/-! DEFINITION. Jobs and their queues (13 of the spec): submission, status words, cancellation and completion. -/

namespace Sys2Proof.Machine

/-- The physical queue of an engine kind at a core: thicket, 512 + hedge, 768 + die (R241, by position, log 23). -/
def queueAt (kind n : Nat) : Nat :=
  match kind with
  | 0 | 1 => thicketOf n
  | 2 => 512 + hedgeOf n
  | _ => 768 + dieOf n

/-- The jobs a queue holds at most (R241). -/
def queueCap (pq : Nat) : Nat := if pq < 768 then 32 else 64

/-- A job that holds a queue entry (R244). -/
def Job.holds (j : Job) : Bool :=
  match j.st with
  | .held | .queued | .running => true
  | _ => false

/-- The number of a state in the status word (R245). -/
def JobSt.num : JobSt → Nat
  | .held => 1
  | .queued => 2
  | .running => 3
  | .done => 4
  | .late => 5
  | .fault => 6
  | .error => 7
  | .cancelled => 8

/-- Entries of a queue in use (R243). -/
def State.queueUsed (s : State) (pq : Nat) : Nat := (s.jobs.filter (fun j => j.pq == pq && j.holds)).length

/-- Whether a queue is full (R251). -/
def State.queueFull (s : State) (pq : Nat) : Bool := decide (queueCap pq ≤ s.queueUsed pq)

/-- A job by identifier and context (R244). -/
def State.jobOf (s : State) (id ctx : Nat) : Option Job := s.jobs.find? (fun j => j.id == id && j.ctx == ctx)

/-- Change the job with an identifier in a context. -/
def State.modJob (s : State) (id ctx : Nat) (f : Job → Job) : State :=
  { s with jobs := mapIf (fun j => j.id == id && j.ctx == ctx) f s.jobs }

/-- The status word of a job (R246). -/
def Job.status (j : Job) : Word :=
  fld 60 j.st.num ||| fld 59 (boolWord j.rep).toNat ||| fld 48 (if j.st == .fault then j.code else 0)
    ||| fld 47 (boolWord j.fl.nv).toNat ||| fld 46 (boolWord j.fl.of).toNat ||| fld 45 (boolWord j.fl.uf).toNat
    ||| fld 44 (boolWord j.fl.nx).toNat ||| fld 32 (if j.st == .fault && j.code != 8 then j.word else 0) ||| fld 0 j.id

/-- The next sequence number of a queue, skipping those of jobs that hold an entry (R244). -/
def nextSeq (taken : List Nat) : Nat → Nat → Nat
  | 0, x => x % 65535 + 1
  | fuel + 1, x => let y := x % 65535 + 1
    if taken.contains y then nextSeq taken fuel y else y

/-- Whether a node is malformed (R248): a reserved field, nsucc above 7, or a record on an unreachable package. -/
def State.badNode (s : State) (node : List Word) : Bool :=
  let w0 := node.getD 0 0
  let ns := bits w0 23 20
  bits w0 40 32 != 0 || bits w0 19 0 != 0 || decide (7 < ns)
    || (List.range 7).any (fun i =>
      let w := node.getD (i + 1) 0
      if ns ≤ i then w != 0
      else bits w 62 36 != 0 || (if w.getLsbD 63 then bits w 35 32 != 0
        else bits w 5 0 != 0 || !s.reachable (bits w 35 29)))

/-- Keep the records of the 256 jobs of a queue that ended most recently (R244); the list ends with the latest. -/
def trimJobs (jobs : List Job) (pq : Nat) : List Job :=
  let extra := (jobs.filter (fun j => j.pq == pq && !j.holds)).length - 256
  match extra with
  | 0 => jobs
  | n => let drop := ((jobs.filter (fun j => j.pq == pq && !j.holds)).take n).map (fun j => j.order)
    jobs.filter (fun j => j.holds || j.pq != pq || !drop.contains j.order)

/-- A notice that a job causes to port p of a core (R137); one of an ordered launch's job waits for the next round with
the job's submission number and the row it tells of (R227). -/
def State.noticeOf (s : State) (j : Job) (row n p : Nat) (w : Word) : State :=
  match s.ords.find? (fun o => o.2.tasks.any (fun t => t.uid == j.uid)) with
  | some o => { s with ords := s.ords.set o.1 { o.2 with notices := o.2.notices ++ [(j.order, row, n, p, w)] } }
  | none => s.notify n p w

/-- A completion notice or signal to n2 of the submitting core (R247, R227). -/
def State.jobNotice (s : State) (j : Job) (w : Word) : State := s.noticeOf j 0 j.core 2 w

/-- Release the pins of a job on the expert region table (R321). -/
def State.unpin (s : State) (j : Job) : State :=
  { s with regions := j.pins.foldl (fun r p => r.set p.1 { (r.get {} p.1) with pins := (r.get {} p.1).pins - 1 }) s.regions }

/-- A job reaches a terminal state (R219, R245-R249): claims, locks and pins are released, the notice and the
decrements of its successors are sent. -/
def State.endJob (s : State) (j0 : Job) (st : JobSt) : State :=
  let j := { j0 with st := st, pending := none, finished := true, claims := [], want := [], locks := [], pins := [], out := none, left := [],
                     stack := [], gate := none }
  let s1 := s.unpin j0
  let s2 := { s1 with jobs := trimJobs (s1.jobs.filter (fun x => !(x.id == j.id && x.ctx == j.ctx)) ++ [j]) j.pq }
  let s3 := if j.ev then s2.jobNotice j ({ j with rep := false, word := 0 }.status) else s2
  if st == .cancelled || (st == .fault && j.code == 8) then s3
  else j.succ.foldl (fun s w =>
    if w.getLsbD 63 then { s with decs := s.decs ++ [(bits w 31 0, j.ctx)] }
    else
      let pk := bits w 35 29
      let src : Source := { pkg := s.pkgNo, core := j.core, lin := j.lin, uid := j.uid, job := j.id, ctx := j.ctx, sys := j.sys }
      let p : Packet := { src := src, va := w, loc := bits w 16 0, kind := .tdec 1 }
      if pk = s.pkgNo then
        match s.place (hedgeOf j.core) j.ctx (linOf (bits w 22 17) (bits w 28 23)) with
        | none => s
        | some m => (s.post { p with home := .core m, space := .core m }).2
      else (s.post { p with home := .remote pk, space := .remote pk }).2) s3

/-- Submit a job (R244, R248, R251): it takes an identifier, whose record of an ended job is dropped; a bad node ends at
once; a program without an end word ends in fault 7 when it becomes eligible. -/
def State.submit (s : State) (src : Source) (kind : Nat) (prog : List EWord) (ended : Bool) (node : List Word) : Nat × State :=
  let pq := queueAt kind src.core
  let taken := (s.jobs.filter (fun j => j.pq == pq && j.holds)).map (fun j => j.id % 65536)
  let seq := nextSeq taken 64 (s.jobSeq.get 0 pq)
  let id := 65536 * queueAt kind src.lin + seq
  let w0 := node.getD 0 0
  let base : Job := { id := id, pq := pq, kind := kind, ctx := src.ctx, sys := src.sys, uid := src.uid, core := src.core,
                      lin := src.lin, order := s.nextId, prog := prog, ended := ended }
  let j : Job :=
    if node.isEmpty then base
    else { base with
      budget := bits w0 63 44
      budget0 := bits w0 63 44
      prio := if !src.sys && bits w0 43 42 == 0 then 1 else bits w0 43 42
      ev := w0.getLsbD 41
      npred := bits w0 31 24
      succ := ((node.drop 1).take 7).take (bits w0 23 20)
      params := (List.range 8).map (fun i => (i, node.getD (8 + i) 0))
      st := if bits w0 31 24 != 0 then .held else .queued }
  let s1 : State := { s with
    jobs := s.jobs.filter (fun x => x.holds || x.id != id || x.ctx != src.ctx)
    jobSeq := s.jobSeq.set pq seq
    nextId := s.nextId + 1 }
  let put (x : Job) : State := { s1 with jobs := s1.jobs ++ [x] }
  if !node.isEmpty && s.badNode node then (id, (put { j with code := 8 }).endJob { j with code := 8 } .fault)
  else if !ended then (id, put { j with pending := some 6, code := 7, word := prog.length - 1, finished := true })
  else (id, put j)

/-- jcancel (R255): a held or queued job of the context is withdrawn. -/
def State.cancelJob (s : State) (id ctx : Nat) : Bool × State :=
  match s.jobs.find? (fun j => j.id == id && j.ctx == ctx) with
  | none => (false, s)
  | some j =>
    if j.st == .held || j.st == .queued then (true, s.endJob j .cancelled) else (false, s)

/-- A decrement of a held job (R249). -/
def State.jobDec (s : State) (id ctx : Nat) : State :=
  s.modJob id ctx (fun j => if j.st == .held && decide (0 < j.npred) then
    { j with npred := j.npred - 1, st := if j.npred = 1 then .queued else .held } else j)

/-- The status register of a queue (R243). -/
def State.jqstat (s : State) (pq late : Nat) : Word :=
  fld 32 late ||| fld 8 (s.jobs.filter (fun j => j.pq == pq && j.st == .held)).length ||| fld 0 (s.queueUsed pq)

end Sys2Proof.Machine
end

