-- ==== Sys2Proof/Machine/CsrOps.lean ====
section
/-! DEFINITION. Reading and writing control and status registers (R79-R82 and the entry of each register), and the
operations that a write performs at once. -/

namespace Sys2Proof.Machine

/-! ### Which registers exist and who may use them (R80) -/

/-- A number that an entry assigns (R80). -/
def csrKnown (n : Nat) : Bool :=
  decide (n ≤ 2) || (decide (0x20 ≤ n) && decide (n ≤ 0x25)) || (decide (0x27 ≤ n) && decide (n ≤ 0x2A))
    || (decide (0x40 ≤ n) && decide (n ≤ 0xCF)) || (decide (0x110 ≤ n) && decide (n ≤ 0x116))
    || (decide (0x180 ≤ n) && decide (n ≤ 0x184)) || (decide (0x200 ≤ n) && decide (n ≤ 0x20E))
    || (decide (0x210 ≤ n) && decide (n ≤ 0x218)) || (decide (0x220 ≤ n) && decide (n ≤ 0x237))
    || (decide (0x240 ≤ n) && decide (n ≤ 0x2BF)) || (decide (0x2C0 ≤ n) && decide (n ≤ 0x2C4))
    || (decide (0x2C8 ≤ n) && decide (n ≤ 0x2CF))

/-- A register that csrr may read in user mode: its entry makes it, or a field of it, readable in both modes (R80). -/
def csrUserRead (n : Nat) : Bool :=
  decide (n ≤ 2) || n == 0x20 || n == 0x21 || n == 0x25
    || n == 0x110 || n == 0x111 || n == 0x112 || n == 0x114 || n == 0x116
    || (decide (0x180 ≤ n) && decide (n ≤ 0x184)) || n == 0x201 || n == 0x203 || n == 0x204 || n == 0x207
    || (decide (0x220 ≤ n) && decide (n ≤ 0x237)) || (decide (0x240 ≤ n) && decide (n ≤ 0x2BF))

/-! ### Measurement (R423) -/

/-- The bytes of a measured image. -/
def Measured.bytes (m : Measured) : List Byte :=
  match m with
  | .firmware n => Config.firmware n
  | .routines n => Config.routines n
  | .record cal adv peers => Config.recordImage cal ((List.range 16).map (fun p => adv.get 0 p)) ((List.range 128).map (fun j => peers.get 0 j))
  | .replaced n a => Config.newImage n a

/-- MEAS0..7 as one number, byte 0 of the digest lowest (R423): the digests chained from 64 zero bytes. -/
def measDigest (ms : List Measured) : Vec :=
  ms.foldl (fun d m => Config.sha512 (toBytes 64 d.toNat ++ m.bytes)) 0

/-- ATTSIG0..7 as one number: the signature of nonce, MEAS and INCARN as eight bytes (R423). -/
def quoteSig (q : List Word × List Measured × Nat) : Vec :=
  Config.sign (q.1.flatMap (fun w => toBytes 8 w.toNat) ++ toBytes 64 (measDigest q.2.1).toNat ++ toBytes 8 q.2.2)

/-! ### Peer reset (R412) -/

/-- Whether the wire words of a packet carry a message (the model's own payload layout, log 24). -/
def wireIsMsg (w : List Word) : Bool := decide (2 < w.length) && bits (w.getD 1 0) 47 44 == 0 && bits (w.getD 2 0) 3 0 == 0

/-- What a lost access answers to its source (R369, R412): a data error; of a lost prefetch the source hears only that it is
over (R205). -/
def Packet.lost (p : Packet) : Option Reply :=
  let r : Reply := { id := p.id, src := p.src, posted := p.posted, sc := p.sc, cnt := p.cnt, va := p.va,
                     acc := (match p.kind with | .store _ _ => 2 | .load _ => 1 | _ => 3), kind := .dataErr }
  match p.kind with
  | .load _ | .amo .. | .store _ _ | .tdec _ | .waitw _ | .enq _ | .deq => some r
  | .pf => some { r with kind := .ack }
  | _ => none

/-- Add to PEERj.drops, saturating (R410). -/
def State.peerDrop (s : State) (j k : Nat) : State :=
  let w := s.pkg.peers.get 0 j
  let v := merge w (fld 0 (Nat.min 0xFFFFFFFF (bits w 31 0 + k))) 31 0
  s.modPkg (fun p => { p with peers := p.peers.set j v })

/-- Peer reset for package j (R412): sequences restart, traffic is discarded, outstanding accesses fail, translations
of j are dropped and awaited acknowledgements count as received, an error record is made. A message that has not yet reached
its egress queue is none of what is discarded. -/
def State.peerReset (s : State) (j : Nat) : State :=
  let mine (p : Packet) : Bool := p.space == .remote j && (match p.kind with | .msg _ => false | _ => true)
  let gone := s.net.filter mine
  let msgs := ([2 * j, 2 * j + 1].flatMap (fun k => ((s.pairs.get {} k).copies.map (fun c => c.2.1))
        ++ ((s.pairs.get {} k).heldPk.map (fun c => c.2.2)))).countP wireIsMsg
    + ((s.egress.filter (fun e => e.dst == j && !e.relay && e.seq.isNone)).map (fun e => e.words)).countP wireIsMsg
  let s1 : State := { s with
    net := s.net.filter (fun p => !mine p)
    replies := s.replies ++ (gone.filter (fun p => p.src.job == 0)).filterMap Packet.lost
    egress := s.egress.filter (fun e => e.relay || e.dst != j)
    pairs := (s.pairs.del (2 * j)).del (2 * j + 1)
    jobs := s.jobs.map (fun x => if x.st == .running && (gone.any (fun p => p.src.job == x.id && p.src.ctx == x.ctx)
        || (x.cl.lists.drop x.cl.list).any (fun l => l.hasGrp && l.grp.any (fun m => m % 128 == j)))
      then { x with pending := some 7, finished := true, held := x.held.filter (fun c => c.pkg != j) }
      else { x with held := x.held.filter (fun c => c.pkg != j) })
    farClaims := s.farClaims.filter (fun c => c.src.pkg != j)
    dies := s.dies.map (fun d => (d.1, { d.2 with rtc := d.2.rtc.filter (fun e => e.pkg != j) }))
    pkg := { s.pkg with sdWait := s.pkg.sdWait.filter (fun x => x != j), sdHeld := s.pkg.sdHeld.filter (fun x => x.1 != j) } }
  (s1.peerDrop j msgs).postError (errRecord 5 0 j 0 0 0)

/-! ### Small effects of writes -/

/-- The sentinel of a mailbox entry: score 0xFF80_0000, expert 0xFFFF, all else zero (R303). -/
def sentinel : BitVec 128 := 0xFFFFFF800000

/-- Clear mailbox rows (R159, R302): entries to sentinels when the region is in force, status words to a value. -/
def Core.clearRows (c : Core) (rows : List Nat) (status : Word) : Core :=
  rows.foldl (fun c r =>
    let c1 := { c with rows := c.rows.set r status }
    if c.mben then c1.poke (16384 * c.mbbase + 256 * r) ((List.range 16).flatMap (fun _ => toBytes 16 sentinel.toNat)) else c1) c

/-- A write of SCCFG (R169). -/
def Core.writeSccfg (c : Core) (v : Word) : Core :=
  let sb := bits v 16 8
  let n1 := Nat.min 256 (bits v 25 17)
  let n := if sb + n1 > 512 then 512 - sb else n1
  if n = c.nslot && sb = c.sbase then c
  else { c with nslot := n, sbase := sb, scptr := 0, tags := c.tags.map (fun e => (e.1, setBit e.2 7 false)) }

/-- A write of MBCFG (R302). -/
def Core.writeMbcfg (c : Core) (v : Word) : Core :=
  let d := bits v 4 0
  let depth := if d = 0 ∨ 16 < d then c.mbdepth else d
  let c1 := { c with mben := v.getLsbD 63, mbbase := bits v 10 8, mbdepth := depth }
  if c1.mben = c.mben && c1.mbbase = c.mbbase && c1.mbdepth = c.mbdepth then c else c1.clearRows (List.range 64) 0

/-- A write of LLCPART (R178): ways change hands only after their sectors are written back and emptied. -/
def State.writeLlcpart (s : State) (v : Word) : State :=
  let rw := bits v 11 8
  let ew := bits v 7 4
  if 8 < rw ∨ 12 < rw + ew then s
  else
    let w := fld 8 rw ||| fld 4 ew
    let s1 := if w = s.pkg.llcpart then s else (s.llc.map (fun e => e.1)).foldl (fun s k => s.evictSector k) s
    s1.modPkg (fun p => { p with llcpart := w })

/-- The state field of OPTPORTp (R393). -/
def setSt (w : Word) (st : Nat) : Word := merge w (fld 61 st) 62 61

/-- A write of CALCFG (R388): with en = 0 every port leaves service; with en newly 1 ports with svc acquire. A lost port stays
lost until its svc is cleared (R392). -/
def State.writeCalcfg (s : State) (v : Word) : State :=
  let old := s.pkg.calcfg
  let lgn := bits v 10 8
  let pk := bits v 6 0
  let keep := old.getLsbD 63
  let lgn' := if keep then bits old 10 8 else lgn
  let pk' := if keep then bits old 6 0 else pk
  let en := v.getLsbD 63 && (keep || (decide (lgn ≠ 0) && decide (pk < 2 ^ lgn)))
  let w := fld 63 (boolWord en).toNat ||| fld 8 lgn' ||| fld 0 pk'
  let s1 := s.modPkg (fun p => { p with
    calcfg := w
    optport := p.optport.map (fun e => (e.1, if bits e.2 62 61 = 3 && e.2.getLsbD 63 then e.2
      else if !en then setSt e.2 0
      else if !keep && e.2.getLsbD 63 then setSt e.2 1 else e.2)) })
  if en then (if keep then s1 else { s1 with ports := [] }) else { s1 with ports := [], calSlot := none }

/-- A write of OPTPORTp (R393). -/
def State.writeOptport (s : State) (p : Nat) (v : Word) : State :=
  let old := s.pkg.optport.get 0 p
  let svc := v.getLsbD 63
  let st := bits old 62 61
  let st' := if svc && !old.getLsbD 63 && s.pkg.calcfg.getLsbD 63 then 1
    else if !svc && old.getLsbD 63 && st != 2 then 0 else st
  let w := fld 63 (boolWord svc).toNat ||| fld 61 st' ||| fld 36 (bits v 47 36) ||| fld 0 (bits v 31 0)
  let s1 := s.modPkg (fun q => { q with optport := q.optport.set p w })
  if st' = 1 && st != 1 then { s1 with ports := s1.ports.set p {} } else s1

/-- System software clears PEERj.v (R410, R412): peer reset, the epoch advances. -/
def State.clearPeer (s : State) (j : Nat) : State :=
  let s1 := s.peerReset j
  s1.modPkg (fun p => let w := p.peers.get 0 j
    { p with peers := p.peers.set j (merge (setBit w 63 false) (fld 48 ((bits w 55 48 + 1) % 256)) 55 48) })

/-- A write of PEERj (R410): v = 0 clears it, v = 1 is ignored, drops is set. -/
def State.writePeer (s : State) (j : Nat) (v : Word) : State :=
  let s1 := if v.getLsbD 63 then s else s.clearPeer j
  s1.modPkg (fun p => { p with peers := p.peers.set j (merge (p.peers.get 0 j) v 31 0) })

/-- A write of SDCTL (R187): the reserved size with kind 0 starts nothing. -/
def sdctlWrite (v : Word) : Word :=
  if v.getLsbD 63 && bits v 62 61 == 0 && bits v 60 59 == 3 then v &&& 0x7C0000000000FFFF else v &&& 0xFC0000000000FFFF

/-- A write of PRECTL (R371): op 3 starts nothing; res is read-only. -/
def prectlWrite (old v : Word) : Word :=
  (v &&& (if bits v 62 61 == 3 then 0x700000000000FFFF else 0xF00000000000FFFF)) ||| (old &&& 0x0F00000000000000)

/-- A write of SVCCTL (R425): ops 6 and 7 start nothing; res is read-only. -/
def svcctlWrite (old v : Word) : Word :=
  (v &&& (if 6 ≤ bits v 62 60 then 0x70000000000000FF else 0xF0000000000000FF)) ||| (old &&& 0x0F00000000000000)

/-- CALSTAT, computed (R393). -/
def State.calstat (s : State) : Word :=
  let ps := (List.range 16).map (fun p => s.pkg.optport.get 0 p)
  let inSvc := ps.any (fun w => bits w 62 61 == 2)
  let wanted := ps.filter (fun w => w.getLsbD 63)
  let st := if !s.pkg.calcfg.getLsbD 63 then 0 else if inSvc then 2
    else if !wanted.isEmpty && wanted.all (fun w => bits w 62 61 == 3) then 3 else if wanted.isEmpty then 0 else 1
  let mask := (List.range 16).foldl (fun m p => if bits (s.pkg.optport.get 0 p) 62 61 == 2 then m + 2 ^ p else m) 0
  fld 62 st ||| fld 32 ((s.calT - s.calBase) / 8 % 65536) ||| fld 16 mask ||| fld 0 (if st < 2 then 0 else s.calSlot.getD 0)

/-- The launches in force (R119, R220): from their launch instruction until their join counter reaches zero, those that
pre-emption has saved included. -/
def State.inForce (s : State) : List Launch :=
  ((s.launches ++ s.saved.flatMap (fun i => i.launches)).map (fun l => l.2)).filter (fun l => decide (0 < l.counter))

/-- ORDCFG (R220): the ordered launches in force, and lgq. -/
def State.ordcfg (s : State) : Word := fld 8 (s.inForce.filter (fun l => l.ord)).length ||| fld 0 s.pkg.lgq

/-! ### Reading and writing by number -/

/-- The value of a CSR as core n, slot k reads it (R80-R82). -/
def State.csrRead (s : State) (n k num : Nat) : Word :=
  let x := s.slotAt n k
  let c := s.coreAt n
  let h := hedgeOf n
  let hd := s.hedge h
  let d := s.die (dieOf n)
  let p := s.pkg
  if num = 0 then x.th.sw
  else if num = 1 then fld 10 x.th.wp
  else if num = 2 then fld 10 x.swp
  else if num = 0x20 then c.tagen
  else if num = 0x21 then c.tagpnd
  else if num = 0x22 then c.wsfree0
  else if num = 0x23 then c.wsfree1
  else if num = 0x24 then fld 0 c.tagdrop
  else if num = 0x25 then c.rqstat
  else if num = 0x27 then fld 0 c.winnack
  else if num = 0x28 then fld 17 c.nslot ||| fld 8 c.sbase ||| fld 0 c.scptr
  else if num = 0x29 then fld 63 (boolWord c.mben).toNat ||| fld 8 c.mbbase ||| fld 0 c.mbdepth
  else if num = 0x2A then fld 0 c.mblost
  else if 0x40 ≤ num ∧ num < 0x80 then c.tagpc.get 0 (num - 0x40)
  else if 0x80 ≤ num ∧ num < 0xC0 then c.tagattr.get 0 (num - 0x80)
  else if 0xC0 ≤ num ∧ num < 0xC8 then c.wina.get 0 (num - 0xC0)
  else if 0xC8 ≤ num ∧ num < 0xD0 then c.winb.get 0 (num - 0xC8)
  else if num = 0x110 then s.jqstat (2 * h) hd.jqlate0
  else if num = 0x111 then s.jqstat (2 * h + 1) hd.jqlate1
  else if num = 0x112 then s.jqstat (512 + h) hd.jqlateH
  else if num = 0x113 then hd.latecfg
  else if num = 0x114 then fld 32 hd.latestatMsg ||| fld 0 hd.latestatDeq
  else if num = 0x115 then hd.trapvec
  else if num = 0x116 then fld 0 hd.hclk
  else if num = 0x180 then s.jqstat (768 + dieOf n) d.jqlate
  else if num = 0x181 then fld 32 d.lgPf ||| fld 0 d.lgHit
  else if num = 0x182 then fld 0 d.latepkt
  else if num = 0x183 then fld 32 d.corr ||| fld 0 d.unc
  else if num = 0x184 then fld 0 d.lgthr
  else if num = 0x200 then p.calcfg
  else if num = 0x201 then s.calstat
  else if num = 0x202 then p.relaycfg
  else if num = 0x203 then fld 32 p.relayFwd ||| fld 0 p.relayWait
  else if num = 0x204 then fld 0 p.incarn
  else if num = 0x205 then p.rmbase
  else if num = 0x206 then p.hostcfg
  else if num = 0x207 then p.bootstat
  else if num = 0x208 then p.ctxbase
  else if num = 0x209 then p.sdaddr
  else if num = 0x20A then p.sdctl
  else if num = 0x20B then p.llcpart
  else if num = 0x20C then p.apbase
  else if num = 0x20D then s.ordcfg
  else if num = 0x210 then p.errq
  else if num = 0x211 then fld 0 p.errlost
  else if num = 0x212 then p.prectl
  else if num = 0x213 then p.prerect
  else if num = 0x214 then p.preimg
  else if num = 0x215 then p.prelen
  else if num = 0x216 then p.hintq
  else if num = 0x217 then p.svcctl
  else if num = 0x218 then p.svcaddr
  else if 0x220 ≤ num ∧ num < 0x230 then p.optport.get 0 (num - 0x220)
  else if 0x230 ≤ num ∧ num < 0x238 then (measDigest p.measured).extractLsb' (64 * (num - 0x230)) 64
  else if 0x240 ≤ num ∧ num < 0x2C0 then p.peers.get 0 (num - 0x240)
  else if 0x2C0 ≤ num ∧ num < 0x2C4 then p.attnonce.get 0 (num - 0x2C0)
  else if num = 0x2C4 then fld 63 (boolWord p.attbusy).toNat
  else if 0x2C8 ≤ num ∧ num < 0x2D0 then (match p.sig with | none => 0 | some q => (quoteSig q).extractLsb' (64 * (num - 0x2C8)) 64)
  else 0

/-- A write that must wait (R187, R371, R423, R425); one of LLCPART waits while the relay ways hold traffic (R178). -/
def State.csrBusy (s : State) (num : Nat) : Bool :=
  (num == 0x20B && s.egress.any (fun e => e.relay)) || (num == 0x20A && s.pkg.sdctl.getLsbD 63) || (num == 0x212 && s.pkg.prectl.getLsbD 63)
    || (num == 0x217 && s.pkg.svcctl.getLsbD 63) || (decide (0x2C0 ≤ num) && decide (num < 0x2C4) && s.pkg.attbusy)

/-- A write of a CSR outside the thread-slot bank from core n: RO and reserved fields keep their values (R9, R80, R82). -/
def State.csrWrite (s : State) (n num : Nat) (v : Word) : State :=
  let h := hedgeOf n
  let core (f : Core → Core) : State := s.modCore n f
  let hed (f : Hedge → Hedge) : State := s.modHedge h f
  let di (f : Die → Die) : State := s.modDie (dieOf n) f
  let pk (f : Pkg → Pkg) : State := s.modPkg f
  if num = 0x20 then core (fun c => { c with tagen := v &&& ~~~(1 : Word) })
  else if num = 0x22 then core (fun c => { c with wsfree0 := v })
  else if num = 0x23 then core (fun c => { c with wsfree1 := v })
  else if num = 0x24 then core (fun c => { c with tagdrop := bits v 31 0 })
  else if num = 0x27 then core (fun c => { c with winnack := bits v 31 0 })
  else if num = 0x28 then core (fun c => c.writeSccfg v)
  else if num = 0x29 then core (fun c => c.writeMbcfg v)
  else if num = 0x2A then core (fun c => { c with mblost := bits v 31 0 })
  else if 0x40 ≤ num ∧ num < 0x80 then core (fun c => { c with tagpc := c.tagpc.set (num - 0x40) v })
  else if 0x80 ≤ num ∧ num < 0xC0 then
    core (fun c => { c with tagattr := c.tagattr.set (num - 0x80) (v &&& 0xF00FFFFC0000FFFF) })
  else if 0xC0 ≤ num ∧ num < 0xC8 then core (fun c => { c with wina := c.wina.set (num - 0xC0) (v &&& 0xFFFFFFFFFC00FFFF) })
  else if 0xC8 ≤ num ∧ num < 0xD0 then core (fun c => { c with winb := c.winb.set (num - 0xC8) (v &&& 0xFFFFFE0000000000) })
  else if num = 0x110 then hed (fun x => { x with jqlate0 := bits v 63 32 })
  else if num = 0x111 then hed (fun x => { x with jqlate1 := bits v 63 32 })
  else if num = 0x112 then hed (fun x => { x with jqlateH := bits v 63 32 })
  else if num = 0x113 then hed (fun x => { x with latecfg := v &&& 0x1F })
  else if num = 0x114 then hed (fun x => { x with latestatMsg := bits v 63 32, latestatDeq := bits v 31 0 })
  else if num = 0x115 then hed (fun x => { x with trapvec := v &&& ~~~(3 : Word) })
  else if num = 0x180 then di (fun x => { x with jqlate := bits v 63 32 })
  else if num = 0x181 then di (fun x => { x with lgPf := bits v 63 32, lgHit := bits v 31 0 })
  else if num = 0x182 then di (fun x => { x with latepkt := bits v 31 0 })
  else if num = 0x183 then di (fun x => { x with corr := bits v 63 32, unc := bits v 31 0 })
  else if num = 0x200 then s.writeCalcfg v
  else if num = 0x202 then pk (fun p => { p with relaycfg := v &&& 0x8000000000000FFF })
  else if num = 0x203 then pk (fun p => { p with relayFwd := bits v 63 32, relayWait := bits v 31 0 })
  else if num = 0x205 then pk (fun p => { p with rmbase := v &&& 0x0078000000000001 })
  else if num = 0x206 then pk (fun p => { p with hostcfg := v &&& 0x800000000000FFFF })
  else if num = 0x208 then pk (fun p => { p with ctxbase := v &&& 0xFFFFFFFFFFFFFFC0 })
  else if num = 0x209 then pk (fun p => { p with sdaddr := v })
  else if num = 0x20A then pk (fun p => { p with sdctl := sdctlWrite v })
  else if num = 0x20B then s.writeLlcpart v
  else if num = 0x20C then pk (fun p => { p with apbase := v &&& 0x007FFFF000000001 })
  else if num = 0x20D then pk (fun p => { p with lgq := if 8 ≤ bits v 4 0 ∧ bits v 4 0 ≤ 16 then bits v 4 0 else p.lgq })
  else if num = 0x20E then
    if v.getLsbD 63 then pk (fun p => { p with startReq := some (v.getLsbD 62, v.getLsbD 62 && v.getLsbD 61) }) else s
  else if num = 0x210 then pk (fun p => { p with errq := v })
  else if num = 0x211 then pk (fun p => { p with errlost := bits v 31 0 })
  else if num = 0x212 then pk (fun p => { p with prectl := prectlWrite p.prectl v })
  else if num = 0x213 then pk (fun p => { p with prerect := v &&& 0xFFFFFFFFFFF80000 })
  else if num = 0x214 then pk (fun p => { p with preimg := v })
  else if num = 0x215 then pk (fun p => { p with prelen := v })
  else if num = 0x216 then pk (fun p => { p with hintq := v })
  else if num = 0x217 then pk (fun p => { p with svcctl := svcctlWrite p.svcctl v })
  else if num = 0x218 then pk (fun p => { p with svcaddr := v })
  else if 0x220 ≤ num ∧ num < 0x230 then s.writeOptport (num - 0x220) v
  else if 0x240 ≤ num ∧ num < 0x2C0 then s.writePeer (num - 0x240) v
  else if 0x2C0 ≤ num ∧ num < 0x2C4 then pk (fun p => { p with attnonce := p.attnonce.set (num - 0x2C0) v })
  else if num = 0x2C4 then pk (fun p => if v.getLsbD 63 then { p with attbusy := true } else p)
  else s

/-- A write of a CSR of any bank by core n, slot k (R81, R82). -/
def State.csrSet (s : State) (n k num : Nat) (v : Word) : State :=
  if num = 0 then s.modTh n k (fun t => { t with sw := swWrite t.sw v })
  else if num = 1 then s.modTh n k (fun t => { t with wp := bits v 16 10 })
  else if num = 2 then s.modSlot n k (fun x => { x with swp := bits v 16 10 })
  else s.csrWrite n num v

end Sys2Proof.Machine
end

