-- ==== Sys2Proof/Machine/Formats.lean ====
section
/-! DEFINITION. Number formats, exact values, rounding, the long accumulator and the selection order (03 of the spec).
Exact values are kept as sign, magnitude and a power of two, or as a quotient of naturals. -/

namespace Sys2Proof.Machine

/-- The binary floating-point formats (R43). -/
inductive Fmt where
  | fp4
  | e4m3
  | e5m2
  | fp16
  | bf16
  | fp32
  deriving DecidableEq, Repr

/-- Mantissa bits (R43). -/
def Fmt.m : Fmt → Nat
  | .fp4 => 1
  | .e4m3 => 3
  | .e5m2 => 2
  | .fp16 => 10
  | .bf16 => 7
  | .fp32 => 23
/-- Exponent bits (R43). -/
def Fmt.eb : Fmt → Nat
  | .fp4 => 2
  | .e4m3 => 4
  | .e5m2 => 5
  | .fp16 => 5
  | .bf16 => 8
  | .fp32 => 8
/-- Exponent of the least normal value, 1 − bias (R43, R52). -/
def Fmt.emin : Fmt → Int
  | .fp4 => 0
  | .e4m3 => -6
  | .e5m2 => -14
  | .fp16 => -14
  | .bf16 => -126
  | .fp32 => -126
/-- Width in bits. -/
def Fmt.w (f : Fmt) : Nat := 1 + f.eb + f.m
/-- The encoding of the largest finite magnitude (R43). -/
def Fmt.maxCode : Fmt → Nat
  | .fp4 => 7
  | .e4m3 => 0x7E
  | .e5m2 => 0x7B
  | .fp16 => 0x7BFF
  | .bf16 => 0x7F7F
  | .fp32 => 0x7F7FFFFF
/-- The encoding of +∞, where the format has one (R43). -/
def Fmt.infCode : Fmt → Option Nat
  | .fp4 => none
  | .e4m3 => none
  | f => some (f.maxCode + 1)
/-- The canonical NaN (R45); FP4 has none and takes +0 (R55). -/
def Fmt.nan : Fmt → Nat
  | .fp4 => 0
  | .e4m3 => 0x7F
  | .e5m2 => 0x7F
  | .fp16 => 0x7E00
  | .bf16 => 0x7FC0
  | .fp32 => 0x7FC00000

/-- A value read from an encoding: a NaN, an infinity, or (−1)^neg · m · 2^e. -/
inductive Val where
  | nan (signalling : Bool)
  | inf (neg : Bool)
  | fin (neg : Bool) (m : Nat) (e : Int)
  deriving DecidableEq, Repr

/-- The magnitude bits of an encoding. -/
def Fmt.mag (f : Fmt) (x : Nat) : Nat := x % 2 ^ (f.w - 1)
/-- The sign bit of an encoding. -/
def Fmt.neg (f : Fmt) (x : Nat) : Bool := x / 2 ^ (f.w - 1) % 2 == 1

/-- Whether an encoding is a NaN (R43). -/
def Fmt.isNan (f : Fmt) (x : Nat) : Bool :=
  match f with
  | .fp4 => false
  | .e4m3 => f.mag x == 0x7F
  | _ => decide (f.maxCode + 1 < f.mag x)

/-- The value of an encoding (R43-R45). -/
def Fmt.decode (f : Fmt) (x : Nat) : Val :=
  let a := f.mag x
  if f.isNan x then .nan (f != .e4m3 && a / 2 ^ (f.m - 1) % 2 == 0)
  else if f.infCode == some a then .inf (f.neg x)
  else
    let e := a / 2 ^ f.m
    if e = 0 then .fin (f.neg x) a (f.emin - f.m)
    else .fin (f.neg x) (a % 2 ^ f.m + 2 ^ f.m) (f.emin - f.m + (e - 1 : Nat))

/-- A signed encoding from its magnitude bits. -/
def Fmt.sgn (f : Fmt) (neg : Bool) (code : Nat) : Nat := if neg then code + 2 ^ (f.w - 1) else code

/-! ### Deterministic stochastic rounding (R54) -/

/-- The mixing function of R54. -/
def mix32 (x0 : Nat) : Nat :=
  let x1 := x0 % 2 ^ 32 ^^^ (x0 % 2 ^ 32) >>> 16
  let x2 := x1 * 0x7FEB352D % 2 ^ 32
  let x3 := x2 ^^^ x2 >>> 15
  let x4 := x3 * 0x846CA68B % 2 ^ 32
  x4 ^^^ x4 >>> 16

/-- The 24 bits of R54. -/
def srBits (seed idx : Nat) : Nat := mix32 (idx % 2 ^ 32 ^^^ mix32 (seed % 2 ^ 32 ^^^ 0x5851F42D)) / 256

/-! ### Rounding (R52, R53) -/

/-- How an operation rounds: mode (R18 numbers), saturation, seed and linear index (R52). -/
structure Rnd where
  rm : Nat := 0
  sat : Bool := false
  seed : Nat := 0
  idx : Nat := 0
  deriving DecidableEq, Repr

/-- Whether the magnitude q + r/d rounds up (R52). -/
def Rnd.up (o : Rnd) (neg : Bool) (q r d : Nat) : Bool :=
  match o.rm with
  | 0 => decide (d < 2 * r) || (decide (2 * r = d) && q % 2 == 1)
  | 1 => false
  | 2 => decide (0 < r) && !neg
  | 3 => decide (0 < r) && neg
  | _ => decide (srBits o.seed o.idx < r * 2 ^ 24 / d)

/-- Overflow (R53). Under rm 5 to 7 the result is maxfin: R53 gives the infinity to rm 4 by name, and these values, kept in an
edited SW, round as SR but have no row there (DESIGN CHOICE, log 55). -/
def overflow (f : Fmt) (o : Rnd) (neg : Bool) : Nat × Flags :=
  let fl : Flags := { of := true, nx := true }
  if o.sat || f == .fp4 then (f.sgn neg f.maxCode, fl)
  else if o.rm == 0 || o.rm == 4 || (o.rm == 2 && !neg) || (o.rm == 3 && neg) then
    match f.infCode with
    | none => (f.nan, fl)
    | some i => (f.sgn neg i, fl)
  else (f.sgn neg f.maxCode, fl)

/-- n · 2^k over d as a pair of naturals. -/
def scaleQ (n d : Nat) (k : Int) : Nat × Nat := if 0 ≤ k then (n * 2 ^ k.toNat, d) else (n, d * 2 ^ (-k).toNat)

/-- floor(log2(n/d)) for n, d > 0. -/
def log2Q (n d : Nat) : Int :=
  let l : Int := (Nat.log2 n : Int) - (Nat.log2 d : Int)
  let p := scaleQ n d (-l)
  if p.1 < p.2 then l - 1 else l

/-- round_fmt of (−1)^neg · (n/d) · 2^e, n > 0 (R52). -/
def roundQ (f : Fmt) (o : Rnd) (neg : Bool) (n d : Nat) (e : Int) : Nat × Flags :=
  let lg := log2Q n d + e
  let ex := max lg f.emin
  let p := scaleQ n d (e - (ex - f.m))
  let q := p.1 / p.2
  let r := p.1 % p.2
  let q' := if o.up neg q r p.2 then q + 1 else q
  let code := (ex - f.emin).toNat * 2 ^ f.m + q'
  let fl : Flags := { nx := r != 0, uf := r != 0 && decide (lg < f.emin) }
  if f.maxCode < code then
    let ov := overflow f o neg
    (ov.1, ov.2.or fl)
  else (f.sgn neg code, fl)

/-- round_fmt of an exact dyadic value; an exact zero rounds to +0 (R52). -/
def roundFmt (f : Fmt) (o : Rnd) (neg : Bool) (m : Nat) (e : Int) : Nat × Flags :=
  if m = 0 then (0, {}) else roundQ f o neg m 1 e

/-- round_fmt of an exact integer multiple of a power of two. -/
def roundInt2 (f : Fmt) (o : Rnd) (x : Int) (e : Int) : Nat × Flags := roundFmt f o (decide (x < 0)) x.natAbs e

/-- The least and greatest integer of a width (R42). -/
def intRange (w : Nat) (uns : Bool) : Int × Int :=
  if uns then (0, 2 ^ w - 1) else (-(2 ^ (w - 1)), 2 ^ (w - 1) - 1)

/-- The bits of an integer in a width. -/
def intBits (w : Nat) (i : Int) : Nat := (i % (2 ^ w : Int)).toNat

/-- Rounding an exact dyadic value to an integer format (R52). -/
def roundToInt (w : Nat) (uns : Bool) (o : Rnd) (neg : Bool) (m : Nat) (e : Int) : Nat × Flags :=
  let p := scaleQ m 1 e
  let q := p.1 / p.2
  let r := p.1 % p.2
  let q' := if o.up neg q r p.2 then q + 1 else q
  let v : Int := if neg then -(q' : Int) else q'
  let rg := intRange w uns
  if v < rg.1 then (intBits w rg.1, { nv := true })
  else if rg.2 < v then (intBits w rg.2, { nv := true })
  else (intBits w v, { nx := r != 0 })

/-- Conversion of any value to a floating-point format (R52, R55). -/
def convertF (f : Fmt) (o : Rnd) (v : Val) : Nat × Flags :=
  match v with
  | .nan sg => if f == .fp4 then (0, { nv := true }) else (f.nan, { nv := sg })
  | .inf neg =>
    match f.infCode with
    | some i => (f.sgn neg i, {})
    | none =>
      if f == .fp4 then (f.sgn neg f.maxCode, { of := true })
      else (if o.sat then f.sgn neg f.maxCode else f.nan, { of := true })
  | .fin neg m e => if m = 0 then (f.sgn neg 0, {}) else roundQ f o neg m 1 e

/-- Conversion of any value to an integer format (R52, R55). -/
def convertI (w : Nat) (uns : Bool) (o : Rnd) (v : Val) : Nat × Flags :=
  match v with
  | .nan _ => (0, { nv := true })
  | .inf neg => (intBits w (if neg then (intRange w uns).1 else (intRange w uns).2), { nv := true })
  | .fin neg m e => if m = 0 then (0, {}) else roundToInt w uns o neg m e

/-! ### Format codes (R35) and element values -/

/-- What a format code names: an integer of a width, or a floating-point format. -/
inductive Elt where
  | int (w : Nat) (uns : Bool)
  | flt (f : Fmt)
  deriving DecidableEq, Repr

/-- The element format of a code 1..11 (R35). -/
def Elt.of (code : Nat) (uns : Bool) : Option Elt :=
  match code with
  | 1 => some (.int 4 uns)
  | 2 => some (.int 8 uns)
  | 3 => some (.int 16 uns)
  | 4 => some (.int 32 uns)
  | 5 => some (.int 64 uns)
  | 6 => some (.flt .fp4)
  | 7 => some (.flt .e4m3)
  | 8 => some (.flt .e5m2)
  | 9 => some (.flt .fp16)
  | 10 => some (.flt .bf16)
  | 11 => some (.flt .fp32)
  | _ => none

/-- Width in bits of an element. -/
def Elt.w : Elt → Nat
  | .int w _ => w
  | .flt f => f.w

/-- The value of an element's bits. -/
def Elt.val (t : Elt) (x : Nat) : Val :=
  match t with
  | .int w uns => let i : Int := if uns then (x % 2 ^ w : Nat) else signedOf w x
    .fin (decide (i < 0)) i.natAbs 0
  | .flt f => f.decode x

/-- Conversion of a value to an element format (R52, R55). -/
def Elt.conv (t : Elt) (o : Rnd) (v : Val) : Nat × Flags :=
  match t with
  | .int w uns => convertI w uns o v
  | .flt f => convertF f o v

/-- The selection order as a number (R58): NaN lowest; equal numbers are equal rank. -/
def Elt.rank (t : Elt) (x : Nat) : Int :=
  match t with
  | .int w uns => if uns then (x % 2 ^ w : Nat) else signedOf w x
  | .flt f => if f.isNan x then -(2 ^ 64) else if f.neg x then -(f.mag x : Int) else f.mag x

/-! ### Sums and products of values -/

/-- The common exponent and the two integers of a sum of dyadic values. -/
def alignI (n1 : Bool) (m1 : Nat) (e1 : Int) (n2 : Bool) (m2 : Nat) (e2 : Int) : Int × Int × Int :=
  let e := min e1 e2
  let a : Int := (m1 * 2 ^ (e1 - e).toNat : Nat)
  let b : Int := (m2 * 2 ^ (e2 - e).toNat : Nat)
  (e, if n1 then -a else a, if n2 then -b else b)

/-- The exact product of two values (R50 without scales): flag invalid for ∞ · 0 and signalling NaN. -/
def Val.mul (a b : Val) : Val × Bool :=
  match a, b with
  | .nan s, .nan t => (.nan false, s || t)
  | .nan s, _ => (.nan false, s)
  | _, .nan t => (.nan false, t)
  | .inf n, .inf k => (.inf (n != k), false)
  | .inf n, .fin k m _ => if m = 0 then (.nan false, true) else (.inf (n != k), false)
  | .fin n m _, .inf k => if m = 0 then (.nan false, true) else (.inf (n != k), false)
  | .fin n m e, .fin k p g => (.fin (n != k) (m * p) (e + g), false)

/-- The value of an E8M0 scale byte (R46). -/
def scaleVal (b : Nat) : Val := if b = 255 then .nan false else .fin false 1 ((b : Int) - 127)

/-- The value negated. -/
def Val.negate : Val → Val
  | .nan s => .nan s
  | .inf n => .inf (!n)
  | .fin n m e => .fin (!n) m e

/-! ### The long accumulator (R48-R51, R56) -/

/-- What an LA denotes: a NaN, an infinity, or an integer in units of 2^−320. -/
inductive LaVal where
  | nan
  | inf (neg : Bool)
  | fin (i : Int)
  deriving DecidableEq, Repr

/-- The pattern of a special value (R48). -/
def laSpecial (code : Nat) : La := BitVec.ofNat 640 (2 ^ 639 + code)

/-- The value of 80 bytes read as an LA (R48). -/
def laDecode (l : La) : LaVal :=
  let n := l.toNat
  if n = 2 ^ 639 then .nan
  else if n = 2 ^ 639 + 1 then .inf false
  else if n = 2 ^ 639 + 2 then .inf true
  else if n = 2 ^ 639 + 3 then .nan
  else .fin l.toInt

/-- The pattern of a value (R48). -/
def laEncode : LaVal → La
  | .nan => laSpecial 0
  | .inf false => laSpecial 1
  | .inf true => laSpecial 2
  | .fin i => BitVec.ofInt 640 i

/-- The largest finite LA, in units of 2^−320 (R48). -/
def laMax : Int := 2 ^ 639 - 1
/-- The least finite LA, in units of 2^−320 (R48). -/
def laMin : Int := -(2 ^ 639) + 4

/-- A value as an exact addend (R49); the flag tells a signalling NaN. -/
def Val.toLa (v : Val) : LaVal × Bool :=
  match v with
  | .nan s => (.nan, s)
  | .inf n => (.inf n, false)
  | .fin n m e =>
    let k := e + 320
    let a : Int := if 0 ≤ k then (m * 2 ^ k.toNat : Nat) else (m / 2 ^ (-k).toNat : Nat)
    (.fin (if n then -a else a), false)

/-- la_add of two LA values (R49). -/
def laAdd (l x : LaVal) : LaVal × Flags :=
  match l, x with
  | .nan, _ => (.nan, {})
  | _, .nan => (.nan, {})
  | .inf a, .inf b => if a = b then (.inf a, {}) else (.nan, { nv := true })
  | .inf a, .fin _ => (.inf a, {})
  | .fin _, .inf b => (.inf b, {})
  | .fin a, .fin b =>
    let s := a + b
    if laMax < s then (.inf false, { of := true })
    else if s < laMin then (.inf true, { of := true })
    else (.fin s, {})

/-- la_add of a value (R49): a signalling NaN raises invalid. -/
def laAddVal (l : LaVal) (v : Val) : LaVal × Flags :=
  let x := v.toLa
  let r := laAdd l x.1
  (r.1, { r.2 with nv := r.2.nv || x.2 })

/-- la_round to a floating-point format (R56). -/
def laRoundF (l : LaVal) (f : Fmt) (o : Rnd) : Nat × Flags :=
  match l with
  | .nan => if f == .fp4 then (0, {}) else (f.nan, {})
  | .inf n =>
    if o.sat || f == .fp4 then (f.sgn n f.maxCode, { of := true })
    else match f.infCode with
      | some i => (f.sgn n i, {})
      | none => (f.nan, { of := true })
  | .fin i => roundInt2 f o i (-320)

/-- la_round to an integer format (R56). -/
def laRoundI (l : LaVal) (w : Nat) (uns : Bool) (o : Rnd) : Nat × Flags :=
  match l with
  | .nan => (0, {})
  | .inf n => (intBits w (if n then (intRange w uns).1 else (intRange w uns).2), { nv := true })
  | .fin i => if i = 0 then (0, {}) else roundToInt w uns o (decide (i < 0)) i.natAbs (-320)

/-- la_round to an element format (R56). -/
def laRound (l : LaVal) (t : Elt) (o : Rnd) : Nat × Flags :=
  match t with
  | .int w uns => laRoundI l w uns o
  | .flt f => laRoundF l f o

/-! ### Lanes (R16) -/

/-- Lane i of width w bits. -/
def lane (v : Vec) (w i : Nat) : Nat := (v.toNat >>> (w * i)) % 2 ^ w

/-- A vector from lanes of width w, lane 0 first. -/
def ofLanes (w : Nat) (l : List Nat) : Vec := BitVec.ofNat 512 (l.foldr (fun x acc => x % 2 ^ w + 2 ^ w * acc) 0)

/-- The lanes of a vector. -/
def lanes (v : Vec) (w : Nat) : List Nat := (List.range (512 / w)).map (lane v w)

/-- The OR of a list of flags. -/
def joinFlags (l : List Flags) : Flags := l.foldl Flags.or {}

/-! ### Atomics (R198-R200) -/

/-- What an atomic leaves at the home for an old value of 8n bits, with the flags of fadd (R198-R200). -/
def amoResult (op n : Nat) (m b d : Nat) : Nat × Flags :=
  let w := 8 * n
  let sm := signedOf w m
  let sb := signedOf w b
  match op with
  | 0 => ((m + b) % 2 ^ w, {})
  | 1 => (m &&& b, {})
  | 2 => (m ||| b, {})
  | 3 => (m ^^^ b, {})
  | 4 => (if sb < sm then b else m, {})
  | 5 => (if sm < sb then b else m, {})
  | 6 => (if b < m then b else m, {})
  | 7 => (if m < b then b else m, {})
  | 8 => (b, {})
  | 9 => (if m = d then b else m, {})
  | 10 =>
    let h := 2 ^ (w / 2)
    let cap := m / h
    let cnt := m % h
    let g := Nat.min (b % h) (cap - cnt)
    (cap * h + cnt + g, {})
  | _ =>
    let x := Fmt.decode .fp32 m
    let y := Fmt.decode .fp32 (b % 2 ^ 32)
    match x, y with
    | .nan s, .nan t => (0x7FC00000, { nv := s || t })
    | .nan s, _ => (0x7FC00000, { nv := s })
    | _, .nan t => (0x7FC00000, { nv := t })
    | .inf p, .inf q => if p = q then convertF .fp32 {} (.inf p) else (0x7FC00000, { nv := true })
    | .inf p, .fin .. => convertF .fp32 {} (.inf p)
    | .fin .., .inf q => convertF .fp32 {} (.inf q)
    | .fin p i e, .fin q j g =>
      if i = 0 ∧ j = 0 then (Fmt.sgn .fp32 (p && q) 0, {})
      else
        let z := alignI p i e q j g
        roundInt2 .fp32 {} (z.2.1 + z.2.2) z.1

end Sys2Proof.Machine
end

