-- ==== Sys2Proof/Machine/Mailbox.lean ====
section
/-! DEFINITION. Mailbox rows (R158-R160, R302-R305): entries, insertion and the completion notice. -/

namespace Sys2Proof.Machine

/-- The score field of an entry (R303). -/
def entScore (e : BitVec 128) : Nat := bits e 31 0
/-- The expert field of an entry (R303). -/
def entExpert (e : BitVec 128) : Nat := bits e 47 32
/-- The flags field of an entry (R303). -/
def entFlags (e : BitVec 128) : Nat := bits e 63 48
/-- The token field of an entry (R303). -/
def entToken (e : BitVec 128) : Nat := bits e 95 64

/-- An entry from its fields (R303). -/
def mkEntry (score expert flags token weight : Nat) : BitVec 128 :=
  BitVec.ofNat 128 (score % 2 ^ 32 + 2 ^ 32 * (expert % 2 ^ 16) + 2 ^ 48 * (flags % 2 ^ 16)
    + 2 ^ 64 * (token % 2 ^ 32) + 2 ^ 96 * (weight % 2 ^ 32))

/-- The local offset of entry i of row r (R302). -/
def Core.entryAt (c : Core) (r i : Nat) : Nat := 16384 * c.mbbase + 256 * r + 16 * i

/-- The entries 0..depth-1 of a row as they stand (R304). -/
def Core.rowEntries (c : Core) (r : Nat) : List (BitVec 128) :=
  (List.range c.mbdepth).map (fun i => BitVec.ofNat 128 (c.lmem.num (c.entryAt r i) 16))

/-- A NaN score made canonical (R303, R304). -/
def canonScore (e : BitVec 128) : BitVec 128 :=
  if Fmt.isNan .fp32 (entScore e) then BitVec.ofNat 128 (e.toNat / 2 ^ 32 * 2 ^ 32 + 0x7FC00000) else e

/-- The rank of an entry's score (R58). -/
def entRank (e : BitVec 128) : Int := (Elt.flt .fp32).rank (entScore e)

/-- Insert an entry into a list sorted by score, highest first, equal scores by lower expert number (R304). -/
def insertSorted (e : BitVec 128) : List (BitVec 128) → List (BitVec 128)
  | [] => [e]
  | x :: r => if entRank x < entRank e ∨ (entRank x = entRank e ∧ entExpert e < entExpert x) then e :: x :: r
    else x :: insertSorted e r

/-- Keep one entry for each expert number (R304): the higher score, on equal rank the earlier; with the copies lost. -/
def dedup (u : List (BitVec 128)) : List (BitVec 128) × Nat :=
  u.foldl (fun acc e =>
    match acc.1.find? (fun x => entExpert x == entExpert e) with
    | none => (acc.1 ++ [e], acc.2)
    | some x => if entRank x < entRank e then (acc.1.map (fun y => if entExpert y == entExpert e then e else y), acc.2 + 1)
      else (acc.1, acc.2 + 1)) ([], 0)

/-- The completion notice of a row to n3 (R160), which the job of a submission number may have caused. -/
def State.rowNotice (s : State) (job : Option Nat) (n r : Nat) (w : Word) : State :=
  match job.bind (fun o => s.jobs.find? (fun j => j.order == o)) with
  | some j => s.noticeOf j r n 3 w
  | none => s.notify n 3 w

/-- Insert entries into a row (R304); the word of the completion notice when done rises (R160). -/
def State.rowPut (s : State) (n r : Nat) (new : List (BitVec 128)) : Option Word × State :=
  let c := s.coreAt n
  let w := c.rows.get 0 r
  let arr := Nat.min (bits w 63 48 + 1) 65535
  let exp := bits w 47 32
  let u0 := ((c.rowEntries r ++ new).filter (fun e => entExpert e != 0xFFFF)).map canonScore
  let d := dedup u0
  let u := d.1.foldl (fun l e => insertSorted e l) []
  let drop := Nat.min (bits w 31 24 + (u.length - c.mbdepth)) 255
  let dup := Nat.min (bits w 23 16 + d.2) 255
  let kept := (u ++ List.replicate c.mbdepth sentinel).take c.mbdepth
  let done := decide (exp ≤ arr) && exp != 0
  let w1 := fld 48 arr ||| fld 32 exp ||| fld 24 drop ||| fld 16 dup ||| fld 8 (Nat.min u.length c.mbdepth)
    ||| fld 0 (boolWord done).toNat
  let s1 := (s.setCore n { c with rows := c.rows.set r w1 }).poke n (c.entryAt r 0) (kept.flatMap (fun e => toBytes 16 e.toNat))
  (if done && !w.getLsbD 0 then some (w1 ||| fld 1 r) else none, s1)

/-- Insert entries into a row (R304); the completion notice goes to n3 (R160). job is the submission number of a job that
caused the insertion. -/
def State.rowInsert (s : State) (n r : Nat) (new : List (BitVec 128)) (job : Option Nat := none) : State :=
  let x := s.rowPut n r new
  match x.1 with
  | some w => x.2.rowNotice job n r w
  | none => x.2

/-- A score message reaches a core (R302, R304): discarded and counted while mailboxes are off. -/
def State.scoreArrive (s : State) (n r : Nat) (entries : List (BitVec 128)) (job : Option Nat) : State :=
  if (s.coreAt n).mben then s.rowInsert n r entries job
  else s.modCore n (fun c => { c with mblost := Nat.min (c.mblost + 1) 0xFFFFFFFF })

end Sys2Proof.Machine
end

