-- ==== Sys2Proof/Machine/Group.lean ====
section
/-! DEFINITION. One group as one step (R21): the write-phase actions, the write phase itself, the order of the checks
(R33, R350) and the commit of a group. The actions are shared with the commit of ordered quanta (R227). -/

namespace Sys2Proof.Machine

/-! ### Launches (R113-R115, R149, R181, R220) -/

/-- The physical hedge that a placement entry names, if it is valid. R181 says that bits [14:8] are zero and not what an entry
with others does: a valid one names no hedge, here as in State.place (DESIGN CHOICE, log 73). -/
def mapped (e : Nat) : Option Nat := if e / 32768 = 1 ∧ e / 256 % 128 = 0 then some (e % 256) else none

/-- No number occurs twice. -/
def distinct : List Nat → Bool
  | [] => true
  | a :: r => !r.contains a && distinct r

/-- Whether the placement map of a context meets R5 for a rectangle: valid entries distinct, one physical die for each
logical die, every hedge of the rectangle valid (R181). Validity of the rectangle's hedges is bit 15 alone, as R181 has it, so
that a launch over an entry whose reserved bits are set begins and finds no hedge there (DESIGN CHOICE, log 73). -/
def State.mapOk (s : State) (h ctx x0 y0 wx wy : Nat) : Bool :=
  let es := (List.range 256).map (fun lh => (lh, mapped (s.pmapEntry h ctx lh)))
  let vs := es.filterMap (fun e => e.2.map (fun p => (e.1, p)))
  distinct (vs.map (fun e => e.2)) && vs.all (fun a => vs.all (fun b => dieOfHedge a.1 != dieOfHedge b.1 || a.2 / 64 == b.2 / 64))
    && (List.range 256).all (fun lh =>
      let hx := 4 * (lh % 16)
      let hy := 4 * (lh / 16)
      !(meets hx 4 x0 wx && meets hy 4 y0 wy) || (s.pmapEntry h ctx lh / 32768 == 1))

/-- The fields of a launch descriptor (R147). -/
structure LaunchDesc where
  pc : Word
  arg : Word
  budget : Nat
  prio : Nat
  ord : Bool
  pers : Bool
  thr : Nat
  rbase : Nat
  rsize : Nat
  x0 : Nat
  y0 : Nat
  wx : Nat
  wy : Nat
  ctx : Nat
  deriving DecidableEq, Repr

/-- A launch descriptor from its words, in a launcher's context and mode (R147). -/
def LaunchDesc.of (w : List Word) (own : Nat) (user : Bool) : LaunchDesc :=
  let a := w.getD 2 0
  let b := w.getD 3 0
  { pc := w.getD 0 0, arg := w.getD 1 0, budget := bits a 63 44,
    prio := if user && bits a 43 42 == 0 then 1 else bits a 43 42, ord := a.getLsbD 41, pers := a.getLsbD 40,
    thr := bits a 39 38, rbase := bits a 37 29, rsize := bits a 28 20,
    x0 := bits b 63 58, y0 := bits b 57 52, wx := bits b 51 45, wy := bits b 44 38,
    ctx := if bits b 15 0 = 0 then own else bits b 15 0 }

/-- The rectangle of a descriptor is legal (R149). -/
def LaunchDesc.rectOk (d : LaunchDesc) : Bool :=
  decide (0 < d.wx) && decide (0 < d.wy) && decide (d.wx ≤ 64) && decide (d.wy ≤ 64)
    && decide (d.x0 + d.wx ≤ 64) && decide (d.y0 + d.wy ≤ 64)

/-- A persistent launch of a context is in force (R119). -/
def State.persInForce (s : State) (ctx : Nat) : Bool := s.inForce.any (fun l => l.pers && l.ctx == ctx)

/-- The die whose launch controller holds a launch, that of the core (x0, y0) as placed; its number stands in the
identifier, so that no two launches of a table share one (R149; DEDUCED, log 59). -/
def State.launchDie (s : State) (h : Nat) (d : LaunchDesc) : Nat :=
  dieOf ((s.place h d.ctx (linOf d.x0 d.y0)).getD 0)

/-- A launch must wait: its die's 16 entries are in use, or 4 ordered launches are in force (R149, R220). -/
def State.launchWaits (s : State) (h : Nat) (d : LaunchDesc) : Bool :=
  !(d.pers && s.persInForce d.ctx)
    && (decide (16 ≤ (s.launches.filter (fun l => l.2.die == s.launchDie h d)).length)
      || (d.ord && decide (4 ≤ (s.inForce.filter (fun l => l.ord)).length)))

/-- The cores of a rectangle in the order of placement: hedges ascending, cores ascending within a hedge (R115). -/
def placeOrder (d : LaunchDesc) : List Nat :=
  let cs := (List.range d.wy).flatMap (fun j => (List.range d.wx).map (fun i => linOf (d.x0 + i) (d.y0 + j)))
  (List.range 256).flatMap (fun h => cs.filter (fun c => hedgeOf c == h))

/-- launch is performed (R149): identifier 0 while a persistent launch is in force, else an entry is allotted: the lowest free
one, since R149 does not say which (DESIGN CHOICE, log 75). -/
def State.startLaunch (s : State) (h : Nat) (d : LaunchDesc) : Nat × State :=
  if d.pers && s.persInForce d.ctx then (0, s) else
    let die := s.launchDie h d
    let used := (s.launches.filter (fun l => l.2.die == die)).map (fun l => l.2.entry)
    let seq := (s.die die).launchSeq % (2 ^ 26 - 1) + 1
    let name (e : Nat) : Nat := 2 ^ 30 * die + 2 ^ 26 * e + seq
    let taken := s.launches.map (fun l => l.1) ++ s.saved.flatMap (fun i => i.launches.map (fun l => l.1))
    let free := (List.range 16).filter (fun e => !used.contains e)
    let entry := (free.find? (fun e => !taken.contains (name e))).getD (free.headD 0)
    let id := name entry
    let l : Launch := {
      die := die, entry := entry, seq := seq, ctx := d.ctx, pc := d.pc, arg := d.arg, budget := d.budget, prio := d.prio,
      ord := d.ord, pers := d.pers, thr := d.thr + 1, rbase := d.rbase, rsize := d.rsize, x0 := d.x0, y0 := d.y0,
      wx := d.wx, wy := d.wy, todo := (placeOrder d).flatMap (fun c => (List.range (d.thr + 1)).map (fun k => (c, k))),
      counter := d.wx * d.wy * (d.thr + 1) }
    let s1 := s.modDie die (fun x => { x with launchSeq := seq })
    (id, { s1 with
      launches := (id, l) :: s1.launches
      ords := if d.ord then s1.ords.set id { lgq := s.pkg.lgq } else s1.ords })

/-! ### Ordered quanta: the state of a thread in its round (R221-R227) -/

/-- The ordered launch and the task record of a thread. -/
def State.ordOf (s : State) (uid : Nat) : Option (Nat × OrdTask) :=
  s.ords.findSome? (fun o => (o.2.tasks.find? (fun t => t.uid == uid)).map (fun t => (o.1, t)))

/-- Change the task record of a thread of an ordered launch. -/
def State.modOrd (s : State) (uid : Nat) (f : OrdTask → OrdTask) : State :=
  { s with ords := s.ords.map (fun o => (o.1, { o.2 with tasks := mapIf (fun t => t.uid == uid) f o.2.tasks })) }

/-- The thread's quantum is running: its services are collected, not performed (R224, R227). -/
def State.quantumRuns (s : State) (t : Thread) : Bool :=
  swOrd t.sw && !t.sys && (match s.ordOf t.uid with
    | some (_, o) => o.st == .running || o.st == .rerun
    | none => false)

/-- The quantum of a thread has reached its end (R222). -/
def OrdTask.ends (o : OrdTask) : OrdTask :=
  match o.st with
  | .running => { o with st := .ended }
  | .rerun => { o with st := .reended }
  | _ => o

/-- Add a service to a quantum (R227). -/
def State.addService (s : State) (uid : Nat) (a : Act) : State :=
  s.modOrd uid (fun t => { t with services := t.services ++ [a] })

/-- The lines that a byte range of storage touches, with the bytes laid at their places in each line. -/
def splitLines (a : Nat) (bs : List Byte) : List (Nat × Vec × BitVec 64) :=
  (List.range ((a + bs.length - 1) / 64 + 1 - a / 64)).map (fun i =>
    let ln := 64 * (a / 64 + i)
    (bs.zipIdx.filter (fun b => decide (ln ≤ a + b.2) && decide (a + b.2 < ln + 64))).foldl
      (fun acc b => (ln, acc.2.1 ||| vecAt (a + b.2 - ln) b.1.toNat, acc.2.2 ||| byteMask (a + b.2 - ln) 1)) (ln, 0, 0))

/-- What a quantum changes at its core beside memory is kept for a squash (R225). -/
def State.keepUndo (s : State) (ord : Bool) (uid : Nat) (u : List Undo) : State :=
  if ord then s.modOrd uid (fun o => { o with undo := u ++ o.undo }) else s

/-- A mailbox row as it stands (R225). -/
def Core.rowUndo (c : Core) (r : Nat) : Undo := .row r (c.rows.get 0 r) (c.entryAt r 0) (c.lmem.bytes (c.entryAt r 0) 256)

/-- Keep the old contents of a line of the named region at the first store of a quantum (R223). -/
def State.keepRegion (s : State) (n : Nat) (t : Thread) (line : Nat) : State :=
  if swOrd t.sw && !t.sys && line / 1024 != t.homeWp then
    s.modOrd t.uid (fun o => if o.regionOld.any (fun r => r.1 == line) then o
      else { o with regionOld := o.regionOld ++ [(line, BitVec.ofNat 512 ((s.coreAt n).lmem.num line 64))] })
  else s

/-- The chain whose baton holder a thread is or was: the writes that are compared (R127). -/
def State.chainOf (s : State) (uid : Nat) : Option (Nat × Chain) :=
  s.chains.find? (fun c => c.2.iters.head? == some uid || c.2.past.contains uid)

/-- What a thread has under way is forgotten (R127): its accesses and their answers. -/
def State.dropTraffic (s : State) (uid : Nat) : State :=
  { s with
    net := s.net.filter (fun p => p.src.uid != uid || p.src.job != 0 || p.src.far)
    replies := s.replies.filter (fun r => r.src.uid != uid || r.src.job != 0 || r.src.far) }

/-- The workspace of a started task that waits in the run queue goes back to its core (R108). -/
def Core.freeWaiting (c : Core) (uid : Nat) : Core :=
  match c.rq.find? (fun e => e.th.uid == uid && !e.fresh) with
  | some e => c.setFree e.th.homeWp true
  | none => c

/-- A task of a chain leaves its place (R127): a slot is left (R20), a waiting entry removed, its workspace given back. -/
def State.dropIter (s : State) (uid : Nat) : State :=
  let s1 := match s.whereIs uid with
    | some (n, k) =>
      let wp := (s.thAt n k).homeWp
      (s.modCore n (fun c => c.setFree wp true)).leaveSlot n k
    | none => s
  State.dropTraffic { s1 with cores := s1.cores.map (fun c => (c.1,
    { c.2.freeWaiting uid with rq := c.2.rq.filter (fun e => e.th.uid != uid) })) } uid

/-- An iteration restarts from its spawn point with its snapshot (R127, R155): in the slot and workspace it holds, under
the task sequence that the snapshot records (DESIGN CHOICE, log 60); one that waits to go on after a restoration starts
anew from the run queue. One that has not started has nothing to restart. -/
def State.restartIter (s : State) (uid : Nat) (e : RqEntry) : State :=
  match s.whereIs uid with
  | none => State.dropTraffic { s with cores := s.cores.map (fun c => (c.1,
      { c.2.freeWaiting uid with rq := mapIf (fun x => x.th.uid == uid && !x.fresh) (fun x => { e with waited := x.waited, aged := x.aged }) c.2.rq })) } uid
  | some (n, k) =>
    let wp := (s.thAt n k).homeWp
    ((s.modCore n (fun c => c.giveBack uid)).dropTraffic uid).fillSlot n k wp e

/-- An iteration restarts, and every younger one, which it created, is discarded (R127, R372). -/
def State.restartChain (s : State) (cid : Nat) (ch : Chain) (u : Nat) : State :=
  let later := (ch.iters.dropWhile (fun x => x != u)).tail
  let s1 := later.foldl (fun s x => s.dropIter x) s
  let keep := ch.iters.filter (fun x => !later.contains x)
  let s2 : State := { s1 with chains := s1.chains.set cid { ch with
    iters := keep, snaps := ch.snaps.filter (fun x => keep.contains x.1) } }
  match ch.snaps.find? (fun x => x.1 == u) with
  | none => s2
  | some (_, _, e) => s2.restartIter u e

/-- A line that a holder of a chain wrote is compared with the read sets of the younger iterations (R127): the oldest
that read it restarts from its snapshot, every younger one is discarded. -/
def State.chainWrite (s : State) (uid : Nat) (sp : Space) (line : Nat) : State :=
  match s.chainOf uid with
  | none => s
  | some (cid, ch) =>
    let young := if ch.iters.head? == some uid then ch.iters.tail else ch.iters
    let reads (u : Nat) : Bool := match s.thOf u with
      | some t => t.reads.contains (sp, line)
      | none => false
    match young.find? reads with
    | none => s
    | some u => s.restartChain cid ch u

/-- A line written at the commit of a quantum enters the written set of its round (R224). -/
def State.noteWritten (s : State) (uid : Nat) (sp : Space) (line : Nat) : State :=
  match s.ordOf uid with
  | some (id, t) =>
    let o := s.ords.get {} id
    if t.st == .committing && !o.written.contains (sp, line) then
      { s with ords := s.ords.set id { o with written := (sp, line) :: o.written } }
    else s
  | none => s

/-- The group's store to the own local memory (R21, R76, R77): direct, or into the speculative buffer of a quantum or of a
running-ahead iteration; a store at the commit of a quantum is direct and enters the written set (R224). -/
def State.doStore (s : State) (n k a : Nat) (bs : List Byte) : State :=
  let t := s.thAt n k
  if (if swOrd t.sw then s.quantumRuns t else t.spec) && !t.isPrivate n a then
    let buf := (splitLines a bs).foldl (fun b l => let m := s.keptBytes n l.1 l.2.2
      if m = 0 then b else bufPut b (.core n) l.1 l.2.1 m none 0 0) t.buf
    s.modTh n k (fun t => { t with buf := buf })
  else
    let s1 := (splitLines a bs).foldl (fun s l => s.keepRegion n t l.1) s
    let s2 := if s1.mergesBad 0 n a bs.length then
        (s1.localError n a t).modTh n k (fun t => t.refuse 12 2 (BitVec.ofNat 64 a) 0)
      else s1.storeL n a bs
    let s3 := if t.spec && !t.isPrivate n a && !s2.ords.isEmpty then (splitLines a bs).foldl (fun s l => s.noteWritten t.uid (.core n) l.1) s2 else s2
    if s3.chains.isEmpty then s3 else (splitLines a bs).foldl (fun s l => s.chainWrite t.uid (.core n) l.1) s3

/-- What follows a write by the hardware or by a group to a range of a core's local memory (R127, R224). -/
def State.noteLocal (s : State) (uid n a len : Nat) : State :=
  let ls := (List.range ((a + len - 1) / 64 + 1 - a / 64)).map (fun i => 64 * (a / 64 + i))
  let s1 := if s.ords.isEmpty then s else ls.foldl (fun s l => s.noteWritten uid (.core n) l) s
  if s1.chains.isEmpty then s1 else ls.foldl (fun s l => s.chainWrite uid (.core n) l) s1

/-- The bytes of a line that a mask enables, as runs of first byte and length. -/
def maskRuns (m : BitVec 64) : List (Nat × Nat) :=
  ((List.range 64).foldl (fun (acc : List (Nat × Nat)) i =>
    if !m.getLsbD i then acc
    else match acc with
      | (a, n) :: r => if a + n = i then (a, n + 1) :: r else (i, 1) :: (a, n) :: r
      | [] => [(i, 1)]) []).reverse

/-- An aperture store of a quantum to the thread's own workspace or named region (R109, R223): its home is the thread's
own core, and it is performed and acknowledged at once, so that a squash can undo it (R225). A refusal fills the deferred
record (R168, R363). -/
def State.privStore (s : State) (n k : Nat) (p : Packet) (d : Vec) (m : BitVec 64) : State :=
  let runs := (maskRuns m).map (fun r => (p.loc + r.1, r.2))
  if !runs.all (fun r => s.arriveOk n p.src 2 r.1 r.2) then
    (s.countNack n).modTh n k (fun t => t.refuse 8 2 p.va 0)
  else if runs.any (fun r => s.mergesBad 0 n r.1 r.2) then
    (s.localError n p.loc (s.thAt n k)).modTh n k (fun t => t.refuse 12 2 p.va 0)
  else runs.foldl (fun s r => s.storeL n r.1 (toBytes r.2 (vecNum d (r.1 - p.loc) r.2))) s

/-- A non-returning atomic of a quantum on the thread's own workspace or named region (R109, R223, R226): performed at once,
in program order among the thread's own stores, so that a squash can undo it. -/
def State.privAmo (s : State) (n k : Nat) (p : Packet) : State :=
  match p.kind with
  | .amo op size b d _ =>
    let len := 4 * 2 ^ size
    if !s.arriveOk n p.src 3 p.loc len then
      (s.countNack n).modTh n k (fun t => t.refuse 8 3 p.va 0)
    else if s.isBad 0 n p.loc len then (s.localError n p.loc (s.thAt n k)).modTh n k (fun t => t.refuse 12 3 p.va 0)
    else
      let r := amoResult op len (ofBytes (s.loadL n p.loc len)) (b.toNat % 2 ^ (8 * len)) (d.toNat % 2 ^ (8 * len))
      s.storeL n p.loc (toBytes len r.1)
  | _ => s

/-- A posted access leaves the thread (R124, R191, R223, R226, R227): its counter rises at issue; in ordered mode or a
running-ahead iteration a store outside private storage goes to the buffer, and a tdec or pf of a quantum waits for the
commit. -/
def State.doPost (s : State) (n k : Nat) (ord : Bool) (p : Packet) : State :=
  let t := s.thAt n k
  let count (s : State) : State := match p.sc with
    | none => s
    | some c => s.scAdd t c 1
  match p.kind with
  | .store d m =>
    if t.spec && !t.privLine p.space p.loc then
      (count s).modTh n k (fun t => { t with buf := bufPut t.buf p.space p.loc d m (some p.va) p.pol 1 })
    else if ord then (s.keepRegion n t p.loc).privStore n k p d m
    else ((count s).post p).2
  | .amo .. =>
    if ord && t.privLine p.space p.loc then (s.keepRegion n t (p.loc / 64 * 64)).privAmo n k p
    else if ord then (count s).modTh n k (fun t => { t with buf := t.buf ++ [.amo p] })
    else ((count s).post p).2
  | _ => if ord then (count s).addService t.uid (.post p) else ((count s).post p).2

/-- Create the next iteration of a chain (R125, R155): a child with the given registers on the next slice. A destination n0
or n1 appends the child's number to a message of the child's own. -/
def State.doSpawn (s : State) (n k d : Nat) (entry : Word) (regs : Memory) : State :=
  let t := s.thAt n k
  let cid := t.chain.getD s.nextId
  let ch : Chain := match s.chains.find? (fun c => c.1 == cid) with
    | some c => c.2
    | none => { iters := [t.uid] }
  let m := coreOfSlice (thicketOf n) ((sliceOf n + 1) % 8)
  let c := s.coreAt m
  let uid := s.nextId + 1
  let v := BitVec.ofNat 64 (t.iter + 1)
  let th : Thread := { uid := uid, ctx := t.ctx, prio := t.prio, seq := c.taskCount, lin := s.logical (hedgeOf m) t.ctx m,
                       w2 := t.w2, pc := entry, sw := fld 61 1 ||| fld 0 (swRm t.sw), home := m, chain := some cid,
                       iter := t.iter + 1 }
  let th1 := if d < 28 then th else if d = 28 then { th with comp0 := [v] } else { th with comp1 := [v] }
  let e : RqEntry := { th := th1, ahead := true, prio := t.prio, waited := c.cycles, budget := (s.coreAt t.home).budget t.homeWp,
                       regs := some (if d = 0 || decide (28 ≤ d) then regs else regs.setNum (8 * d) 8 v.toNat) }
  let s1 := s.setCore m { c with rq := c.rq ++ [e], taskCount := c.taskCount + 1 }
  let s2 : State := { s1 with
    chains := s1.chains.set cid { ch with iters := ch.iters ++ [uid], snaps := ch.snaps ++ [(uid, m, e)] }
    nextId := s1.nextId + 2 }
  (s2.modTh n k (fun t => { t with chain := some cid, spawned := true })).wrD n k d v

/-- The same barrier: launch and every field of the subgroup (R151). -/
def Barrier.same (a b : Barrier) : Bool :=
  a.launch == b.launch && a.rx == b.rx && a.ry == b.ry && a.lw == b.lw && a.lh == b.lh

/-- The hedges, as placed, that a barrier's rectangle touches (R151). -/
def State.barHedges (s : State) (h : Nat) (l : Launch) (b : Barrier) : List Nat :=
  ((List.range (2 ^ b.lh)).flatMap (fun j => (List.range (2 ^ b.lw)).filterMap (fun i =>
    (s.place h l.ctx (linOf (l.x0 + b.rx + i) (l.y0 + b.ry + j))).map hedgeOf))).eraseDups

/-- An arrival that would open a barrier in a hedge that holds 16 open ones (R151). -/
def State.barFull (s : State) (hg : Nat) (l : Launch) (b : Barrier) : Bool :=
  !s.barriers.any (fun x => x.same b && x.done.isNone)
    && (s.barHedges hg l b).any (fun h => decide (16 ≤ (s.barriers.filter (fun x => x.done.isNone
      && (match s.launches.find? (fun e => e.1 == x.launch) with
        | some e => (s.barHedges hg e.2 x).contains h
        | none => false))).length))

/-- A thread arrives at a barrier, which opens if it was not open (R151). -/
def State.arriveBar (s : State) (b : Barrier) (lin j : Nat) : State :=
  if s.barriers.any (fun x => x.same b && x.done.isNone) then
    let join (x : Barrier) : Barrier := if x.arrived.contains (lin, j) then x else { x with arrived := (lin, j) :: x.arrived }
    { s with barriers := mapIf (fun x => x.same b && x.done.isNone) join s.barriers }
  else { s with barriers := s.barriers ++ [{ b with id := s.nextId, arrived := [(lin, j)] }], nextId := s.nextId + 1 }

/-- The status that join returns for a completed launch (R150). -/
def Launch.status (l : Launch) : Word := fld 63 1 ||| fld 16 l.flt ||| fld 0 l.kill

/-- The entry of a launch is freed (R150): every join of an ordered thread that waits for it receives the status. -/
def State.freeLaunch (s : State) (id : Nat) : State :=
  match s.launches.find? (fun l => l.1 == id) with
  | none => s
  | some (_, l) =>
    let told (t : OrdTask) : OrdTask := { t with got := some (id, l.status) }
    { s with
      launches := s.launches.filter (fun x => x.1 != id)
      ords := s.ords.map (fun o => (o.1, { o.2 with tasks := mapIf (fun t => t.joins == some id) told o.2.tasks })) }

/-- Perform one action of a group's write phase for the thread of a slot; with ord, the operations of R227 are only
collected. -/
def State.act (s : State) (n k : Nat) (ord : Bool) (a : Act) : State :=
  let t := s.thAt n k
  match a with
  | .send p words compose =>
    let ws := if compose then (s.slotAt n k).comp p else words
    let s1 := if compose then s.modSlot n k (fun x => x.setComp p []) else s
    if ws.isEmpty then s1
    else if ord then s1.addService t.uid (.send p ws false)
    else s1.inject { pkg := s.pkgNo, core := n, uid := t.uid, ctx := t.ctx, sys := t.sys, lin := s.linAt n t } k p ws
  | .post p => s.doPost n k ord p
  | .call _ _ => if ord then s.addService t.uid a else s
  | .tset d v =>
    let s1 := s.keepUndo ord t.uid [.tagen (s.coreAt n).tagen]
    (s1.modCore n (fun c => { c with tagen := c.tagen ||| (v &&& ~~~(1 : Word)) })).wrD n k d (s.coreAt n).tagen
  | .tclr d v =>
    let s1 := s.keepUndo ord t.uid [.tagen (s.coreAt n).tagen]
    (s1.modCore n (fun c => { c with tagen := c.tagen &&& ~~~(v &&& ~~~(1 : Word)) })).wrD n k d (s.coreAt n).tagen
  | .tcreate d desc =>
    let r := s.createTask n t.ctx (TaskDesc.of (desc.getD 0 0) (desc.getD 1 0) (desc.getD 2 0) (!t.sys))
    r.2.wrD n k d (BitVec.ofNat 64 r.1)
  | .launch d _ desc =>
    let r := s.startLaunch (hedgeOf n) (LaunchDesc.of desc t.ctx (!t.sys))
    r.2.wrD n k d (BitVec.ofNat 64 r.1)
  | .job d kind _ _ _ node prog ended =>
    let src : Source := { pkg := s.pkgNo, core := n, uid := t.uid, ctx := t.ctx, sys := t.sys, lin := s.linAt n t }
    let r := s.submit src kind prog ended node
    r.2.wrD n k d (BitVec.ofNat 64 r.1)
  | .jcancel d id =>
    let r := s.cancelJob id.toNat t.ctx
    r.2.wrD n k d (boolWord r.1)
  | .csr num v => s.csrSet n k num v
  | .swp wp swp => s.modSlot n k (fun x => { x with swp := swp.getD x.swp, th := { x.th with wp := wp } })
  | .mbxIns row e =>
    let x := (s.keepUndo ord t.uid [(s.coreAt n).rowUndo row]).rowPut n row [e]
    let s1 := match x.1 with
      | some w => if ord then x.2.addService t.uid (.notice w) else x.2.notify n 3 w
      | none => x.2
    s1.noteLocal t.uid n ((s.coreAt n).entryAt row 0) 256
  | .mbxClr all v =>
    let rows := if all.getLsbD 6 then List.range 64 else [bits all 5 0]
    rows.foldl (fun s r => s.noteLocal t.uid n ((s.coreAt n).entryAt r 0) 256)
      ((s.keepUndo ord t.uid (rows.map (fun r => (s.coreAt n).rowUndo r))).modCore n (fun c => c.clearRows rows (fld 32 (bits v 15 0))))
  | .tags tg ptr =>
    (s.keepUndo ord t.uid [.tags (s.coreAt n).tags (s.coreAt n).scptr]).modCore n (fun c => { c with tags := tg, scptr := ptr })
  | .notice w => s.notify n 3 w
  | .fenceI => s.modHedge (hedgeOf n) (fun h => { h with icache := [] })
  | .spawna d entry regs => s.doSpawn n k d entry regs
  | .respawn d entry =>
    (s.modTh n k (fun t => { t with spawned := true, respawn := some (d, entry) })).wrD n k d (BitVec.ofNat 64 (t.iter + 1))
  | .baton => (s.leaveChain t .done).modTh n k (fun t => { t with chain := none, iter := 0 })
  | .claim p id => s.modCore n (fun c => c.setRx p (rxClaim (c.rx p) id k))
  | .resume d key kill =>
    let c := s.coreAt n
    match (c.park.filter (fun x => x.key == key.extractLsb' 0 32)).foldl (fun best x => match best with
        | none => some x
        | some (b : Parked) => if x.th.homeWp < b.th.homeWp then some x else some b) none with
    | none => s.wrD n k d 0
    | some x =>
      let s1 := s.setCore n { c with park := c.park.filter (fun y => y != x) }
      if kill then (s1.endTask x.th .killed).wrD n k d 2
      else (s1.requeue x.th true).wrD n k d 1
  | .barArrive b lin j => s.arriveBar b lin j
  | .joinDone id => if ord then s.addService t.uid a else s.freeLaunch id
  | .barPass b lin j =>
    if ord then s.addService t.uid a else
    let bs := mapIf (fun x => x.same b && x.done.isSome) (fun x => { x with passed := (lin, j) :: x.passed }) s.barriers
    let left := bs.filter (fun x => !(x.same b && x.done.isSome && x.arrived.all (fun m => x.passed.contains m)))
    { s with barriers := left }
  | _ => s

/-! ### The control actions that end a group (R145, R146, R354, R355, R359, R361) -/

/-- A system-mode texit ends the task of the frame that it has read, whose workspace is wp (R361). -/
def State.faultTask (s : State) (n k wp : Nat) : State :=
  ((s.endTask { s.thAt n k with homeWp := wp } .faulted).leaveSlot n k)

/-- texit in user mode (R145, R155, R222); at a guest the guest's workspace is given back with the home workspace (R129). -/
def State.texit (s : State) (n k : Nat) : State :=
  let t := s.thAt n k
  match t.respawn with
  | some (d, entry) =>
    (s.modTh n k (fun t => { t with pc := entry, respawn := none, spawned := false, iter := t.iter + 1 })).wrD n k d
      (BitVec.ofNat 64 (t.iter + 1))
  | none =>
    let s1 := if (s.slotAt n k).st == .guest then s.modCore n (fun c => c.setFree t.wp true) else s
    ((s1.endTask t .done).leaveSlot n k)

/-- The thread of a guest slot is to go home (R129): for a trap, or by a yield, whose place in the home's run queue it then
takes (R146). Nothing issues meanwhile (R120). -/
def State.sendHome (s : State) (n k : Nat) (fx : Fx) : State :=
  s.modSlot n k (fun x => { x with hold := some (.goHome, fx), stalled := true })

/-- A trap that a guest raises (R357): it returns home as R129 states and takes the trap when it next issues there. -/
def State.trapGuest (s : State) (n k : Nat) (i : TrapInfo) : State :=
  (s.modTh n k (fun t => { t with trapNext := some i })).sendHome n k {}

/-- Perform the control action of a group. -/
def State.control (s : State) (n k : Nat) (a : Act) : State :=
  match a with
  | .texit => s.texit n k
  | .texitAs wp => s.faultTask n k wp
  | .yield => if (s.slotAt n k).st == .guest then s.sendHome n k { ctl := some .yield } else s.yield n k
  | .trapSvc num addr =>
    let t := s.thAt n k
    let i : TrapInfo := { code := 16, info := num, addr := addr }
    if (s.slotAt n k).st == .guest then (s.trapGuest n k i).modSlot n k (fun x => { x with stalled := false }) else s.takeTrap n k i (addr + 4) t.sw
  | .rft pc sw wp => s.rftReturn n k pc sw wp
  | .park key pc sw wp =>
    let t := s.thAt n k
    let b := wsBase wp
    let s1 := (s.pokeW n (b + 768) pc).pokeW n (b + 776) sw
    (s1.modCore n (fun c => { c with park := ⟨key.extractLsb' 0 32, { t with wp := wp, homeWp := wp }⟩ :: c.park })).freeSlot n k
  | _ => s

/-! ### The write phase (R21) -/

/-- Pop the ports of a group; an ordered quantum keeps what it popped for a squash (R225). -/
def State.doPop (s : State) (n k p : Nat) : State :=
  let t := s.thAt n k
  let c := s.coreAt n
  let s1 := if swOrd t.sw && !t.sys then
      match p with
      | 0 | 1 => match c.portMsg t k p with
        | some m => s.modOrd t.uid (fun o => if o.kept.any (fun x => x.1 == p && x.2.id == m.id) then o
            else { o with kept := o.kept ++ [(p, m)] })
        | none => s
      | _ => s.modOrd t.uid (fun o => { o with kept23 := o.kept23 ++ [(p, (c.portHead t k p).getD 0)] })
    else s
  s1.modCore n (fun c => c.portPop t k p)

/-- Register destinations and port appends (R21); one whose value completes late waits in the slot (R19, R61). -/
def State.doWrite (s : State) (n k : Nat) (late : Bool) (w : Nat × Word) : State :=
  if late && decide (w.1 < 28) then s.modSlot n k (fun x => { x with pend := x.pend ++ [.w x.th.wp w.1 w.2] })
  else s.wrD n k w.1 w.2

/-- Vector destinations. -/
def State.doVwrite (s : State) (n k : Nat) (late : Bool) (w : Nat × Vec) : State :=
  if late then s.modSlot n k (fun x => { x with pend := x.pend ++ [.v x.th.wp w.1 w.2] })
  else s.setVreg n (s.thAt n k).wp w.1 w.2

/-- Flags, warnings and the pending prefix after a group (R31, R36, R57). -/
def State.doStatus (s : State) (n k : Nat) (fx : Fx) : State :=
  s.modTh n k (fun t => { t with sw := swPend (swWarn (t.sw ||| flBits fx.fl) fx.warn) fx.pfx })

/-- PC and counters after a group (R21, R70). A handler's groups do not count as the task's: counter 1 is the quantum's own
count (R222), which no trap changes, and every run gives it the same value (R232; DEDUCED, log 61). -/
def State.doAdvance (s : State) (n k : Nat) (fx : Fx) : State :=
  s.modSlot n k (fun x => { x with
    stalled := false
    th := { x.th with
      pc := fx.next.getD (x.th.pc + BitVec.ofNat 64 (4 * fx.sylls))
      synret := if x.th.sys then x.th.synret else x.th.synret + fx.sylls
      grpret := if x.th.sys then x.th.grpret else x.th.grpret + 1 } })

/-- The quantum of an ordered thread counts the group and may end after it (R222); a group whose control action gives up the
slot or enters a handler leaves that first, and the thread stops when it would next issue in user mode. -/
def State.doQuantum (s : State) (n k : Nat) (fx : Fx) (ord : Bool) : State :=
  let t := s.thAt n k
  if !ord then s else
    match s.ordOf t.uid with
    | none => s
    | some (id, o) =>
      let q := 2 ^ (s.ords.get {} id).lgq
      let ends := fx.endQ || decide (q ≤ o.count + fx.sylls) || o.st == .committing
      let s1 := s.modOrd t.uid (fun o =>
        let o1 := { o with count := o.count + fx.sylls }
        if ends then o1.ends else o1)
      if ends && fx.ctl.isNone then s1.modSlot n k (fun x => { x with hold := some (.commit, {}) }) else s1

/-- The lines that the ranges a group loads touch; each range lies in one line. -/
def readLines (rs : List (Space × Nat × Nat)) : List (Space × Nat) := rs.map (fun r => (r.1, r.2.1 / 64 * 64))

/-- The lines a load reads enter the read set (R126, R223). -/
def State.doReads (s : State) (n k : Nat) (rs : List (Space × Nat × Nat)) : State :=
  if rs.isEmpty then s
  else s.modTh n k (fun t => { t with reads := (readLines rs).foldl (fun l r => if l.contains r then l else l ++ [r]) t.reads })

/-- Translations that the group's accesses used are kept in the hedge's cache (R186). -/
def State.doTlb (s : State) (n : Nat) (es : List TlbEntry) : State :=
  if es.isEmpty then s else s.modHedge (hedgeOf n) (fun h => es.foldl Hedge.install h)

/-- The write phase of a group on a slot (R21): with late, registers of syllables that complete after issue are written
later, unless the group stores; pops, register writes and appends, a CSR write, status, the store, the
other actions, PC and counters, then the control action. -/
def State.perform (s : State) (n k : Nat) (fx : Fx) (late : Bool) : State :=
  let ord := s.quantumRuns (s.thAt n k)
  let defer := late && fx.st.isEmpty && fx.acts.isEmpty
  let s1 := fx.pops.foldl (fun s p => s.doPop n k p) s
  let s2 := fx.wr.foldl (fun s w => s.doWrite n k (defer && fx.late.contains w.1) w) s1
  let s3 := fx.vwr.foldl (fun s w => s.doVwrite n k defer w) s2
  let s4 := match fx.csr with
    | some (num, v) => s3.csrSet n k num v
    | none => s3
  let s5 := s4.doStatus n k fx
  let s6 := fx.st.foldl (fun s w => s.doStore n k w.addr w.bytes) s5
  let s7 := fx.acts.foldl (fun s a => s.act n k ord a) s6
  let s8 := s7.doAdvance n k fx
  let s9 := s8.doQuantum n k fx (swOrd (s.thAt n k).sw && !(s.thAt n k).sys)
  match fx.ctl with
  | some a => State.control (if (s9.slotAt n k).pend.isEmpty then s9 else s9.flushPend n k) n k a
  | none => s9

/-! ### Groups that wait with their effects held (R150, R151, R193) -/

/-- An arrival at a barrier: it counts when the group begins to wait, not again when it is performed (R151). -/
def Act.isArrival (a : Act) : Bool := match a with
  | .barArrive .. => true
  | _ => false

/-- A group begins to wait with its effects held (R193): the words that it pops stay held for it at the heads of their
queues, and a header that its btag uses is claimed (R141). -/
def State.waitWith (s : State) (n k : Nat) (h : Hold) (fx : Fx) : State :=
  let t := s.thAt n k
  let claims := fx.acts.filterMap (fun a => match a with
    | .claim p _ => some p
    | _ => none)
  (s.modCore n (fun c => (fx.pops ++ claims).eraseDups.foldl (fun c p => c.holdPort t k p) c)).modSlot n k
    (fun x => { x with hold := some (h, fx), stalled := false })

/-- The effects of a held group with the value that a reply or an event brings (R76, R191, R198, R154). -/
def Fx.withReply (fx : Fx) (v : Vec) (fl : Flags) : Fx :=
  let f := { fx with fl := fx.fl.or fl, req := none, holdOn := none, acts := fx.acts.filter (fun a => !a.isArrival) }
  match fx.dst with
  | .none => f
  | .reg d w sg => { f with wr := f.wr ++ [(d, if sg then ofInt (signedOf w (bits v 63 0)) else BitVec.ofNat 64 (bits v 63 0 % 2 ^ w))] }
  | .vec d => { f with vwr := f.vwr ++ [(d, v)] }
  | .pair d => { f with wr := f.wr ++ [(d, v.extractLsb' 0 64), (d + 1, v.extractLsb' 64 64)] }
  | .item d off =>
    let f1 := { f with wr := f.wr ++ [(d, v.extractLsb' 0 64)] }
    if v.extractLsb' 0 64 = 0 then f1 else { f1 with st := f1.st ++ [{ addr := off, bytes := toBytes 64 v.toNat }] }

/-- A held group is performed with the value it waited for. -/
def State.completeHold (s : State) (n k : Nat) (v : Vec) (fl : Flags := {}) : State :=
  match (s.slotAt n k).hold with
  | none => s
  | some (_, fx) => ((s.modSlot n k (fun x => { x with hold := none })).modCore n (fun c => c.popHeld (s.thAt n k).uid)).perform n k
      (fx.withReply v fl) false

/-- Every group held for a reason is performed with the same value. -/
def State.completeAll (s : State) (p : Hold → Bool) (v : Vec) : State :=
  let who := s.cores.flatMap (fun c => c.2.slots.filterMap (fun e => match e.2.hold with
    | some (h, _) => if p h then some (c.1, e.1) else none
    | none => none))
  who.foldl (fun s w => s.completeHold w.1 w.2 v) s

/-- The members of a barrier's subgroup: every launch task placed on its cores (R151). -/
def Launch.members (l : Launch) (b : Barrier) : List (Nat × Nat) :=
  (List.range (2 ^ b.lh)).flatMap (fun j => (List.range (2 ^ b.lw)).flatMap (fun i =>
    (List.range l.thr).map (fun k => (linOf (l.x0 + b.rx + i) (l.y0 + b.ry + j), k))))

/-- Whether every member has arrived or ended (R151). -/
def Launch.allIn (l : Launch) (b : Barrier) (arrived : List (Nat × Nat)) : Bool :=
  (l.members b).all (fun m => arrived.contains m || l.ended.contains m)

/-- The members that had ended (R151). -/
def Launch.endedIn (l : Launch) (b : Barrier) : Nat := ((l.members b).filter (fun m => l.ended.contains m)).length

/-- The number by which a slot waits at a barrier: launch and subgroup fields. -/
def Barrier.key (b : Barrier) : Nat := 2 ^ 18 * b.launch + b.rx + 64 * b.ry + 4096 * b.lw + 32768 * b.lh

/-- A barrier whose members have all arrived or ended completes (R151): its waiters receive the number that ended. -/
def State.settleBar (s : State) (b : Barrier) : State :=
  match s.launches.find? (fun l => l.1 == b.launch) with
  | none => s
  | some (_, l) =>
    if !l.allIn b b.arrived || b.done.isSome then s
    else if l.ord then
      { s with barriers := mapIf (fun x => x.id == b.id) (fun x => { x with done := some (l.endedIn b) }) s.barriers }
    else
      State.completeAll { s with barriers := s.barriers.filter (fun x => x.id != b.id) } (fun h => h == .bar b.key)
        (BitVec.ofNat 512 (l.endedIn b))

/-- A launch that has completed and is awaited (R150): every waiting join receives the status, the entry is freed. -/
def State.settleJoin (s : State) (id : Nat) : State :=
  match s.launches.find? (fun l => l.1 == id) with
  | none => s
  | some (_, l) =>
    if l.counter != 0 then s
    else (s.freeLaunch id).completeAll (fun h => h == .join id) (BitVec.ofNat 512 l.status.toNat)

/-- What a group waits for may already be there (R150, R151). -/
def State.settle (s : State) (h : Hold) : State :=
  match h with
  | .join id => s.settleJoin id
  | .bar k => match s.barriers.find? (fun b => b.key == k && b.done.isNone) with
    | some b => s.settleBar b
    | none => s
  | _ => s

/-- The arrival of a group that holds (R151). -/
def State.arrive (s : State) (_n _k : Nat) (a : Act) : State :=
  match a with
  | .barArrive b lin j => s.arriveBar b lin j
  | _ => s

/-- The arrival of an ordered thread counts at the commit of its quantum (R227, R228). -/
def State.arriveLater (s : State) (n k : Nat) (a : Act) : State :=
  match a with
  | .barArrive .. => s.addService (s.thAt n k).uid a
  | .joinWait id => s.modOrd (s.thAt n k).uid (fun o => { o with joins := some id })
  | _ => s

/-! ### The checks of a group in order (R33, R126, R134, R138, R139, R222, R350) -/

/-- The group leaves no trace but the note that its slot is stalled (R107). -/
def State.stallAt (s : State) (n k : Nat) : State := s.modSlot n k (fun x => { x with stalled := true })

/-- The quantum of an ordered thread ends before the group (R222): a wait of the group is retried at each later round
start (R228). -/
def State.cutQuantum (s : State) (n k : Nat) (waits : Bool) : State :=
  (s.modOrd (s.thAt n k).uid (fun o => { o.ends with waits := waits })).modSlot n k (fun x => { x with hold := some (.commit, {}), stalled := true })

/-- The composition buffer of port p after the group's appends. -/
def composed (x : Slot) (fx : Fx) (p : Nat) : List Word :=
  x.comp p ++ (fx.wr.filter (fun w => w.1 == 28 + p)).map (fun w => w.2)

/-- The words that a destination will append to the buffer of port p. -/
def Dst.appends (d : Dst) (p : Nat) : Nat :=
  match d with
  | .reg d _ _ | .item d _ => if d = 28 + p then 1 else 0
  | _ => 0

/-- The words that results of a quantum's services will append to the buffer of port p at its commit (R227). -/
def OrdTask.owes (o : OrdTask) (p : Nat) : Nat :=
  (o.services.map (fun a => match a with
    | .call _ dst => dst.appends p
    | _ => 0)).sum

/-- A 17th word (R134): the append that would make it takes the address trap. A reply's value, one that the quantum's
commit will bring, and the number that the next iteration of an ordered thread receives at texit (R155) count as appends. -/
def State.overflowTrap (s : State) (x : Slot) (fx : Fx) (p : Nat) : Option TrapInfo :=
  let owed := if x.th.sys || !swOrd x.th.sw then 0 else match s.ordOf x.th.uid with
    | some (_, o) => o.owes p
    | none => 0
  let w := composed x fx p
  let again := match fx.ctl, x.th.respawn with
    | some .texit, some (d, _) => if d = 28 + p && !x.th.sys then 1 else 0
    | _, _ => 0
  let later := fx.dst.appends p + again
  let adds := later + (fx.wr.filter (fun w => w.1 == 28 + p)).length
  if 0 < adds && decide (16 < w.length + later + owed) then some { code := 4, addr := w.headD 0 } else none

/-- The checks of a send (R138, R139, R362): the header, then a full outgoing queue; info is the number of words composed
before the group, which is unperformed (R348, R381). A group that composes the whole message, or a sendv, gives the words
of that message, since info is never 0 (DESIGN CHOICE, log 74). -/
def State.sendTrap (s : State) (n k : Nat) (fx : Fx) : Option TrapInfo :=
  let x := s.slotAt n k
  fx.acts.findSome? (fun a => match a with
    | .send p words compose =>
      let w := if compose then composed x fx p else words
      match w with
      | [] => none
      | h :: _ =>
        if !s.headerOk (hedgeOf n) x.th h then some { code := 4, acc := 5, addr := h }
        else if p = 0 && x.th.tag != 0 && decide (32 ≤ s.outgoing n 0) && !(swOrd x.th.sw && !x.th.sys) then
          some { code := 10, acc := 5, addr := h, info := if compose && !(x.comp p).isEmpty then (x.comp p).length else w.length }
        else none
    | _ => none)

/-- A send must wait for room in its outgoing queue (R138, R139). -/
def State.sendFull (s : State) (n k : Nat) (fx : Fx) : Bool :=
  let x := s.slotAt n k
  fx.acts.any (fun a => match a with
    | .send p words compose =>
      !(if compose then composed x fx p else words).isEmpty && decide (32 ≤ s.outgoing n p) && !(swOrd x.th.sw && !x.th.sys)
    | _ => false)

/-- The new line positions of the speculative buffer that a group's stores need (R126, R222, R223). -/
def State.newLines (s : State) (n k : Nat) (fx : Fx) : Nat :=
  let t := s.thAt n k
  if !t.spec then 0 else
    let old : List Nat := match s.ordOf t.uid with
      | some (_, o) => o.regionOld.map (fun r => r.1)
      | none => []
    let need (sp : Space) (line : Nat) : Nat :=
      if t.privLine sp line then (if swOrd t.sw && line / 1024 != t.homeWp && !old.contains line then 1 else 0)
      else if bufFinds t.buf sp line then 0 else 1
    let lines := (fx.st.flatMap (fun w => (splitLines w.addr w.bytes).map (fun l => l.1))).eraseDups
    let a : Nat := (lines.map (fun l => need (.core n) l)).sum
    let b : Nat := (fx.acts.map (fun x => match x with
      | .post p => (match p.kind with
        | .store _ _ => need p.space p.loc
        | .amo .. => if t.privLine p.space p.loc then need p.space (p.loc / 64 * 64) else 1
        | _ => 0)
      | _ => 0)).sum
    if a + b = 0 then 0 else a + b + t.bufUsed + old.length

/-- Whether the group needs a 65th line or read-set entry (R126, R222). -/
def State.specFull (s : State) (n k : Nat) (fx : Fx) : Bool :=
  let t := s.thAt n k
  let new := (readLines fx.reads).eraseDups.filter (fun r => !t.reads.contains r)
  t.spec && (decide (64 < s.newLines n k fx) || (!new.isEmpty && decide (64 < t.reads.length + new.length)))

/-- Whether a load of the group reads bytes that a held atomic targets (R222). -/
def readsHeld (t : Thread) (rs : List (Space × Nat × Nat)) : Bool :=
  rs.any (fun r => t.buf.any (fun e => match e with
    | .amo p => (match p.kind with
      | .amo _ size .. => p.space == r.1 && meets p.loc (4 * 2 ^ size) r.2.1 r.2.2
      | _ => false)
    | .line .. => false))

/-- The group acts on what the threads of its core share (R232): it pops an input queue or waits for a word there, claims a
message, or changes TAGEN, the tag table or a mailbox row. -/
def Fx.shares (fx : Fx) : Bool :=
  fx.portWait || !fx.pops.isEmpty || fx.acts.any (fun a => match a with
    | .claim .. | .tset .. | .tclr .. | .tags .. | .mbxIns .. | .mbxClr .. => true
    | _ => false)

/-- A lower ordinal of the same round still runs its quantum on this core (R224, R232): what the core's threads share is
used in the order of the ordinals. -/
def State.lowerRuns (s : State) (n uid : Nat) : Bool :=
  s.ords.any (fun o => match o.2.tasks.find? (fun t => t.uid == uid) with
    | some me => o.2.tasks.any (fun t => t.core == n && decide (t.ordinal < me.ordinal) && (t.st == .running || t.st == .rerun))
    | none => false)

/-- Commit a group whose syllables have all been staged (R21, R33, R350): stop at the first failing check, or send the
blocking access, or perform the write phase. -/
def State.commit (s0 : State) : Host.Outcome State Fault Refusal :=
  let fx : Fx := { s0.grp.fx with sylls := s0.grp.idx, pfx := s0.grp.pfx }
  let n := s0.core
  let k := s0.slot
  let s : State := { s0 with grp := {} }
  let x := s.slotAt n k
  let t := x.th
  let ra := swRa t.sw && !t.sys
  let ord := swOrd t.sw && !t.sys
  let trapAt (i : TrapInfo) : State :=
    if ra then s.stallAt n k else
      let s1 := match fx.rep with
        | some (id, ctx) => if i.code = 11 then s.modJob id ctx (fun j => { j with rep := true }) else s
        | none => s
      let s2 := if i.code = 12 && (fx.pre.isNone || i.acc == 4) then
          if i.info = 1 then s1.walkError i.pa t.ctx t.tid
          else if i.acc = 4 then s1.postError (errRecord (s.devKind i.pa) 1 i.pa t.ctx (stackUnit i.pa) t.tid)
          else s1.postError (errRecord (s.localKind n i.addr.toNat 8) 1 i.addr.toNat t.ctx (unitOf n k) t.tid)
        else s1
      if x.st == .guest then s2.trapGuest n k i else s2.takeTrap n k i t.pc t.sw
  match fx.pre with
  | some i => .next (trapAt i)
  | none =>
  if fx.home then .next (s.sendHome n k {})
  else match fx.brk with
  | some i => .next (trapAt i)
  | none =>
  if fx.stall then
    let s1 := match fx.missAt with
      | some page => s.joinMiss (hedgeOf n) t.ctx page
      | none => s
    let s2 := match fx.claimAt with
      | some a => s1.recallFar (.core n) a.1 a.2
      | none => s1
    .next (match fx.claimAt with
      | some a => (s2.stallAt n k).modSlot n k (fun x => { x with waitAt := some a })
      | none => s2.stallAt n k)
  else if ord && fx.shares && s.lowerRuns n t.uid then .next (s.stallAt n k)
  else if fx.portWait then .next (if ord then s.cutQuantum n k true else s.stallAt n k)
  else match fx.trap <|> s.overflowTrap x fx 0 <|> s.overflowTrap x fx 1 <|> s.sendTrap n k fx with
  | some i => .next (trapAt i)
  | none =>
  if fx.full || s.sendFull n k fx || (fx.baton && ra) then .next (s.stallAt n k)
  else if fx.wait then
    .next (if ord then (fx.acts.foldl (fun s a => s.arriveLater n k a) s).cutQuantum n k true else s.stallAt n k)
  else if s.specFull n k fx || (ord && (fx.cut || readsHeld t fx.reads)) then
    .next (if ord then s.cutQuantum n k false else s.stallAt n k)
  else
    let s1 := (s.doReads n k fx.reads).doTlb n fx.tlb
    match fx.holdOn with
    | some .commit => .next ((s1.modOrd t.uid OrdTask.ends).waitWith n k .commit fx)
    | some h => .next (((fx.acts.foldl (fun s a => s.arrive n k a) s1).waitWith n k h fx).settle h)
    | none =>
    match fx.req with
    | some p =>
      let r := s1.post p
      .next (r.2.waitWith n k (.reply r.1) fx)
    | none => .next (s1.perform n k fx s0.late)

/-- End a syllable: commit the group if it is the last one, else keep what is staged (R21, R30, R36). -/
def State.finish (s : State) (fx : Fx) (pfx : Option (BitVec 24) := none) : Host.Outcome State Fault Refusal :=
  if s.grp.left = 0 then State.commit { s with grp := { left := 0, idx := s.grp.idx + 1, pfx := pfx, fx := fx } }
  else .next { s with grp := { left := s.grp.left - 1, idx := s.grp.idx + 1, pfx := pfx, fx := fx } }

end Sys2Proof.Machine
end

