-- ==== Sys2Proof/Machine/Local.lean ====
section
/-! DEFINITION. Local loads and stores (04 R76-R77) and the checks that every access to the own local memory shares. -/

namespace Sys2Proof.Machine

/-- A load of a range of local memory must wait: a running job, of this package or another, has claimed it as a
destination (R77, R216). -/
def State.claimedL (s : State) (n a len : Nat) : Bool :=
  s.jobs.any (fun j => j.claims.any (fun c => c.loc && c.pkg == s.pkgNo && c.core == n && meets (64 * c.sector) 64 a len))
    || s.farClaims.any (fun c => c.space == .core n && meets c.addr 64 a len)

/-- A store to a range of local memory must wait: it is claimed, or a running job still reads it (R77, R218). -/
def State.lockedL (s : State) (n a len : Nat) : Bool :=
  s.claimedL n a len || s.jobs.any (fun j => !j.rests && !j.finished && j.locks.any (fun l => l.1 == n && meets l.2.1 (l.2.2 - l.2.1) a len))

/-- What a speculating thread reads of its core's local memory outside private storage, line by line (R106, R126, R223). -/
def State.localReads (s : State) (a n : Nat) : List (Space × Nat × Nat) :=
  if !s.th.spec then [] else
    (List.range ((a + n - 1) / 64 + 1 - a / 64)).filterMap (fun i =>
      let lo := Nat.max a (64 * (a / 64 + i))
      if s.th.isPrivate s.core lo then none else some (.core s.core, lo, Nat.min (a + n) (64 * (a / 64 + i) + 64) - lo))

/-- The address check of a local access, then the alignment check, in the order of R76. -/
def State.localCheck (s : State) (ea : Int) (n al acc : Nat) (fx : Fx) : Fx :=
  let bad := decide (ea < 0) || decide ((localBytes : Int) < ea + n)
  s.trapFx (s.trapFx fx bad 4 acc (ofInt ea)) (!bad && ea % al != 0) 5 acc (ofInt ea)

/-- The checks of a load of the own local memory: addresses, then an uncorrectable error (R369), and the wait of R216. -/
def State.loadCheck (s : State) (ea : Int) (n al : Nat) (fx : Fx) : Fx :=
  let a := ea.toNat
  let fx1 := s.localCheck ea n al 1 fx
  let ok := fx1.trap.isNone
  let fx2 := s.trapFx fx1 (ok && s.isBad 0 s.core a n) 12 1 (ofInt ea)
  { fx2 with
    stall := fx2.stall || (ok && s.claimedL s.core a n)
    claimAt := if ok && s.claimedL s.core a n then some (a, n) else fx2.claimAt
    reads := if ok then fx2.reads ++ s.localReads a n else fx2.reads }

/-- The checks of a store to the own local memory: addresses, then R14, and the wait of R77. -/
def State.storeCheck (s : State) (ea : Int) (n al : Nat) (fx : Fx) : Fx :=
  let a := ea.toNat
  let fx1 := s.localCheck ea n al 2 fx
  let ok := fx1.trap.isNone
  let refused := if s.th.sys then none else firstRefused (s.bound s.core) a n
  let fx2 := s.trapFx fx1 (ok && refused.isSome) 3 2 (BitVec.ofNat 64 (refused.getD 0))
  { fx2 with
    stall := fx2.stall || (ok && s.lockedL s.core a n)
    claimAt := if ok && s.claimedL s.core a n then some (a, n) else fx2.claimAt }

/-- The value of a load of n bytes, extended (R76). -/
def extendLoad (n : Nat) (signed : Bool) (v : Nat) : Word :=
  if signed then ofInt (signedOf (8 * n) v) else BitVec.ofNat 64 v

/-- The size in bytes of an ldl function (R76). -/
def ldlSize (f : BitVec 3) : Nat := match f.toNat with | 0 | 1 => 1 | 2 | 3 => 2 | 4 | 5 => 4 | _ => 8
/-- Whether an ldl function extends the sign (R76). -/
def ldlSigned (f : BitVec 3) : Bool := f == 1 || f == 3 || f == 5

/-- The words of the frame in the current workspace, with the error check of their reads (R355, R359, R369). -/
def State.frameFx (s : State) (fx : Fx) : Fx :=
  let a := wsBase s.th.wp + 784
  s.trapFx fx (s.isBad 0 s.core a 48) 12 1 (BitVec.ofNat 64 a)

/-- ldl (R76): the value is read in the read phase. -/
def execLdl (f : BitVec 3) (d a : Reg) (off : BitVec 12) (s : State) : Host.Outcome State Fault Refusal :=
  let ea : Int := (s.val a).toNat + sOff off
  let n := ldlSize f
  let fx := s.loadCheck ea n n (s.use a (s.illegal (f == 7) s.fx0))
  s.finish ((s.put d (extendLoad n (ldlSigned f) (s.localNum s.core s.th ea.toNat n)) fx).later d)

/-- stl (R76): the low bytes of D are stored in the write phase, after the group's register writes. A store that must
merge with an uncorrectable granule is not performed and fills the deferred record (R369, log 25). -/
def execStl (f : BitVec 3) (d a : Reg) (off : BitVec 12) (s : State) : Host.Outcome State Fault Refusal :=
  let ea : Int := (s.val a).toNat + sOff off
  let n := 2 ^ f.toNat
  let fx := s.storeCheck ea n n (s.use d (s.use a (s.illegal (decide (3 < f.toNat)) s.fx0)))
  s.finish { fx with st := fx.st ++ [{ addr := ea.toNat, bytes := toBytes n (s.val d).toNat }] }

end Sys2Proof.Machine
end

