-- ==== Sys2Proof/Machine/Access.lean ====
section
/-! DEFINITION. What the instructions that reach beyond the core share (08 R161-R162, 09 R191-R194, 10 R208): checks,
packets, stores, release waits and counters. -/

namespace Sys2Proof.Machine

/-- The checks of a global access of the issuing thread (R162): acc 1 load, 2 store, 3 read-modify-write. -/
def State.global (s : State) (ea : Int) (n acc : Nat) : Res := s.resolve s.hg s.th.ctx s.th.sys ea n acc

/-- Stage what the checks found. -/
def Res.stage (r : Res) (fx : Fx) : Fx :=
  match r with
  | .ok _ tl => { fx with tlb := fx.tlb ++ tl }
  | .trap t => fx.trapIf true t
  | .wait page => { fx.stallIf true with missAt := fx.missAt <|> some page }

/-- The place an access may go to. -/
def Res.place? : Res → Option Place
  | .ok p _ => some p
  | _ => none

/-- An access of the issuing thread on its way to a place (R191): reads and atomics keep the exact address. -/
def State.packet (s : State) (p : Place) (va : Word) (kind : PKind) : Packet :=
  { src := s.source, home := p.home, space := p.space, va := va, loc := p.addr va, pol := p.pol, kind := kind }

/-- A store of n bytes within one line (R191, R192): the line, its bytes and their mask. -/
def State.storePacket (s : State) (p : Place) (va : Word) (n v : Nat) (k : Nat) : Packet :=
  let a := p.addr va
  { s.packet p va (.store (vecAt (a % 64) (v % 2 ^ (8 * n))) (byteMask (a % 64) n)) with loc := a / 64 * 64, sc := some k }

/-- A scoreboard counter of the thread cannot rise further (R124). -/
def State.scFull (s : State) (k : Nat) : Bool := (s.coreAt s.th.home).sc s.th.homeWp k == 65535

/-- A job of a thread has not reached a terminal state (R203). -/
def State.jobsOpen (s : State) (uid : Nat) : Bool := s.jobs.any (fun j => j.uid == uid && j.holds)

/-- In ordered mode, in user mode. -/
def State.ordered (s : State) : Bool := swOrd s.th.sw && !s.th.sys
/-- Running ahead, in user mode. -/
def State.ahead (s : State) : Bool := swRa s.th.sw && !s.th.sys

/-- The wait of a fence of scope k (R203), which is release_wait for k = 5 (R194). A store that a running-ahead iteration
holds in its buffer has not been acknowledged; those of an ordered quantum follow R223 instead (R194). -/
def State.fenceOpen (s : State) (k : Nat) : Bool :=
  s.unacked s.th.uid s.core k || s.jobsOpen s.th.uid || (s.ahead && !s.th.buf.isEmpty)

/-- The syllable waits until a running-ahead iteration holds the baton (R126, R132). -/
def Fx.onBaton (fx : Fx) : Fx := { fx with baton := true }

/-- Stage the bytes that a load of n bytes reads outside private storage (R126, R223). -/
def State.noteRead (s : State) (p : Place) (va : Word) (n : Nat) (fx : Fx) : Fx :=
  let a := p.addr va
  if s.th.spec && !s.th.privLine p.space (a / 64 * 64) then { fx with reads := fx.reads ++ [(p.space, a, n)] } else fx

/-- Stage a blocking load of n bytes into a destination (R191, R193). -/
def State.loadFrom (s : State) (r : Res) (va : Word) (n : Nat) (dst : Dst) (fx : Fx) : Fx :=
  match r.place? with
  | none => r.stage fx
  | some p => { s.noteRead p va n (r.stage fx) with req := some (s.packet p va (.load n)), dst := dst }

/-- Stage a posted store of n bytes counted on sc0 (R191). -/
def State.storeTo (s : State) (r : Res) (va : Word) (n v : Nat) (rel : Bool) (fx : Fx) : Fx :=
  let fx1 := r.stage fx
  let fx2 := { fx1 with full := fx1.full || s.scFull 0 || (rel && s.fenceOpen 5) }
  match r.place? with
  | none => fx2
  | some p =>
    let mine := s.ordered && s.th.privLine p.space (p.addr va / 64 * 64)
    { fx2 with
      stall := fx2.stall || (mine && s.lockedL s.core (p.addr va) n)
      claimAt := if mine && s.claimedL s.core (p.addr va) n then some (p.addr va, n) else fx2.claimAt
      acts := fx2.acts ++ [.post (s.storePacket p va n v 0)] }

/-- The package, core and local offset that an offset in the layout of R164 names. -/
def State.coordPlace (s : State) (a : Word) : Place :=
  if bits a 35 29 = s.pkgNo then .loc (s.place s.hg s.th.ctx (linOf (bits a 22 17) (bits a 28 23))) (bits a 16 0)
  else .remote (bits a 35 29) true

/-- What a home holds now for n bytes, with the thread's own buffered bytes over it (R223); none for another package. -/
def State.peek (s : State) (p : Place) (va : Word) (n : Nat) : Option Nat :=
  let a := p.addr va
  let line := a / 64 * 64
  let overlaid (v : Nat) : Nat := if s.th.buf.isEmpty then v else vecNum (bufOver s.th.buf p.space line (vecAt (a % 64) v)) (a % 64) n
  match p with
  | .loc (some m) off => some (overlaid (ofBytes (s.loadL m off n)))
  | .dev pa _ => some (overlaid (s.devNum pa n))
  | .host pa => some (overlaid (s.hostNum pa n))
  | _ => none

end Sys2Proof.Machine
end

