-- ==== Sys2Proof/Machine/Atomic.lean ====
section
/-! DEFINITION. The atomics (09 R197-R201). -/

namespace Sys2Proof.Machine

/-- The operations that the path to host memory carries (R197): add, and, or, xor, swap, and cas but for .q. -/
def hostClass (op size : Nat) : Bool := decide (op ≤ 3) || op == 8 || (op == 9 && size != 2)

/-- The operand a field supplies for a size (R197): a register, or an even and odd pair for .q. -/
def State.amoVal (s : State) (size : BitVec 2) (r : Reg) : BitVec 128 :=
  if size = 2 then s.val (r + 1) ++ s.val r else BitVec.ofNat 128 ((s.val r).toNat % 2 ^ (32 * 2 ^ size.toNat))

/-- Stage the reading of such an operand. -/
def State.amoUse (s : State) (size : BitVec 2) (r : Reg) (fx : Fx) : Fx :=
  if size = 2 then s.use (r + 1) (s.use r fx) else s.use r fx

/-- A register of a pair (R197). -/
def badPair (r : Reg) : Bool := r.toNat % 2 == 1 || decide (r.toNat < 2) || decide (26 < r.toNat)

/-- The forms that R197 calls illegal, for a term that no word decodes to. -/
def amoIllegal (op : Nat) (size ord : BitVec 2) (nr : BitVec 1) (d b : Reg) : Bool :=
  size == 3 || (size == 2 && (op != 9 || badPair d || badPair b)) || (op == 11 && size != 0)
    || (nr == 1 && (op == 8 || op == 9 || op == 10 || ord == 1 || ord == 3 || decide (7 < d.toNat)))

/-- An atomic of the op values of R197 (R198, R201): checked as a store of its size, the path check, release_wait for
.rel and .ar; posted with nr = 1, else blocking; in ordered mode it ends the quantum and is served at commit. -/
def amo (s : State) (op : Nat) (size ord : BitVec 2) (nr : BitVec 1) (d a b : Reg) : Host.Outcome State Fault Refusal :=
  let n := 4 * 2 ^ size.toNat
  let va := s.val a
  let cas := op == 9
  let r := s.global va.toNat n 3
  let fx0 := s.amoUse size b (s.use a (s.illegal (amoIllegal op size ord nr d b) s.fx0))
  let fx1 := r.stage (if cas then s.amoUse size d fx0 else fx0)
  let badPath := match r.place? with
    | some (.host _) => !hostClass op size.toNat
    | _ => false
  let leaves := match r.place? with
    | some (.remote ..) | some (.host _) => s.ordered
    | _ => false
  let fx2 := s.trapFx fx1 (badPath || leaves) 9 3 va
  let fx3 := { fx2.onBaton with full := fx2.full || ((ord == 2 || ord == 3) && s.fenceOpen 5) }
  match r.place? with
  | none => s.finish fx3
  | some p =>
    let pkt := s.packet p va (.amo op size.toNat (s.amoVal size b) (if cas then s.amoVal size d else 0) (nr == 1))
    if nr = 1 then
      let fx4 := s.useSc { fx3 with full := fx3.full || s.scFull d.toNat }
      s.finish { fx4 with acts := fx4.acts ++ [.post { pkt with sc := some d.toNat }] }
    else
      let dst : Dst := if size = 2 then .pair d.toNat else .reg d.toNat (8 * n) false
      let fx4 := s.putLater d dst (if size = 2 then s.putLater (d + 1) .none fx3 else fx3)
      s.finish { fx4 with req := some pkt, holdOn := if s.ordered then some .commit else none }

/-- M' := M + B (R198). -/
def execAmoAdd (size ord : BitVec 2) (nr : BitVec 1) (d a b : Reg) (s : State) : Host.Outcome State Fault Refusal := amo s 0 size ord nr d a b
/-- M' := M and B (R198). -/
def execAmoAnd (size ord : BitVec 2) (nr : BitVec 1) (d a b : Reg) (s : State) : Host.Outcome State Fault Refusal := amo s 1 size ord nr d a b
/-- M' := M or B (R198). -/
def execAmoOr (size ord : BitVec 2) (nr : BitVec 1) (d a b : Reg) (s : State) : Host.Outcome State Fault Refusal := amo s 2 size ord nr d a b
/-- M' := M xor B (R198). -/
def execAmoXor (size ord : BitVec 2) (nr : BitVec 1) (d a b : Reg) (s : State) : Host.Outcome State Fault Refusal := amo s 3 size ord nr d a b
/-- M' := the lesser, read signed (R198). -/
def execAmoMin (size ord : BitVec 2) (nr : BitVec 1) (d a b : Reg) (s : State) : Host.Outcome State Fault Refusal := amo s 4 size ord nr d a b
/-- M' := the greater, read signed (R198). -/
def execAmoMax (size ord : BitVec 2) (nr : BitVec 1) (d a b : Reg) (s : State) : Host.Outcome State Fault Refusal := amo s 5 size ord nr d a b
/-- M' := the lesser, read unsigned (R198). -/
def execAmoMinu (size ord : BitVec 2) (nr : BitVec 1) (d a b : Reg) (s : State) : Host.Outcome State Fault Refusal := amo s 6 size ord nr d a b
/-- M' := the greater, read unsigned (R198). -/
def execAmoMaxu (size ord : BitVec 2) (nr : BitVec 1) (d a b : Reg) (s : State) : Host.Outcome State Fault Refusal := amo s 7 size ord nr d a b
/-- M' := B (R198). -/
def execAmoSwap (size ord : BitVec 2) (nr : BitVec 1) (d a b : Reg) (s : State) : Host.Outcome State Fault Refusal := amo s 8 size ord nr d a b
/-- M' := B if M = D (R198). -/
def execAmoCas (size ord : BitVec 2) (nr : BitVec 1) (d a b : Reg) (s : State) : Host.Outcome State Fault Refusal := amo s 9 size ord nr d a b
/-- The bounded increment (R199). -/
def execAmoIncb (size ord : BitVec 2) (nr : BitVec 1) (d a b : Reg) (s : State) : Host.Outcome State Fault Refusal := amo s 10 size ord nr d a b
/-- FP32 addition at the home (R200). -/
def execAmoFadd (size ord : BitVec 2) (nr : BitVec 1) (d a b : Reg) (s : State) : Host.Outcome State Fault Refusal := amo s 11 size ord nr d a b

end Sys2Proof.Machine
end

