-- ==== Sys2Proof/Machine/Branch.lean ====
section
/-! DEFINITION. Branches and jumps (04 R72-R75, 07 R141). -/

namespace Sys2Proof.Machine

/-- The address of the syllable as an exact integer. -/
def State.here (s : State) : Int := (s.syllAddr.toNat : Int)

/-- A conditional branch (R72): a taken one checks its target, a not-taken one checks nothing. -/
def branchIf (s : State) (a : Reg) (off : BitVec 15) (test : Word → Bool) : Host.Outcome State Fault Refusal :=
  let fx := s.use a s.fxC
  s.finish (if test (s.val a) then s.checkTarget (s.here + 4 * sOff off) fx else fx)

/-- Branch if A = 0 (R72). -/
def execBZ (a : Reg) (off : BitVec 15) (s : State) : Host.Outcome State Fault Refusal :=
  branchIf s a off (fun x => x == 0)

/-- Branch if A ≠ 0 (R72). -/
def execBNz (a : Reg) (off : BitVec 15) (s : State) : Host.Outcome State Fault Refusal :=
  branchIf s a off (fun x => x != 0)

/-- Branch if A < 0 signed (R72). -/
def execBLz (a : Reg) (off : BitVec 15) (s : State) : Host.Outcome State Fault Refusal :=
  branchIf s a off (fun x => decide (x.toInt < 0))

/-- Branch if A ≥ 0 signed (R72). -/
def execBGez (a : Reg) (off : BitVec 15) (s : State) : Host.Outcome State Fault Refusal :=
  branchIf s a off (fun x => decide (0 ≤ x.toInt))

/-- Branch if A > 0 signed (R72). -/
def execBGz (a : Reg) (off : BitVec 15) (s : State) : Host.Outcome State Fault Refusal :=
  branchIf s a off (fun x => decide (0 < x.toInt))

/-- Branch if A ≤ 0 signed (R72). -/
def execBLez (a : Reg) (off : BitVec 15) (s : State) : Host.Outcome State Fault Refusal :=
  branchIf s a off (fun x => decide (x.toInt ≤ 0))

/-- j (R73). -/
def execJ (off : BitVec 20) (s : State) : Host.Outcome State Fault Refusal :=
  s.finish (s.checkTarget (s.here + 4 * sOff off) s.fxC)

/-- jal: d := the address of the following group (R73). -/
def execJal (d : Reg) (off : BitVec 20) (s : State) : Host.Outcome State Fault Refusal :=
  s.finish (s.put d (s.syllAddr + 4) (s.checkTarget (s.here + 4 * sOff off) s.fxC))

/-- jalr: the target is A plus a byte offset, read before d is written (R74). -/
def execJalr (d a : Reg) (imm : BitVec 15) (s : State) : Host.Outcome State Fault Refusal :=
  s.finish (s.put d (s.syllAddr + 4) (s.checkTarget ((s.val a).toNat + sOff imm) (s.use a s.fxC)))

/-- btag: jump through a table by the tag of the header the slot would read next, which is claimed, not popped (R141);
a running-ahead iteration waits for the baton (R132). -/
def execBtag (p : BitVec 1) (a : Reg) (s : State) : Host.Outcome State Fault Refusal :=
  let fx := { s.use a s.fxC with baton := true }
  match s.cor.portMsg s.th s.slot p.toNat with
  | none => s.finish { fx with portWait := true }
  | some m =>
    s.finish (s.checkTarget ((s.val a).toNat + 4 * (bits m.hdr 42 37 : Int))
      { fx with acts := fx.acts ++ [.claim p.toNat m.id] })

end Sys2Proof.Machine
end

