-- ==== Sys2Proof/Machine/Csr.lean ====
section
/-! DEFINITION. The prefix syllable and the CSR instructions (04 R78-R82), and the writes of CSRs as steps of their own
(R80 and the entry of each register). -/

namespace Sys2Proof.Machine

/-- A prefix value that makes its pfx illegal (R78). -/
def pfxIllegal (v : BitVec 24) : Bool :=
  let q := Prefix.of v
  bits v 3 0 != 0 || q.scl == 3 || decide (5 < q.rnd) || q.sat == 3 || decide (11 < q.fa) || decide (11 < q.fb)
    || decide (11 < q.fd)

/-- pfx (R36, R78): the value reaches the next syllable; last in its group it becomes pending in SW. -/
def execPfx (v : BitVec 24) (s : State) : Host.Outcome State Fault Refusal :=
  s.finish (s.illegal (pfxIllegal v) (s.grp.fx.warnWith (fallPfx s.curPfx))) (some v)

/-- The common checks of a CSR instruction (R61, R79-R82): the number is assigned, user mode may use it, every earlier
group of the thread has completed. -/
def State.csrFx (s : State) (num : Nat) (write : Bool) : Fx :=
  let fx := s.illegal (!csrKnown num) s.fx0
  let allowed := s.th.sys || (if write then num == 0 else csrUserRead num)
  let fx1 := if allowed then fx else s.needSys fx
  fx1.stallIf (!(s.slotAt s.core s.slot).pend.isEmpty)

/-- A CSR write instruction: d receives the old value, the new one is in force for the next group (R82). -/
def csrModify (s : State) (d : Reg) (n : BitVec 10) (a : Reg) (f : Word → Word → Word) : Host.Outcome State Fault Refusal :=
  let num := n.toNat
  let old := s.csrRead s.core s.slot num
  let fx := s.put d old (s.use a (s.csrFx num true))
  s.finish { fx with csr := some (num, f old (s.val a)), full := fx.full || s.csrBusy num }

/-- csrr (R79, R82). -/
def execCsrr (d : Reg) (n : BitVec 10) (s : State) : Host.Outcome State Fault Refusal :=
  s.finish (s.put d (s.csrRead s.core s.slot n.toNat) (s.csrFx n.toNat false))

/-- csrw: writes A (R79, R82). -/
def execCsrw (d : Reg) (n : BitVec 10) (a : Reg) (s : State) : Host.Outcome State Fault Refusal :=
  csrModify s d n a (fun _ x => x)

/-- csrs: sets the bits that are one in A (R79, R82). -/
def execCsrs (d : Reg) (n : BitVec 10) (a : Reg) (s : State) : Host.Outcome State Fault Refusal :=
  csrModify s d n a (fun old x => old ||| x)

/-- csrc: clears the bits that are one in A (R79, R82). -/
def execCsrc (d : Reg) (n : BitVec 10) (a : Reg) (s : State) : Host.Outcome State Fault Refusal :=
  csrModify s d n a (fun old x => old &&& ~~~x)

/-! ### The writes themselves, as steps (R80) -/

/-- A write to the register numbered n of the slot u = 4 · core + slot; a write that must wait changes nothing. -/
def execRegisterWrite (u : Nat) (n : BitVec 10) (v : Word) (s : State) : Host.Outcome State Fault Refusal :=
  .next (if s.csrBusy n.toNat then s else s.csrSet (u / 4) (u % 4) n.toNat v)

end Sys2Proof.Machine
end

