-- ==== Sys2Proof/Machine/EvCore.lean ====
section
/-! DEFINITION. The events of a core's scheduler and message queues (06 R107-R123, 07 R133-R137, 19 R364-R367). -/

namespace Sys2Proof.Machine

/-- TASK_START: a free slot takes the task that R121 chooses, by the levels that R122 gives by now (R22, R108). -/
def execTaskStart (core slot : Nat) (s : State) : Host.Outcome State Fault Refusal :=
  let c := s.coreAt core
  if (c.slotAt slot).st != .free || decide (4 ≤ slot) || decide (4096 ≤ core) || (s.hedge (hedgeOf core)).drained then .next s
  else match rqChoose (c.risen.rq.filter (fun e => !s.thStopped core e.th)) slot c.lowFree.isSome with
    | none => .next s
    | some e =>
      let t := s.startTask core slot e
      .next (match e.held with
        | some (_, v) => t.completeHold core slot v
        | none => t)

/-- TASK_AGING: a task that has waited 2^20 cycles at priority 2 or 3 rises one level (R122). -/
def execTaskAging (core : Nat) (uid : Nat) (s : State) : Host.Outcome State Fault Refusal :=
  .next (s.modCore core (fun c => { c with rq := mapIf (fun e => e.th.uid == uid) (RqEntry.risen c.cycles) c.rq }))

/-- A notice of code 9..14 on n2 (R247, R365). -/
def State.notice2 (s : State) (n code : Nat) (w : Word) : State := s.notify n 2 (fld 60 code ||| w)

/-- A wait for a word or for an item of a queue (R152, R154). -/
def PKind.waits (k : PKind) : Bool :=
  match k with
  | .waitw _ | .watch _ | .deq => true
  | _ => false

/-- The group that a slot waits with is given up unperformed: the words it held stay in their queues (R193). -/
def State.dropHold (s : State) (n k : Nat) : State :=
  (s.modCore n (fun c => c.giveBack (s.thAt n k).uid)).modSlot n k (fun x => { x with hold := none })

/-- A waiting group lets a deadline trap go first (R367): a barrier, join, waitw, enq or deq that has not been answered
is given up unperformed; a load or returning atomic is not. -/
def State.abandonWait (s : State) (n k : Nat) : State :=
  let x := s.slotAt n k
  match x.hold with
  | some (.join _, _) | some (.baton, _) => s.dropHold n k
  | some (.bar b, _) =>
    let gone (y : Barrier) : Barrier := { y with arrived := y.arrived.filter (fun a => a != (x.th.lin, x.th.k)) }
    let left := (mapIf (fun y => y.key == b && y.done.isNone) gone s.barriers).filter (fun y => y.done.isSome || !y.arrived.isEmpty)
    State.dropHold { s with barriers := left } n k
  | some (.reply rid, _) =>
    if s.net.any (fun p => p.id == rid && p.kind.waits) then
      State.dropHold { s with net := s.net.filter (fun p => p.id != rid) } n k
    else s
  | _ => s

/-- A thread of an ordered launch that stands at the end of its quantum, no group of it left to perform, lets a deadline
trap go first (R367); it stops there again after the handler. -/
def State.leaveBoundary (s : State) (n k : Nat) : State :=
  match (s.slotAt n k).hold with
  | some (.commit, fx) => if fx.sylls = 0 then (s.dropHold n k).modOrd (s.thAt n k).uid (fun o => { o with joins := none }) else s
  | _ => s

/-- BUDGET_EXPIRY: a task's BUDGET has reached zero: the notice that LATECFG selects (R364, R365), and for a task in a slot
the deadline trap, once (R367). A slot number from 4 on names a task in the run queue or the park list: 4 plus its uid. -/
def execBudgetExpiry (core slot : Nat) (s : State) : Host.Outcome State Fault Refusal :=
  let c := s.coreAt core
  let cfg := (s.hedge (hedgeOf core)).latecfg
  let say (s : State) (t : Thread) : State := if cfg.getLsbD 2 then s.notice2 core 11 (fld 0 t.seq.toNat) else s
  if slot < 4 then
    let x := c.slotAt slot
    if x.st == .free || x.th.budgetDone || (s.coreAt x.th.home).budget x.th.homeWp != 0 then .next s
    else
      let dl : Option Nat := x.th.deadline <|> (if cfg.getLsbD 4 then some 0 else none)
      let s1 := s.modTh core slot (fun t => { t with budgetDone := true, deadline := dl })
      let s2 := if cfg.getLsbD 4 && !x.th.sys && !swRa x.th.sw then (s1.abandonWait core slot).leaveBoundary core slot else s1
      .next (say s2 x.th)
  else
    let due (b : Nat) (t : Thread) : Bool := t.uid + 4 == slot && !t.budgetDone && b == 0
    let mark (t : Thread) : Thread := { t with budgetDone := true, deadline := t.deadline <|> (if cfg.getLsbD 4 then some 0 else none) }
    match c.rq.find? (fun e => due e.budget e.th) with
    | some e => .next (say (s.modUid e.th.uid mark) e.th)
    | none =>
      match c.park.find? (fun p => due (c.budget p.th.homeWp) p.th) with
      | some p => .next (say (s.modUid p.th.uid mark) p.th)
      | none => .next s

/-- An earlier packet of the same source, home and class is still on its way (R210). -/
def State.behind (s : State) (p : Packet) : Bool :=
  (s.net.takeWhile (fun q => q.id != p.id)).any (fun q =>
    q.src.same p.src && q.cls == p.cls && q.home == p.home && q.cls != 2 && q.cls != 3)

/-- The header as it is delivered (R133): the source's coordinates, the late flag, reserved bits zero. -/
def deliveredHeader (h : Word) (src : Source) : Word :=
  let a := merge h (fld 57 src.pkg ||| fld 51 (yOf src.lin) ||| fld 45 (xOf src.lin)) 63 45
  let late := bits h 32 17 == 0
  merge a (fld 4 (boolWord late).toNat) 4 0

/-- Words that input queue p holds at most (R107). -/
def rxCap (p : Nat) : Nat := if p = 0 then 512 else 256

/-- A message on its way whose finite budget has run out (R366). -/
def Packet.isLate (p : Packet) : Bool :=
  match p.kind with
  | .msg (h :: _) => bits h 32 17 == 0
  | _ => false

/-- A late message is served after every packet with a budget that could be served at its router (R366). Only messages carry
a budget (R133), so no access is late at a home. -/
def State.lateWaits (s : State) (n : Nat) (p : Packet) : Bool :=
  p.isLate && !(p.lateAt != 0 && decide (p.lateAt + 65536 ≤ (s.coreAt n).cycles + 1))
    && s.net.any (fun q => q.home == p.home && !q.isLate && !q.waiting && !s.behind q)

/-- MESSAGE_DELIVERY: a whole message enters its input queue and passes the dispatch stage (R112, R135); late messages
are served last at their router, counted and noticed (R364-R366). -/
def execMessageDelivery (pkt : Nat) (s : State) : Host.Outcome State Fault Refusal :=
  match s.net.find? (fun p => p.id == pkt) with
  | none => .next s
  | some p =>
    match p.kind, p.space with
    | .msg (h :: pay), .core n =>
      let c := s.coreAt n
      let q := if p.cls = 1 then 1 else 0
      if s.behind p then .next s
      else if s.noCore n then .next { s.countNack n with net := s.net.filter (fun x => x.id != pkt) }
      else if s.lateWaits n p then
        .next { s with net := mapIf (fun x => x.id == pkt && x.lateAt == 0) (fun x => { x with lateAt := (s.coreAt n).cycles + 1 }) s.net }
      else if rxCap q < s.rxUsed n q + 1 + pay.length then .next s
      else
        let h1 := deliveredHeader h p.src
        let m : RxMsg := { id := s.nextId, hdr := h1, words := h1 :: pay }
        let s1 : State := { s with net := s.net.filter (fun x => x.id != pkt), nextId := s.nextId + 1 }
        let s2 := s1.setCore n (c.setRx q (c.rx q ++ [m]))
        let hg := hedgeOf n
        let s3 := if h1.getLsbD 4 then
            let s' := s2.modHedge hg (fun x => { x with latestatMsg := Nat.min (x.latestatMsg + 1) 0xFFFFFFFF })
            if (s.hedge hg).latecfg.getLsbD 1 then
              s'.notice2 n 10 (fld 44 p.src.pkg ||| fld 38 (yOf p.src.lin) ||| fld 32 (xOf p.src.lin) ||| fld 0 (bits h 42 37))
            else s'
          else s2
        let s4 := if h1.getLsbD 4 then s3.passLate (dieRoute (if p.src.far then p.mc % 4 else dieOf p.src.core) (dieOf n)) else s3
        .next (s4.dispatchAt n q m.id)
    | _, _ => .next s

/-- HELD_MESSAGE_DISPATCH: the oldest held message whose conditions have cleared is dispatched (R112). -/
def execHeldMessageDispatch (core : Nat) (s : State) : Host.Outcome State Fault Refusal :=
  let c := s.coreAt core
  let all : List (Nat × RxMsg) := c.rx0.map (fun m => (0, m)) ++ c.rx1.map (fun m => (1, m))
  let free := all.filter (fun m => m.2.owner == .held && s.dispatch core m.2 != .hold)
  match free.foldl (fun (best : Option (Nat × RxMsg)) m => match best with
      | none => some m
      | some (b : Nat × RxMsg) => if m.2.id < b.2.id then some m else some b) none with
  | none => .next s
  | some m => .next (s.dispatchAt core m.1 m.2.id)

/-- NOTICE_DELIVERY: the notice at position k, if it is the oldest for its port, enters the queue once there is room
(R137). -/
def execNoticeDelivery (k : Nat) (s : State) : Host.Outcome State Fault Refusal :=
  match s.notices[k]? with
  | none => .next s
  | some (n, port, w) =>
    let c := s.coreAt n
    let full := decide (128 ≤ s.rxUsed n port)
    if full || (s.notices.take k).any (fun x => x.1 == n && x.2.1 == port) then .next s
    else
      let s1 : State := { s with notices := s.notices.eraseIdx k }
      .next (s1.setCore n (if port = 2 then { c with rx2 := c.rx2 ++ [w] } else { c with rx3 := c.rx3 ++ [w] }))

/-- RESULT_COMPLETION: the pending register writes of a slot are performed (R19, R61). -/
def execResultCompletion (core slot : Nat) (s : State) : Host.Outcome State Fault Refusal := .next (s.flushPend core slot)

/-- GUEST_RETURN: a guest whose posted accesses are acknowledged goes home (R129, R211): ahead of the tasks of its priority, or
behind them where a yield sent it there (R146). -/
def execGuestReturn (core slot : Nat) (s : State) : Host.Outcome State Fault Refusal :=
  let x := s.slotAt core slot
  match x.hold with
  | some (.goHome, fx) =>
    if s.unacked x.th.uid core 5 || !(s.coreAt x.th.home).rqFree then .next s
    else .next (s.guestHome core slot (fx.ctl != some .yield))
  | _ => .next s

/-- READY_LIST_INSERT (R116). -/
def execReadyListInsert (core : Nat) (s : State) : Host.Outcome State Fault Refusal := .next (s.readyInsert core)

/-- A launch task: slot binding, relative index and ordered mode (R113, R22, R221). -/
def State.placeTask (s : State) (id : Nat) (l : Launch) (m c k : Nat) : State :=
  let uid := s.nextId
  let w2 := (yOf c - l.y0) * l.wx + (xOf c - l.x0)
  let s1 := (s.createTask m l.ctx { entry := l.pc, arg := l.arg, budget := l.budget, prio := l.prio, sb := some k,
                                    rbase := l.rbase, rsize := l.rsize }).2
  let s2 := s1.modUid uid (fun t => { t with launch := some id, k := k, lin := c, w2 := fld 0 w2,
                                             sw := if l.ord then fld 62 1 else 0 })
  if l.ord then
    let o := s2.ords.get {} id
    { s2 with ords := s2.ords.set id { o with tasks := o.tasks ++ [{ ordinal := 4 * w2 + k, uid := uid, core := m }] } }
  else s2

/-- LAUNCH_PLACEMENT: a die's launch controller inserts the next task of the oldest launch that has one on the die
(R113, R115); a full run queue holds it. -/
def execLaunchPlacement (die : Nat) (s : State) : Host.Outcome State Fault Refusal :=
  let here (l : Launch) (e : Nat × Nat) : Bool := match s.place (16 * 8 * (die / 2) + 8 * (die % 2)) l.ctx e.1 with
    | some m => dieOf m == die && !s.stopLin l.ctx e.1
    | none => false
  match s.launches.reverse.findSome? (fun x => (x.2.todo.find? (here x.2)).map (fun e => (x.1, x.2, e))) with
  | none => .next s
  | some (id, l, c, k) =>
    match s.place (16 * 8 * (die / 2) + 8 * (die % 2)) l.ctx c with
    | none => .next s
    | some m =>
      if !(s.coreAt m).rqFree || !(s.coreAt m).ready.isEmpty then .next s
      else
        let s1 := s.placeTask id l m c k
        .next { s1 with launches := mapIf (fun x => x.1 == id) (fun x => (x.1, { x.2 with todo := x.2.todo.filter (fun e => e != (c, k)) })) s1.launches }

/-- BARRIER_COMPLETE: the barrier numbered k completes if every member has arrived or ended (R151); one of an ordered launch
completes as its next round begins (R228). -/
def execBarrierComplete (k : Nat) (s : State) : Host.Outcome State Fault Refusal :=
  match s.barriers.find? (fun b => b.id == k) with
  | none => .next s
  | some b => .next (if s.ords.has b.launch then s else s.settleBar b)

/-- JOIN_COMPLETE: a launch whose counter is zero answers its waiting joins (R150). -/
def execJoinComplete (id : Nat) (s : State) : Host.Outcome State Fault Refusal :=
  if s.cores.any (fun c => c.2.slots.any (fun e => match e.2.hold with
    | some (.join j, _) => j == id
    | _ => false)) then .next (s.settleJoin id) else .next s

end Sys2Proof.Machine
end

