-- ==== Sys2Proof/Machine/Home.lean ====
section
/-! DEFINITION. What a home does with an access that arrives (08 R167-R176, 09 R191-R201, 07 R152-R154, 10 R208-R216):
reading and writing its storage, waking waits, queues, and the answers. -/

namespace Sys2Proof.Machine

/-- The thread of this package that an access counts for; 0 for a job or another package. -/
def Source.actor (c : Source) : Nat := if c.job = 0 && !c.far then c.uid else 0

/-! ### Storage at a home -/

/-- A number of n bytes at a place of storage of this package, as its home returns it. -/
def State.homeNum (s : State) (sp : Space) (loc n : Nat) : Nat :=
  match sp with
  | .core m => ofBytes (s.loadL m loc n)
  | .dev => s.devNum loc n
  | .host => s.hostNum loc n
  | .remote _ => 0

/-- Words of eight bytes at a place of storage. -/
def State.homeWords (s : State) (sp : Space) (loc n : Nat) : List Word :=
  (List.range n).map (fun i => BitVec.ofNat 64 (s.homeNum sp (loc + 8 * i) 8))

/-- The access must wait at the home (R77, R216, R218): its sector or range is claimed by a running job, or a write
reaches a range that a job still reads. -/
def State.homeClaimed (s : State) (sp : Space) (loc n : Nat) (write : Bool) : Bool :=
  match sp with
  | .core m => if write then s.lockedL m loc n else s.claimedL m loc n
  | .dev => s.jobs.any (fun j => j.claims.any (fun c => !c.loc && c.pkg == s.pkgNo && c.sector == loc / 64))
      || s.farClaims.any (fun c => c.space == .dev && c.addr == loc / 64 * 64)
  | _ => false

/-- A wait for a word at the home sees each value written to it, and keeps the first that passes (R152); while a job claims
the sector it sees none (R216). -/
def State.wakeAt (s : State) (sp : Space) (line : Nat) : State :=
  let wake (p : Packet) : Packet := match p.kind with
    | .watch b => let v := s.homeNum sp p.loc 8
      if b.toNat ≤ v && !s.homeClaimed sp p.loc 8 false then { p with kind := .woken (BitVec.ofNat 64 v) } else p
    | _ => p
  { s with net := mapIf (fun p => p.waiting && p.space == sp && p.loc / 64 * 64 == line) wake s.net }

/-- What follows a write to a line of storage by a thread (R127, R152, R224). -/
def State.wrote (s : State) (uid : Nat) (sp : Space) (line : Nat) : State :=
  let s1 := if s.ords.isEmpty then s else s.noteWritten uid sp line
  let s2 := if s1.chains.isEmpty then s1 else s1.chainWrite uid sp line
  if s2.net.any (fun p => p.waiting) then s2.wakeAt sp line else s2

/-- Write bytes of one line at a home under a mask (R175, R176, R14). -/
def State.homeStore (s : State) (sp : Space) (line : Nat) (d : Vec) (m : BitVec 64) (pol : Nat) : State :=
  match sp with
  | .core n => (maskRuns m).foldl (fun s r => s.storeL n (line + r.1) (toBytes r.2 (vecNum d r.1 r.2))) s
  | .dev => s.devStore (line / 64) d m pol
  | .host =>
    let h := (maskRuns m).foldl (fun (h : Memory) r => h.setBytes (line + r.1) (toBytes r.2 (vecNum d r.1 r.2))) s.hostMem
    { s with hostMem := h }
  | .remote _ => s

/-- Write a number of n bytes within one line at a home. -/
def State.homePut (s : State) (sp : Space) (loc n v pol : Nat) : State :=
  s.homeStore sp (loc / 64 * 64) (vecAt (loc % 64) (v % 2 ^ (8 * n))) (byteMask (loc % 64) n) pol

/-- The access brings its sector into the cache where the policy allows (R175, R176). -/
def State.homeTouch (s : State) (sp : Space) (loc n pol : Nat) : State :=
  match sp with
  | .dev => s.devLoad loc n pol
  | _ => s

/-- An atomic's fill of a sector that is not valid (R175). -/
def State.homeFill (s : State) (sp : Space) (loc pol : Nat) : State :=
  match sp with
  | .dev => if pol % 4 = 2 && !(s.sector (loc / 64)).v && (s.sector (loc / 64)).mask == 0 then s else s.fillSector (loc / 64) pol
  | _ => s

/-- A read of the bytes meets an uncorrectable error (R369). -/
def State.homeBad (s : State) (sp : Space) (loc n : Nat) : Bool :=
  match sp with
  | .core m => s.isBad 0 m loc n
  | .dev => s.devBad loc n
  | _ => false

/-- A store of the bytes must merge with an uncorrectable granule (R369). -/
def State.homeMergeBad (s : State) (sp : Space) (line : Nat) (m : BitVec 64) : Bool :=
  match sp with
  | .core n => (maskRuns m).any (fun r => s.mergesBad 0 n (line + r.1) r.2)
  | .dev => s.devMergeBad (line / 64) m
  | _ => false

/-- The state without the claims of one engine of another package: its own writes do not wait on them (R216). -/
def State.without (s : State) (c : Source) : State :=
  if c.far && c.job != 0 then { s with farClaims := s.farClaims.filter (fun x => x.src != c) } else s

/-! ### Answers -/

/-- The kind of an access in window checks and traps (R167, R349). -/
def PKind.acc (k : PKind) : Nat :=
  match k with
  | .load _ | .mig _ | .waitw _ | .watch _ | .woken _ => 1
  | .store _ _ | .enq _ | .deq => 2
  | .claim => 9
  | .unclaim | .recall => 10
  | .pf => 1
  | _ => 3

/-- The bytes of a packet's line that it writes or reads, as runs. -/
def Packet.runs (p : Packet) : List (Nat × Nat) :=
  match p.kind with
  | .store _ m => (maskRuns m).map (fun r => (p.loc + r.1, r.2))
  | .load n | .mig n => [(p.loc, n)]
  | .amo _ size _ _ _ => [(p.loc, 4 * 2 ^ size)]
  | .waitw _ | .watch _ => [(p.loc, 8)]
  | .enq _ | .deq | .tdec _ => [(p.loc, 64)]
  | .claim => [(p.loc / 64 * 64, 64)]
  | _ => []

/-- The packet leaves the network and its source is answered; of a dropped prefetch the source hears only that it is
over (R205). -/
def State.answer (s : State) (p : Packet) (k0 : RKind) : State :=
  let k := if p.kind == .pf then .ack else k0
  let r : Reply := { id := p.id, src := p.src, posted := p.posted, sc := p.sc, cnt := p.cnt, va := p.va, acc := p.kind.acc,
                     home := p.home, cls := if p.cls = 2 then 2 else 1, kind := k }
  { s with net := s.net.filter (fun q => q.id != p.id), replies := s.replies ++ [r] }

/-- The packet waits at its home; the first time, it takes its place in the order of arrival (R208), and a claim of another
package is recalled (R216). -/
def State.waitHere (s : State) (p : Packet) : State :=
  if p.waiting then s else
    p.runs.foldl (fun s r => s.recallFar p.space r.1 r.2)
      { s with net := mapIf (fun q => q.id == p.id) (fun q => { q with waiting := true, waited := s.nextId }) s.net
               nextId := s.nextId + 1 }

/-- A waitw that has compared waits for a value (R152), in the place that it has in the order of arrival. -/
def State.watchHere (s : State) (p : Packet) (b : Word) : State :=
  { s with net := mapIf (fun q => q.id == p.id) (fun q => { q with kind := .watch b, waiting := true,
                                                                   waited := if p.waiting then p.waited else s.nextId }) s.net
           nextId := s.nextId + 1 }

/-- The error record of an uncorrectable error that an access at its home meets (R370). -/
def State.homeError (s : State) (p : Packet) : State :=
  let kind := match p.space with
    | .core n => s.localKind n p.loc 64
    | _ => s.devKind p.loc
  let unit := match p.space with
    | .core n => unitOf n 0
    | _ => stackUnit p.loc
  s.postError (errRecord kind (if p.src.job = 0 then 1 else 2) p.loc p.src.ctx unit
    (if p.src.job = 0 then (match s.thOf p.src.actor with | some t => t.tid | none => 0) else BitVec.ofNat 64 p.src.job))

/-- A refused access (R168): the target counts it, the source is answered. -/
def State.refuse (s : State) (p : Packet) (n : Nat) : State := (s.countNack n).answer p .nack

/-- An engine's write within the thicket of its job, which is not window-checked (R279, R334). -/
def Packet.ownThicket (p : Packet) (n : Nat) : Bool :=
  p.src.job != 0 && !p.src.far && thicketOf p.src.core == thicketOf n && (match p.kind with | .store _ _ => true | _ => false)

/-- Whether the target core admits an arriving access (R167): its windows, and the bytes 768-863 of bound workspaces
for a user-mode write. A claim asks for nothing that a window could refuse. -/
def State.admits (s : State) (p : Packet) (n : Nat) : Bool :=
  let acc := match p.kind.acc with
    | 1 => 1
    | 2 => 2
    | _ => 3
  decide (9 ≤ p.kind.acc) || !s.noCore n && (p.ownThicket n || p.runs.all (fun r => s.windowOk n p.src acc r.1 r.2))
    && (p.src.sys || acc == 1 || p.runs.all (fun r => (firstRefused (s.bound n) r.1 r.2).isNone))

/-! ### Work queues (R118, R153, R154) -/

/-- The place of a ring entry, translated at the home with the rights of the source (R153, R183, R184), and the ways it
allocates in (R178). -/
def State.ringPlace (s : State) (src : Source) (va : Word) (acc : Nat) : Option Place :=
  if !canonical va || (!src.sys && va.getLsbD 55) || s.inAperture va then none
  else match s.walk src.ctx va with
    | .ok e => if permits e src.sys acc then some (s.inWays src.ctx va (e.place va)) else none
    | _ => none

/-- Whether a queue header is bad (R153). -/
def queueBad (h : List Word) : Bool :=
  let cap := h.getD 1 0
  cap.toNat == 0 || decide (20 < cap.toNat) || bits (h.getD 0 0) 5 0 != 0 || [5, 6, 7].any (fun i => h.getD i 0 != 0)

/-- The address of ring entry i (R118). -/
def ringAddr (h : List Word) (i : Word) : Word :=
  h.getD 0 0 + BitVec.ofNat 64 (64 * (i.toNat % 2 ^ (h.getD 1 0).toNat))

/-- The number under which the arrival of a ring entry's item is kept. -/
def Place.key : Place → Nat
  | .loc c o => 2 ^ 60 + localBytes * c.getD 0 + o
  | .dev pa _ => pa
  | .host pa => pa
  | .remote p _ => 2 ^ 61 + p

/-- A ring entry in a stack that is out of service (R425): its access is a data error (R369). -/
def State.ringLost (s : State) (r : Place) (va : Word) : Bool :=
  match r.space with
  | .dev => s.retired (r.addr va)
  | _ => false

/-- enq at the home of a header (R153): the result code and the state after it; code 9 stands for a ring entry whose store is a
data error (R369, R425). -/
def State.enqueue (s : State) (src : Source) (sp : Space) (loc pol : Nat) (item : List Word) : Nat × State :=
  let h := s.homeWords sp loc 8
  if queueBad h then (2, s)
  else
    let tail := h.getD 3 0
    if tail - h.getD 2 0 = BitVec.ofNat 64 (2 ^ (h.getD 1 0).toNat) then (1, s)
    else match s.ringPlace src (ringAddr h tail) 2 with
      | none => (3, s)
      | some r =>
        let va := ringAddr h tail
        if s.ringLost r va then (9, s) else
        let it := merge (item.getD 0 0) tail 31 0 :: item.drop 1
        let s1 := (s.homePut r.space (r.addr va) 64 (ofBytes (it.flatMap (fun w => toBytes 8 w.toNat))) r.pol).wrote src.actor r.space (r.addr va / 64 * 64)
        let s2 := (s1.homePut sp (loc + 24) 8 (tail + 1).toNat pol).wrote src.actor sp (loc / 64 * 64)
        (0, { s2 with arrivals := s2.arrivals.set r.key s2.homeUs })

/-- The device address of the ring entry that an enq would write. -/
def State.ringPa (s : State) (src : Source) (h : List Word) : Nat :=
  ((s.ringPlace src (ringAddr h (h.getD 3 0)) 2).map (fun r => r.addr (ringAddr h (h.getD 3 0)))).getD 0

/-- Whether another deq waits at the same header before a packet (R118, R154). -/
def State.deqAhead (s : State) (p : Packet) : Bool :=
  s.net.any (fun q => q.id != p.id && q.waiting && q.kind == .deq && q.space == p.space && q.loc == p.loc
    && (!p.waiting || decide (q.waited < p.waited)))

/-- A late item is counted and noticed (R365). -/
def State.deqLate (s : State) (p : Packet) (w : Word) : State :=
  if p.src.far then s
  else
    let h := hedgeOf p.src.core
    let s1 := s.modHedge h (fun x => { x with latestatDeq := Nat.min (x.latestatDeq + 1) 0xFFFFFFFF })
    if (s.hedge h).latecfg.getLsbD 0 then s1.notice2 p.src.core 9 (fld 32 (bits w 27 0) ||| fld 0 (bits p.va 37 6)) else s1

/-- deq at the home (R154): the oldest item is taken; an empty queue, or a late item, leaves the packet waiting. A deq
of an ordered launch's commit does not wait (R227). -/
def State.dequeue (s : State) (p : Packet) : State :=
  let h := s.homeWords p.space p.loc 8
  let stay : State := if p.sslot = 1 then s.answer p .empty else s.waitHere p
  if queueBad h then s.answer p (.value 0 {})
  else if s.deqAhead p || h.getD 2 0 = h.getD 3 0 then stay
  else
    let va := ringAddr h (h.getD 2 0)
    match s.ringPlace p.src va 1 with
    | none => s.answer p (.value 0 {})
    | some r =>
      if s.homeBad r.space (r.addr va) 64 then (s.homeError { p with space := r.space, loc := r.addr va }).answer p .dataErr
      else
        let item := s.homeWords r.space (r.addr va) 8
        let s1 := s.homeTouch r.space (r.addr va) 64 r.pol
        let s2 := (s1.homePut p.space (p.loc + 16) 8 (h.getD 2 0 + 1).toNat p.pol).wrote p.src.actor p.space (p.loc / 64 * 64)
        let w := item.getD 0 0
        let b := bits w 63 44
        let b1 := if b = noBudget then b else b - (s.homeUs - s.arrivals.get s.homeUs r.key)
        if b1 = 0 then
          let s3 := (s2.homePut p.space (p.loc + 32) 8 (h.getD 4 0 + 1).toNat p.pol).wrote p.src.actor p.space (p.loc / 64 * 64)
          let s4 := s3.deqLate p w
          if p.sslot = 1 then s4 else s4.waitHere p
        else
          let it := merge w (fld 44 b1) 63 44 :: item.drop 1
          s2.answer p (.value (BitVec.ofNat 512 (ofBytes (it.flatMap (fun w => toBytes 8 w.toNat)))) {})

/-! ### One access at its home (R208) -/

/-- An access that its home admits and that need not wait is performed (R191-R201, R205, R152-R154). -/
def State.performAt (s : State) (p : Packet) : State :=
  let line := p.loc / 64 * 64
  match p.kind with
  | .load n =>
    if s.homeBad p.space p.loc n then (s.homeError p).answer p .dataErr
    else (s.homeTouch p.space p.loc n p.pol).answer p (.value (BitVec.ofNat 512 (s.homeNum p.space p.loc n)) {})
  | .store d m =>
    if s.homeMergeBad p.space line m then (s.homeError p).answer p .dataErr
    else ((s.homeStore p.space line d m p.pol).wrote p.src.actor p.space line).answer p .ack
  | .amo op size b d nr =>
    let n := 4 * 2 ^ size
    if s.homeBad p.space p.loc n then (s.homeError p).answer p .dataErr
    else
      let s1 := s.homeFill p.space p.loc p.pol
      let m := s1.homeNum p.space p.loc n
      let r := amoResult op n m (b.toNat % 2 ^ (8 * n)) (d.toNat % 2 ^ (8 * n))
      let s2 := (s1.homePut p.space p.loc n r.1 p.pol).wrote p.src.actor p.space line
      s2.answer p (if nr then .ack else .value (BitVec.ofNat 512 m) r.2)
  | .waitw b =>
    if s.homeBad p.space p.loc 8 then (s.homeError p).answer p .dataErr
    else
      let v := s.homeNum p.space p.loc 8
      if b.toNat ≤ v then (s.homeTouch p.space p.loc 8 p.pol).answer p (.value (BitVec.ofNat 512 v) {}) else s.watchHere p b
  | .enq item =>
    if s.homeBad p.space p.loc 64 then (s.homeError p).answer p .dataErr
    else
      let r := (s.homeTouch p.space p.loc 64 p.pol).enqueue p.src p.space p.loc p.pol item
      let h := s.homeWords p.space p.loc 8
      if r.1 = 9 then (r.2.homeError { p with space := .dev, loc := s.ringPa p.src h }).answer p .dataErr else
      r.2.answer p (.value (BitVec.ofNat 512 (if p.src.far then r.1 + 2 ^ 64 * (ringAddr h (h.getD 3 0)).toNat else r.1)) {})
  | .deq =>
    if s.homeBad p.space p.loc 64 then (s.homeError p).answer p .dataErr
    else (s.homeTouch p.space p.loc 64 p.pol).dequeue p
  | .pf =>
    let k := p.loc / 256 * 4
    (match p.space with
      | .dev => if p.pol % 4 = 2 then s else (List.range 4).foldl (fun s i => s.fillSector (k + i) p.pol) s
      | _ => s).answer p .ack
  | .claim =>
    ({ s with farClaims := s.farClaims ++ [{ src := p.src, space := p.space, addr := p.loc / 64 * 64, wire := p.va }] } : State).answer p (.value 1 {})
  | .unclaim =>
    (match s.farClaims.find? (fun (c : FarClaim) => c.src == p.src && c.space == p.space && c.addr == p.loc / 64 * 64) with
    | some c => ({ s with farClaims := s.farClaims.erase c } : State)
    | none => s).answer p .ack
  | _ => s

/-- The eight-byte words that an access touches, counted from its place. -/
def Packet.wordList (p : Packet) : List Nat :=
  match p.kind with
  | .load n => List.range ((n + 7) / 8)
  | .store _ m => (List.range 8).filter (fun i => m.extractLsb' (8 * i) 8 != 0)
  | _ => []

/-- The words of an access that have still to be performed. -/
def Packet.wordsLeft (p : Packet) : List Nat := p.wordList.filter (fun i => !p.done.contains i)

/-- A vldg or vstg at host memory: one of its eight-byte words is performed, at a moment of its own (R192); the last one
answers. -/
def State.hostWord (s0 : State) (p : Packet) : State :=
  let left := p.wordsLeft
  let i := left.getD (s0.choice left.length) 0
  let s := s0.dropChoice
  let keep (s : State) (q : Packet) : State := { s with net := mapIf (fun x => x.id == p.id) (fun _ => q) s.net }
  match p.kind with
  | .load _ =>
    let q := { p with done := i :: p.done, got := p.got ||| vecAt (8 * i) (s.hostNum (p.loc + 8 * i) 8) }
    if left.length ≤ 1 then s.answer p (.value q.got {}) else keep s q
  | .store d m =>
    let s1 := (s.homeStore .host p.loc d (m &&& byteMask (8 * i) 8) p.pol).wrote p.src.actor .host p.loc
    if left.length ≤ 1 then s1.answer p .ack else keep s1 { p with done := i :: p.done }
  | _ => s

/-- Whether an access of a kind writes, for the waits at a home. -/
def PKind.writes (k : PKind) : Bool :=
  match k with
  | .load _ | .mig _ | .waitw _ | .watch _ | .woken _ | .pf | .claim => false
  | _ => true

/-- An access of another package's engine that reads does not wait on a claim (R216). -/
def Packet.engineRead (p : Packet) : Bool := p.src.job != 0 && (match p.kind with | .load _ => true | _ => false)

/-- A job of this package asked for the sector of a claim before the packet of another package that asks for it (R215). -/
def State.askedBefore (s : State) (p : Packet) : Bool :=
  p.kind == .claim && s.jobs.any (fun x => x.ph == .claiming && x.st == .running && !x.rests && (!p.waiting || decide (x.since < p.waited))
    && (match x.want with
      | c :: _ => c.pkg == s.pkgNo && (match p.space with
        | .core m => c.loc && c.core == m && 64 * c.sector == p.loc / 64 * 64
        | .dev => !c.loc && 64 * c.sector == p.loc / 64 * 64
        | _ => false)
      | [] => false))

/-- An access must wait at its home for a claim, or for a range that a job still reads (R77, R216, R218); a claim for those that
asked earlier (R215). -/
def State.waitsAt (s : State) (p : Packet) : Bool :=
  s.askedBefore p || !p.engineRead && p.runs.any (fun r => (s.without p.src).homeClaimed p.space r.1 r.2 p.kind.writes)

/-- What a packet that has taken its place at its home still waits for there: a claim or range lock, an item, or a value. -/
def State.stillWaits (s : State) (p : Packet) : Bool :=
  match p.kind, p.space with
  | .tdec _, .core n => s.lockedL n p.loc 64
  | .woken _, _ => true
  | .watch b, _ => s.homeClaimed p.space p.loc 8 false || decide (s.homeNum p.space p.loc 8 < b.toNat)
  | .deq, _ =>
    let h := s.homeWords p.space p.loc 8
    s.homeClaimed p.space p.loc 64 true || (!queueBad h && h.getD 2 0 == h.getD 3 0)
  | _, _ => s.waitsAt p

/-- An access whose wait at a home has ended arrived before what comes now (R208). -/
def State.dueAt (s : State) (h : Home) : Bool := s.net.any (fun q => q.waiting && q.home == h && !s.stillWaits q)

/-- An access whose wait at the same home has ended arrived before this one (R208). -/
def State.dueBefore (s : State) (p : Packet) : Bool :=
  s.net.any (fun q => q.waiting && q.id != p.id && q.home == p.home && (!p.waiting || decide (q.waited < p.waited)) && !s.stillWaits q)

/-- A packet of a record or hint for a system queue (R370, R425): resolved in context 0, enqueued, or counted as lost. -/
def State.systemRecord (s : State) (p : Packet) (ws : List Word) : State :=
  let s1 : State := { s with net := s.net.filter (fun q => q.id != p.id) }
  let lost : State := if bits (ws.headD 0) 41 32 = 2 then s1.modPkg (fun g => { g with errlost := Nat.min (g.errlost + 1) 0xFFFFFFFF }) else s1
  if p.va = 0 then lost
  else match s1.resolve 256 0 true p.va.toNat 64 2 with
    | .ok (.loc none _) _ | .ok (.remote ..) _ => lost
    | .ok q _ =>
      if s1.homeBad q.space (q.addr p.va) 64 then lost else
      let r := s1.enqueue { sys := true } q.space (q.addr p.va) q.pol ws
      if r.1 = 0 then r.2 else lost
    | _ => lost

end Sys2Proof.Machine
end

