-- ==== Sys2Proof/Machine/EngOps.lean ====
section
/-! DEFINITION. What the engine words share: the running job, its stack and faults (13 R252-R259), the engines' reads
and writes (10 R215-R219, 13 R259, 22 R407-R408), claims and range locks. A job is named by the number of its
submission (order), which is unique. -/

namespace Sys2Proof.Machine

/-! ### The running job -/

/-- The job with a number. -/
def State.jobNo (s : State) (o : Nat) : Option Job := s.jobs.find? (fun j => j.order == o)

/-- Replace the job of the same number. -/
def State.putJob (s : State) (j : Job) : State := { s with jobs := mapIf (fun x => x.order == j.order) (fun _ => j) s.jobs }

/-- A job whose word in progress has to be completed even while its context stops (R300): a bf.store that claims. -/
def Job.mustGo (j : Job) : Bool := j.prog.getD j.ip 0 == 0x0807

/-- A running job whose program has not ended. -/
def Job.live (j : Job) : Bool := j.st == .running && !j.finished

/-- The job ends in state fault with a code at a word (R259). -/
def Job.failAt (j : Job) (word code : Nat) : Job := { j with pending := some 6, code := code, word := word, finished := true }

/-- The job ends in state fault with a code at its current word (R259). -/
def Job.fail (j : Job) (code : Nat) : Job := j.failAt j.ip code

/-- The job ends in state error (R245). -/
def Job.inError (j : Job) : Job := { j with pending := some 7, finished := true }

/-- The word is finished and the next one begins (R257). Claims whose sectors were never written stay to the job's end
(R215, R276). -/
def Job.advance (j : Job) : Job :=
  { j with ip := j.ip + 1, ph := .start, unitIdx := 0, fetched := [], want := [], locks := [], left := [], out := none }

/-- The word is finished; its operands leave the stack. -/
def Job.done (j : Job) (pops : Nat) : Job := { j with stack := j.stack.drop pops }.advance

/-- Parameter word k (R248, R258). -/
def Job.param (j : Job) (k : Nat) : Word := j.params.get 0 k
/-- Set a parameter word. -/
def Job.setParam (j : Job) (k v : Nat) : Job := { j with params := j.params.set k (BitVec.ofNat 64 v) }
/-- Raise flags into the status word (R246). -/
def Job.raise (j : Job) (f : Flags) : Job := { j with fl := j.fl.or f }

/-- The kinds that serve a class of words (R256): 0 mm, 1 cp, 2 rt, 3 cl, 4 lg. -/
def serves (kind cls : Nat) : Bool :=
  match cls with
  | 0 => true
  | 1 | 2 => kind == 0
  | 3 => kind == 1
  | 4 => kind == 2
  | 5 => kind == 3
  | 6 => kind == 4
  | _ => kind == 0 || kind == 2 || kind == 4

/-- Perform a word of a class on the job in progress (R257): its kind must serve the class, the stack must hold what the
word pops and have room for what it pushes; the operands are given as written, the top last. Where several faults of R259
apply to one word, the first in the order tested is recorded: class and function, then service, underflow, overflow, and
the word's own checks (DESIGN CHOICE, log 72). -/
def State.onWord (s : State) (cls pops pushes : Nat) (f : Job → List Word → State) : Host.Outcome State Fault Refusal :=
  match s.jobNo s.job with
  | none => .next s
  | some j =>
    if !j.live then .next s
    else if !serves j.kind cls then .next (s.putJob (j.fail 3))
    else if j.stack.length < pops then .next (s.putJob (j.fail 6))
    else if 8 < j.stack.length - pops + pushes then .next (s.putJob (j.fail 5))
    else .next (f j (j.stack.take pops).reverse)

/-- A word that only sets registers of the job, or faults with a code (R269, R292, R308, R330). -/
def State.setWord (s : State) (cls pops : Nat) (f : Job → List Word → Except Nat Job) : Host.Outcome State Fault Refusal :=
  s.onWord cls pops 0 (fun j ops => match f j ops with
    | .error c => s.putJob (j.fail c)
    | .ok j1 => s.putJob (j1.done pops))

/-- Operand i of a word as a number. -/
def opn (ops : List Word) (i : Nat) : Nat := (ops.getD i 0).toNat

/-- Require a condition or fault. -/
def need (b : Bool) (code : Nat) : Except Nat Unit := if b then .ok () else .error code

/-! ### What an engine access can meet -/

/-- Why an engine access does not complete now: a fault, a refusal by a core's window, a data error, a packet that must
be answered first, a wait, or a sector of this package that must be read first, which is an access of its own (R217): its
place, the virtual address it was translated from, and the tag under which it is kept. -/
inductive EErr where
  | fault (code : Nat)
  | window (core : Nat)
  | bad (sp : Space) (loc : Nat)
  | walk (pa : Nat)
  | ask (p : Packet)
  | wait
  | miss (page : Nat)
  | read (pl : Place) (va : Option Int) (tag : Nat)
  deriving DecidableEq, Repr

/-- The source of a job's accesses: the submitting thread's coordinates, context and mode (R167, R251). -/
def Job.source (s : State) (j : Job) : Source :=
  { pkg := s.pkgNo, core := j.core, lin := j.lin, uid := j.uid, job := j.id, ctx := j.ctx, sys := j.sys }

/-- Whether a packet of the job asks the same already. -/
def State.asked (s : State) (p : Packet) : Bool :=
  s.net.any (fun q => q.src.job == p.src.job && q.src.ctx == p.src.ctx && !q.src.far && q.va == p.va && q.kind == p.kind)
    || s.replies.any (fun r => r.src.job == p.src.job && r.src.ctx == p.src.ctx && !r.src.far && r.va == p.va && !r.posted)

/-- Whether the access is tried again. -/
def EErr.retry : EErr → Bool
  | .ask _ | .wait | .miss _ | .read .. => true
  | _ => false

/-- The translation that an engine has used is kept in its hedge's cache (R186). -/
def State.engTlb (s : State) (j : Job) (va : Int) (acc : Nat) : State :=
  match State.resolve { s with job := j.order } (hedgeOf j.core) j.ctx j.sys va 1 acc with
  | .ok _ es => s.modHedge (hedgeOf j.core) (fun h => es.foldl Hedge.install h)
  | _ => s

/-- An engine reads one sector at its home, and keeps it until its unit is done (R175, R176, R217). -/
def State.engRead (s : State) (j : Job) (pl : Place) (va : Option Int) (tag : Nat) : State :=
  let a := pl.key / 64 * 64
  let base := pl.addr 0 / 64 * 64
  let v := BitVec.ofNat 512 (s.homeNum pl.space base 64)
  let s1 := s.homeTouch pl.space base 64 pl.pol
  let s2 := match va with | some x => s1.engTlb j x 1 | none => s1
  s2.putJob { j with fetched := j.fetched ++ [(tag, a, v)] }

/-- A translation of another package that a packet of a job carries is the one used last in its die's cache (R408). -/
def State.rtcUse (s : State) (p : Packet) : State :=
  if p.pol ≠ 2 then s
  else s.modDie (dieOf p.src.core) (fun d =>
    let hit (e : TlbEntry) : Bool := p.space == .remote e.pkg && e.covers p.src.ctx p.va
    { d with rtc := d.rtc.filter hit ++ d.rtc.filter (fun e => !hit e) })

/-- What becomes of a job whose access does not complete (R245, R259, R168, R370). -/
def State.engErr (s : State) (j : Job) (e : EErr) : State :=
  match e with
  | .read pl va tag => s.engRead j pl va tag
  | .fault c => s.putJob (j.fail c)
  | .window n =>
    (s.countNack n).putJob (j.fail 12)
  | .bad sp loc => (s.homeError { src := j.source s, space := sp, loc := loc }).putJob j.inError
  | .walk pa => (s.walkError pa j.ctx (BitVec.ofNat 64 j.id)).putJob j.inError
  | .ask p => if s.asked p then s.putJob j else (((s.putJob j).rtcUse p).post p).2
  | .wait => s.putJob j
  | .miss page => (State.joinMiss { s with job := j.order } (hedgeOf j.core) j.ctx page).putJob j

/-- The fault code of a check of R162 that an engine transfer fails (R259). -/
def trapErr (t : TrapInfo) : EErr :=
  match t.code with
  | 6 => .fault 10
  | 7 => .fault 11
  | 12 => .walk t.pa
  | _ => .fault 9

/-- A cached translation of another package that covers an address (R408). -/
def State.rtcFind (s : State) (die pkg ctx : Nat) (va : Word) : Option TlbEntry :=
  (s.die die).rtc.find? (fun e => e.pkg == pkg && e.inc == bits (s.pkg.peers.get 0 pkg) 47 32 && e.covers ctx va)

/-- Where an engine access of one byte range of a sector goes (R162, R259): acc 1 read, 2 write, 3 atomic. -/
def State.ePlace (s : State) (j : Job) (va : Int) (acc : Nat) : Except EErr Place :=
  match State.resolve { s with job := j.order } (hedgeOf j.core) j.ctx j.sys va 1 acc with
  | .ok p _ => .ok p
  | .trap t => .error (trapErr t)
  | .wait page => .error (.miss page)

/-- A core belongs to the thicket of the job's submitting core. -/
def Job.ownThicket (j : Job) (n : Nat) : Bool := thicketOf n == thicketOf j.core

/-- A packet of a job to another package (R405, R408): copy, collective and router transfers carry physical addresses
through the remote translation cache, with the leaf's policy; the others are translated at the target. The count of a job's packet, which no
counter uses, tells the word it belongs to (R259). -/
def State.farPacket (s : State) (j : Job) (pkg : Nat) (coords : Bool) (va : Word) (acc : Nat) (kind : PKind) : Except EErr Packet :=
  let p : Packet := { cls := 2, src := j.source s, home := .remote pkg, space := .remote pkg, va := va, loc := va.toNat,
                      pol := if coords then 1 else 0, kind := kind, cnt := j.ip }
  if coords || j.kind = 0 || j.kind = 4 then .ok p
  else match s.rtcFind (dieOf j.core) pkg j.ctx va with
    | none => .error (.ask { p with cls := 3, kind := .xreq })
    | some e =>
      if !permits e j.sys acc then .error (.fault 11)
      else if e.pol = 3 then .error (.fault 11)
      else .ok { p with pol := 2, loc := e.frame + va.toNat % e.size, leaf := e.pol }

/-- A write of the job to a line of another package or of host memory is still unanswered: the next access of the job there
waits, so that its accesses to the line keep their order (R275, R332). -/
def State.lineOpen (s : State) (j : Job) (h : Home) (line : Nat) : Bool :=
  let own (c : Source) : Bool := c.job == j.id && c.ctx == j.ctx && !c.far
  s.net.any (fun p => own p.src && p.home == h && p.posted && p.va.toNat / 64 * 64 == line)
    || s.replies.any (fun r => own r.src && r.home == h && r.posted && r.va.toNat / 64 * 64 == line)

/-- Bytes of a sector of this package that the unit in progress has read; an access whose wait at the home has ended goes
before the read of one (R208). -/
def State.sectorOf (s : State) (j : Job) (pl : Place) (n tag : Nat) : Except EErr (List Byte) :=
  match j.fetched.find? (fun f => f.1 == tag && f.2.1 == pl.key / 64 * 64) with
  | some f => .ok (toBytes n (vecNum f.2.2 (pl.key % 64) n))
  | none => .error (if s.dueAt pl.home then .wait else .read pl none tag)

/-- A packet of a job to host memory (R209, R414): its words are performed there one by one (R192). -/
def Job.hostPacket (j : Job) (s : State) (va : Word) (pa : Nat) (kind : PKind) : Packet :=
  { cls := 2, src := j.source s, home := .host, space := .host, va := va, loc := pa / 64 * 64, kind := kind, cnt := j.ip }

/-- The bytes of one piece of a sector that an engine reads (R217): windows outside the own thicket (R167), errors
(R369), another package and host memory by packet. With uc the sector is served as a UC load (R271). -/
def State.readPiece (s : State) (j : Job) (pl : Place) (va : Word) (n : Nat) (uc : Bool := false) : Except EErr (List Byte) :=
  match pl with
  | .loc none _ => .error (.window 4096)
  | .loc (some m) off =>
    if s.noCore m || (!j.ownThicket m && !s.windowOk m (j.source s) 1 off n) then .error (.window m)
    else if s.isBad 0 m off n then .error (.bad (.core m) off)
    else s.sectorOf j pl n 2
  | .dev pa pol => if s.devBad pa n then .error (.bad .dev pa) else s.sectorOf j (.dev pa (if uc then 2 else pol)) n 2
  | .host pa =>
    let line := va.toNat / 64 * 64
    if s.lineOpen j .host line then .error .wait
    else match j.fetched.find? (fun f => f.1 == 0 && f.2.1 == line) with
    | some f => .ok (toBytes n (vecNum f.2.2 (va.toNat % 64) n))
    | none => .error (.ask (j.hostPacket s (BitVec.ofNat 64 line) pa (.load 64)))
  | .remote pkg coords =>
    let line := va.toNat / 64 * 64
    if s.lineOpen j (.remote pkg) line then .error .wait
    else match j.fetched.find? (fun f => f.1 == 0 && f.2.1 == line) with
    | some f => .ok (toBytes n (vecNum f.2.2 (va.toNat % 64) n))
    | none =>
      match s.farPacket j pkg coords (BitVec.ofNat 64 line) 1 (.load 64) with
      | .error e => .error e
      | .ok p => .error (.ask (if uc && p.pol == 0 then { p with pol := 3 } else p))

/-- A sector to be read, with the address it was translated from. -/
def EErr.at (va : Int) (e : EErr) : EErr :=
  match e with
  | .read pl _ tag => .read pl (some va) tag
  | x => x

/-- Read bytes from a virtual address, sector by sector (R217, R259). -/
def State.eReadFuel (s : State) (j : Job) (uc : Bool) : Nat → Int → Nat → Except EErr (List Byte)
  | 0, _, _ => .ok []
  | fuel + 1, va, n =>
    if n = 0 then .ok []
    else do
      let k := Nat.min n (64 - (va % 64).toNat)
      let pl ← s.ePlace j va 1
      let a ← (s.readPiece j pl (ofInt va) k uc).mapError (EErr.at va)
      let b ← State.eReadFuel s j uc fuel (va + k) (n - k)
      .ok (a ++ b)

/-- Read n bytes from a virtual address. -/
def State.eRead (s : State) (j : Job) (va : Int) (n : Nat) (uc : Bool := false) : Except EErr (List Byte) :=
  s.eReadFuel j uc (n / 64 + 2) va n

/-- Read a number of n bytes. -/
def State.eNum (s : State) (j : Job) (va : Int) (n : Nat) : Except EErr Nat := do
  let b ← s.eRead j va n
  .ok (ofBytes b)

/-- Write one piece of a sector (R19, R167, R175, R369): the state after it. -/
def State.writePiece (s : State) (j : Job) (pl : Place) (va : Word) (bs : List Byte) : Except EErr State :=
  let n := bs.length
  if s.dueAt pl.home then .error .wait
  else match pl with
  | .loc none _ => .error (.window 4096)
  | .loc (some m) off =>
    if s.noCore m || (!j.ownThicket m && !s.windowOk m (j.source s) 2 off n)
        || (!j.sys && (firstRefused (s.bound m) off n).isSome) then .error (.window m)
    else if s.mergesBad 0 m off n then .error (.bad (.core m) off)
    else .ok ((s.storeL m off bs).wrote 0 (.core m) (off / 64 * 64))
  | .dev pa pol =>
    if s.devMergeBad (pa / 64) (byteMask (pa % 64) n) then .error (.bad .dev pa)
    else .ok ((s.devStore (pa / 64) (vecAt (pa % 64) (ofBytes bs)) (byteMask (pa % 64) n) pol).wrote 0 .dev (pa / 64 * 64))
  | .host pa =>
    let line := va.toNat / 64 * 64
    if s.lineOpen j .host line then .error .wait
    else .ok (s.post (j.hostPacket s (BitVec.ofNat 64 line) pa (.store (vecAt (va.toNat % 64) (ofBytes bs)) (byteMask (va.toNat % 64) n)))).2
  | .remote pkg coords =>
    let line := va.toNat / 64 * 64
    if s.lineOpen j (.remote pkg) line then .error .wait
    else match s.farPacket j pkg coords (BitVec.ofNat 64 line) 2 (.store (vecAt (va.toNat % 64) (ofBytes bs)) (byteMask (va.toNat % 64) n)) with
    | .error e => .error e
    | .ok p => .ok ((s.rtcUse p).post p).2

/-! ### Places named by coordinates (R164, R279) -/

/-- The place of a local offset of the core that the coordinates [35:17] of an aperture offset name. -/
def State.coordAt (s : State) (j : Job) (dst off : Nat) : Place :=
  let pk := dst / 2 ^ 29 % 128
  if pk = s.pkgNo then .loc (s.place (hedgeOf j.core) j.ctx (linOf (dst / 2 ^ 17 % 64) (dst / 2 ^ 23 % 64))) off
  else .remote pk true

/-- The address that a packet to a core of another package carries: the coordinates with the offset. -/
def coordVa (dst off : Nat) : Word := BitVec.ofNat 64 (dst % 2 ^ 36 / 2 ^ 17 * 2 ^ 17 + off)

/-- The place of byte off of the core that output row c goes to (R279). -/
def State.drainPlace (s : State) (j : Job) (c off : Nat) : Place :=
  if j.mm.mode / 64 % 2 = 1 then .loc (some (coreOfSlice (thicketOf j.core) (c % 8))) off else s.coordAt j j.mm.dst off

/-- The address that a packet to another package carries for byte off of an output row. -/
def Job.drainVa (j : Job) (off : Nat) : Word := coordVa j.mm.dst off

/-- Read bytes at a place that coordinates name. -/
def State.placeRead (s : State) (j : Job) (pl : Nat → Place) (va : Nat → Word) : Nat → Nat → Nat → Except EErr (List Byte)
  | 0, _, _ => .ok []
  | fuel + 1, off, n =>
    if n = 0 then .ok []
    else do
      let k := Nat.min n (64 - off % 64)
      let a ← s.readPiece j (pl off) (va off) k
      let b ← State.placeRead s j pl va fuel (off + k) (n - k)
      .ok (a ++ b)

/-! ### Claims (R215) and range locks (R218) -/

/-- The order of claims: package, device sectors before local ranges, address; local ranges by logical linear index. -/
def ClaimKey.before (a b : ClaimKey) : Bool :=
  if a.pkg != b.pkg then decide (a.pkg < b.pkg)
  else if a.loc != b.loc then !a.loc
  else if a.lin != b.lin then decide (a.lin < b.lin)
  else decide (a.sector < b.sector)

/-- Two claims name one sector (R215): the same storage, whatever the context calls it. -/
def ClaimKey.same (a b : ClaimKey) : Bool := a.pkg == b.pkg && a.loc == b.loc && a.sector == b.sector && a.core == b.core

/-- A list of claims names a sector. -/
def ClaimKey.isIn (c : ClaimKey) (l : List ClaimKey) : Bool := l.any (fun x => x.same c)

/-- A list of claims without a sector. -/
def ClaimKey.off (c : ClaimKey) (l : List ClaimKey) : List ClaimKey := l.eraseP (fun x => x.same c)

/-- Insert a claim in ascending order, once. -/
def claimInsert (c : ClaimKey) : List ClaimKey → List ClaimKey
  | [] => [c]
  | x :: r => if c.same x && c.lin == x.lin then x :: r else if c.before x then c :: x :: r else x :: claimInsert c r

/-- The physical address of a line of another package, as a job knows it: by an answer that its launch has waited for, kept
under tag 7 by its page, or by the cache of R408. -/
def State.farPhys (s : State) (j : Job) (pkg : Nat) (coords : Bool) (line : Nat) : Option Nat :=
  match j.fetched.find? (fun f => f.1 == 7 && f.2.1 == line / 65536 * 65536) with
  | some f => some (f.2.2.toNat + line % 65536)
  | none => match s.farPacket j pkg coords (BitVec.ofNat 64 line) 2 .claim with
    | .ok p => if p.pol = 2 then some p.loc else none
    | .error _ => none

/-- The claim on the sector of a place (R215): host memory is not claimed. At another package it is the claim that the job
already has for the line, else it is ordered by the physical address, of a job whose packets carry one (R408); of the others
by the address that their packets carry (log 35). -/
def State.claimKey (s : State) (j : Job) (pl : Place) (va : Word) : Option ClaimKey :=
  match pl with
  | .loc (some m) off => some { pkg := s.pkgNo, loc := true, lin := s.logical (hedgeOf j.core) j.ctx m, sector := off / 64, core := m }
  | .dev pa _ => some { pkg := s.pkgNo, loc := false, lin := 0, sector := pa / 64, core := 0 }
  | .remote pkg coords =>
    let line := va.toNat / 64 * 64
    match (j.claims ++ j.want).find? (fun c => c.pkg == pkg && c.va == line) with
    | some c => some c
    | none => some { pkg := pkg, loc := coords, lin := 0, sector := ((s.farPhys j pkg coords line).getD line) / 64, core := 4096, va := line }
  | _ => none

/-- What the translations of byte ranges wait for (R186, R408): a walk under way, or the answer of another package; the launch
that uses them begins when there is nothing left. -/
def State.awaited (s : State) (j : Job) (acc : Nat) (rs : List (Int × Nat)) : Option EErr :=
  rs.findSome? (fun (r : Int × Nat) => (List.range (r.2 / 65536 + 2)).findSome? (fun (i : Nat) =>
    let page : Int := (r.1 / 65536 + (i : Int)) * 65536
    if r.1 + r.2 ≤ max r.1 page then none
    else match s.ePlace j (max r.1 page) acc with
      | .error (.miss p) => some (.miss p)
      | .ok (.remote pkg coords) =>
        let line := (ofInt page).toNat
        if acc != 2 || (s.farPhys j pkg coords line).isSome then none
        else (match s.farPacket j pkg coords (BitVec.ofNat 64 line) 2 .claim with
          | .error (.ask p) => some (.ask p)
          | _ => none)
      | _ => none))

/-- Until a launch knows its local operands, all of its thicket's local memories are locked (R218; DESIGN CHOICE, log 39). -/
def Job.lockAll (j : Job) : Job :=
  { j with locks := (List.range 8).map (fun t => (coreOfSlice (thicketOf j.core) t, 0, localBytes)) }

/-- A launch reads what tells its operands: until it has, its thicket is locked (R218). -/
def State.engAsk (s : State) (j : Job) (e : EErr) : State := s.engErr (if e.retry then j.lockAll else j) e

/-- A launch goes on once the translations of its destinations and of its sources are at hand (R186, R408). -/
def State.onceReady (s : State) (j : Job) (dst src : List (Int × Nat)) (f : State) : State :=
  match s.awaited j 2 dst <|> s.awaited j 1 src with
  | some e => s.engAsk j e
  | none => f

/-- The claims of a byte range at a virtual address; a page that fails its checks gives none. -/
def State.claimsFuel (s : State) (j : Job) : Nat → Int → Nat → List ClaimKey → List ClaimKey
  | 0, _, _, acc => acc
  | fuel + 1, va, n, acc =>
    if n = 0 then acc
    else
      let k := Nat.min n (64 - (va % 64).toNat)
      let acc1 := match s.ePlace j va 2 with
        | .ok pl => (match s.claimKey j pl (ofInt va) with | some c => claimInsert c acc | none => acc)
        | .error _ => acc
      State.claimsFuel s j fuel (va + k) (n - k) acc1

/-- The local ranges of the own thicket that a byte range names (R218). -/
def State.rangeLocks (s : State) (j : Job) : Nat → Int → Nat → List (Nat × Nat × Nat)
  | 0, _, _ => []
  | fuel + 1, va, n =>
    if n = 0 then []
    else
      let k := Nat.min n (64 - (va % 64).toNat)
      let r := State.rangeLocks s j fuel (va + k) (n - k)
      match s.ePlace j va 1 with
      | .ok (.loc (some m) off) => if j.ownThicket m then (m, off, off + k) :: r else r
      | _ => r

/-- The local ranges that a list of byte ranges names. -/
def State.rangesLocks (s : State) (j : Job) (rs : List (Int × Nat)) : List (Nat × Nat × Nat) :=
  (rs.flatMap (fun r => s.rangeLocks j (r.2 / 64 + 2) r.1 r.2)).eraseDups

/-- The claims of a list of destination ranges (R215). -/
def State.claimsOf (s : State) (j : Job) (ds : List (Int × Nat)) : List ClaimKey :=
  ds.foldl (fun acc d => s.claimsFuel j (d.2 / 64 + 2) d.1 d.2 acc) []

/-- A launch begins: it asks for its claims in ascending order; its local operands are locked (R215, R218). -/
def State.beginLaunch (s : State) (j : Job) (want : List ClaimKey) (locks : List (Nat × Nat × Nat)) : State :=
  { s.putJob { j with want := want, locks := locks, since := s.nextId, ph := if want.isEmpty then .active else .claiming }
    with nextId := s.nextId + 1 }

/-! ### The writes of a unit (R215, R217, R259, R310, R315) -/

/-- The place of an address of a list: translated here, or at the package of the descriptor (R306). An address on another
package is checked here as far as its form goes (R162 steps 1-3, R404). -/
def State.rtPlace (s : State) (j : Job) (pkg : Option Nat) (va : Nat) (acc : Nat) : Except EErr Place :=
  match pkg with
  | some p =>
    if p = s.pkgNo then s.ePlace j va acc
    else if !spanOk (va : Int) 1 || (!j.sys && (BitVec.ofNat 64 va : Word).getLsbD 55) then
      .error (.fault (if spanOk (va : Int) 1 then 11 else 9))
    else if s.reachable p then .ok (.remote p false) else .error (.fault 9)
  | none => s.ePlace j va acc

/-- One sector piece of a posted write of the router: it waits at its home like any store (R216, R315). -/
def State.rtPiece (s : State) (j : Job) (pl : Place) (va : Word) (bs : List Byte) : Except EErr State :=
  let p (loc pol : Nat) : Packet :=
    { cls := 2, src := j.source s, home := pl.home, space := pl.space, va := va, loc := loc / 64 * 64, pol := pol, cnt := j.ip,
      kind := .store (vecAt (loc % 64) (ofBytes bs)) (byteMask (loc % 64) bs.length) }
  match pl with
  | .loc (some _) off => .ok (s.post (p off 0)).2
  | .dev pa pol => .ok (s.post (p pa pol)).2
  | _ => s.writePiece j pl va bs

/-- The place that a write goes to, with the address a packet to another package carries. -/
def State.outPlace (s : State) (j : Job) (dest : OutTo) : Except EErr (Place × Word) :=
  match dest with
  | .va a => (s.ePlace j a 2).map (fun pl => (pl, ofInt a))
  | .row c off => .ok (s.drainPlace j c off, j.drainVa off)
  | .list pkg va => (s.rtPlace j pkg va 2).map (fun pl => (pl, BitVec.ofNat 64 va))

/-- One write of a unit is made: the state after it. -/
def State.writeTo (s : State) (j : Job) (dest : OutTo) (bs : List Byte) : Except EErr State := do
  let pl ← s.outPlace j dest
  match dest with
  | .va a => let s1 ← s.writePiece j pl.1 pl.2 bs; .ok (s1.engTlb j a 2)
  | .row .. => s.writePiece j pl.1 pl.2 bs
  | .list none va => let s1 ← s.rtPiece j pl.1 pl.2 bs; .ok (s1.engTlb j va 2)
  | .list (some _) _ => s.rtPiece j pl.1 pl.2 bs

/-- Byte k further on. -/
def OutTo.plus (dest : OutTo) (k : Nat) : OutTo :=
  match dest with
  | .va a => .va (a + k)
  | .row c off => .row c (off + k)
  | .list pkg x => .list pkg (x + k)

/-- How far into its sector a write begins. -/
def OutTo.inSector : OutTo → Nat
  | .va a => (a % 64).toNat
  | .row _ off => off % 64
  | .list _ x => x % 64

/-- The writes of bytes from a place on, sector by sector; the last carries what P5 and P6 become. -/
def cutFuel (p5 p6 : Option Nat) : Nat → OutTo → List Byte → List OutPiece
  | 0, _, _ => []
  | fuel + 1, dest, bs =>
    if bs.isEmpty then []
    else
      let k := Nat.min bs.length (64 - dest.inSector)
      let last := (bs.drop k).isEmpty
      .bytes dest (bs.take k) (if last then p5 else none) (if last then p6 else none) none :: cutFuel p5 p6 fuel (dest.plus k) (bs.drop k)

/-- The writes of bytes from a place on. -/
def cut (dest : OutTo) (bs : List Byte) (p5 p6 : Option Nat := none) : List OutPiece := cutFuel p5 p6 (bs.length / 64 + 2) dest bs

/-- The writes of a list of ranges, in order. -/
def cuts (ws : List (OutTo × List Byte)) : List OutPiece := ws.flatMap (fun w => cut w.1 w.2)

/-- The claims on the sectors that a write reaches. -/
def State.pieceKeys (s : State) (j : Job) (p : OutPiece) : List ClaimKey :=
  let key (dest : OutTo) : List ClaimKey := match s.outPlace j dest with
    | .ok pl => (s.claimKey j pl.1 pl.2).toList
    | .error _ => []
  match p with
  | .bytes dest .. => key dest
  | .sum c off ls => (List.range (80 * ls.length / 64 + 2)).flatMap (fun i =>
      if off / 64 + i ≤ (off + 80 * ls.length - 1) / 64 then key (.row c (64 * (off / 64 + i))) else [])
  | .score .. => []

/-- Mark each write that is the job's last to its sector: neither a later write of the unit nor a later unit goes there
(R215). Gives the writes and the claims still needed before them. -/
def State.markLast (s : State) (j : Job) : List OutPiece → List ClaimKey → List OutPiece × List ClaimKey
  | [], left => ([], left)
  | p :: r, left =>
    let t := State.markLast s j r left
    let ks := s.pieceKeys j p
    let p1 := match p, ks with
      | .bytes dest bs a b _, k :: _ => .bytes dest bs a b (if k.isIn t.2 then none else some k)
      | x, _ => x
    (p1 :: t.1, ks.foldl (fun l k => if k.isIn l then l else k :: l) t.2)

/-- A unit has its results: its writes follow one by one, then unit n; left are the claims that later units need. -/
def State.emit (s : State) (j : Job) (n : Nat) (left : List ClaimKey) (ps : List OutPiece) : State :=
  s.putJob { j with out := some (n, (s.markLast j ps left).1), left := left }

/-- The accumulators added to those of an output row in memory (R49, R280), with the flags. -/
def addLas (old : List Byte) (ls : List La) : List Byte × Flags :=
  let vs := ls.zipIdx.map (fun e => laAdd (laDecode (BitVec.ofNat 640 (ofBytes ((old.drop (80 * e.2)).take 80)))) (laDecode e.1))
  (vs.flatMap (fun v => toBytes 80 (laEncode v.1).toNat), joinFlags (vs.map (fun v => v.2)))

/-- The home coordinates of the mailbox row of token t (R281). -/
def MmRegs.mbHome (r : MmRegs) (t : Nat) : Nat × Nat :=
  let q := t / 64
  (r.mbMap / 2 ^ 17 % 64 + q % (r.mbMap % 128), r.mbMap / 2 ^ 23 % 64 + q / (r.mbMap % 128))

/-- A score message of a matrix job leaves (R281). -/
def State.scorePost (s : State) (j : Job) (t : Nat) (es : List (BitVec 128)) : Except EErr State :=
  let h := j.mm.mbHome t
  let pk := j.mm.mbMap / 2 ^ 29
  let p : Packet := { cls := 0, src := j.source s, cnt := j.ip, kind := .score (t % 64) es j.order,
                      va := BitVec.ofNat 64 (pk * 2 ^ 29 + h.2 * 2 ^ 23 + h.1 * 2 ^ 17) }
  if pk = s.pkgNo then
    match s.place (hedgeOf j.core) j.ctx (linOf h.1 h.2) with
    | none => .error (.window 4096)
    | some m => .ok (s.post { p with home := .core m, space := .core m }).2
  else .ok (s.post { p with home := .remote pk, space := .remote pk }).2

/-- The first of the writes of a unit is made. -/
def State.drainPiece (s : State) (j : Job) (n : Nat) (p : OutPiece) (r : List OutPiece) : State :=
  match p with
  | .bytes dest bs p5 p6 free =>
    (match s.writeTo j dest bs with
    | .error e => s.engErr j e
    | .ok s1 =>
      let j1 : Job := { j with out := some (n, r), claims := match free with | some k => k.off j.claims | none => j.claims }
      let j2 := match p5 with | some v => j1.setParam 5 v | none => j1
      s1.putJob (match p6 with | some v => j2.setParam 6 v | none => j2))
  | .sum c off ls =>
    (match s.placeRead j (s.drainPlace j c) j.drainVa (80 * ls.length / 64 + 2) off (80 * ls.length) with
    | .error e => s.engErr j e
    | .ok old =>
      let v := addLas old ls
      s.emit (Job.raise { j with fetched := [] } v.2) n j.left (cut (.row c off) v.1 ++ r))
  | .score t es =>
    match s.scorePost j t es with
    | .error e => s.engErr j e
    | .ok s1 => s1.putJob { j with out := some (n, r) }

/-- Perform a launch word (R257): while the unit in progress has writes to make, the next of them; else what the word
does. -/
def State.onLaunch (s : State) (cls pops : Nat) (f : Job → List Word → State) : Host.Outcome State Fault Refusal :=
  s.onWord cls pops 0 (fun j o => match j.out with
    | some (n, p :: r) => s.drainPiece j n p r
    | _ => f j o)

/-- The unit whose writes are all made is done. -/
def Job.unitDone (j : Job) (n : Nat) : Job := { j with unitIdx := n, out := none, fetched := [] }

/-! ### Answers to engines -/

/-- Packets and unanswered requests of a job (R219). -/
def State.jobTraffic (s : State) (j : Job) : Bool :=
  let own (c : Source) : Bool := c.job == j.id && c.ctx == j.ctx && !c.far
  s.net.any (fun p => own p.src && (match p.kind with | .msg _ | .tdec _ => false | _ => true)) || s.replies.any (fun r => own r.src)

/-- A write that its home has refused, or lost, is not acknowledged: the wake-up messages and the signals of completion that
waited for it are not sent (R279, R339). -/
def Job.refusedLate (j : Job) : Job := { j with wake := [], cl := { j.cl with due := false } }

/-- Keep an answer for the word that asked (R217, R317, R408). A claim at another package that is granted after its job ended
early is held until it has been given back there (R219). -/
def State.engineReply (s0 : State) (r : Reply) : State :=
  let s : State := { s0 with replies := s0.replies.filter (fun x => x.id != r.id) }
  let change (f : Job → Job) : State :=
    s.modJob r.src.job r.src.ctx (fun j => if j.live || (j.st == .running && j.pending == some 4) then f j else j)
  if r.acc = 9 then
    let v : Vec := match r.kind with | .value v _ => v | _ => 0
    s.modJob r.src.job r.src.ctx (fun j =>
      if j.live then { j with fetched := j.fetched ++ [(9, r.va.toNat, v)] }
      else if j.holds && v != 0 then { j with held := j.held ++ j.want.take 1, want := [] }
      else j)
  else if r.acc = 10 then s
  else
  match r.kind with
  | .value v _ => if r.posted then s else
      change (fun j => { j with fetched := j.fetched ++ [(if r.acc = 3 then 1 else 0, r.va.toNat, v)] })
  | .nack => change (fun j => j.refusedLate.failAt r.cnt 12)
  | .dataErr => change (fun j => j.refusedLate.inError)
  | .leaf e =>
    (s.modDie (dieOf r.src.core) (fun d => { d with rtc := (e :: d.rtc).take 256 })).modJob r.src.job r.src.ctx (fun j =>
      if j.live && j.ph == .start then { j with fetched := (7, r.va.toNat, BitVec.ofNat 512 (e.frame + r.va.toNat % e.size)) :: j.fetched }
      else j)
  | .remote code _ => change (fun j => if code = 12 then j.refusedLate.inError else j.refusedLate.failAt r.cnt (if code = 7 then 11 else 10))
  | _ => s

end Sys2Proof.Machine
end

