-- ==== Sys2Proof/Machine/EngMm.lean ====
section
/-! DEFINITION. The matrix words (14 R261-R284). -/

namespace Sys2Proof.Machine

/-! ### Registers (R263-R265, R269-R271, R278) -/

/-- The operand format of a code of mm.fmt (R263): 0 is bf16; the accepted codes only. -/
def mmElt (code : Nat) (uns : Bool) : Option Elt :=
  if [1, 2, 6, 7, 8, 9, 10].contains code then Elt.of code uns
  else if code = 0 then some (.flt .bf16) else none

/-- Whether an element format is an integer. -/
def Elt.isInt : Elt → Bool
  | .int .. => true
  | .flt _ => false

/-- The formats of a value of mm.fmt (R263): one width, unsigned only with an integer format. -/
def mmFmts (f : Nat) : Option (Elt × Elt) :=
  match mmElt (f % 16) (f / 256 % 2 == 1), mmElt (f / 16 % 16) (f / 512 % 2 == 1) with
  | some a, some b =>
    if a.w = b.w && (a.isInt || f / 256 % 2 == 0) && (b.isInt || f / 512 % 2 == 0) then some (a, b) else none
  | _, _ => none

/-- mm.fmt ( f -- ) (R263, R270). -/
def execMmFmt (s : State) : Host.Outcome State Fault Refusal :=
  s.setWord 1 1 (fun j o => do
    need (opn o 0 < 1024) 13
    need (mmFmts (opn o 0)).isSome 16
    .ok { j with mm := { j.mm with fmt := opn o 0 } })

/-- mm.scale ( m sa sas sb sbs -- ) (R265, R270). -/
def execMmScale (s : State) : Host.Outcome State Fault Refusal :=
  s.setWord 1 5 (fun j o => do
    need (opn o 0 ≤ 2 && opn o 1 < localBytes && opn o 2 < localBytes && canonical (o.getD 3 0) && decide (opn o 4 < 2 ^ 32)) 13
    .ok { j with mm := { j.mm with smode := opn o 0, sa := opn o 1, sas := opn o 2, sb := opn o 3, sbs := opn o 4 } })

/-- mm.geo ( M N K -- ) (R270). -/
def execMmGeo (s : State) : Host.Outcome State Fault Refusal :=
  s.setWord 1 3 (fun j o => do
    need (opn o 0 ≤ 2 ^ 20 && opn o 1 ≤ 65536 && decide (opn o 2 ≤ 2 ^ 20)) 13
    .ok { j with mm := { j.mm with m := opn o 0, n := opn o 1, k := opn o 2 } })

/-- mm.a ( aoff astr -- ) (R264, R270). -/
def execMmA (s : State) : Host.Outcome State Fault Refusal :=
  s.setWord 1 2 (fun j o => do
    need (opn o 0 % 64 == 0 && opn o 1 % 64 == 0 && opn o 0 ≤ 131008 && decide (opn o 1 ≤ 131008)) 13
    .ok { j with mm := { j.mm with aoff := opn o 0, astr := opn o 1 } })

/-- mm.b ( path bb bstr -- ) (R270, R271). -/
def execMmB (s : State) : Host.Outcome State Fault Refusal :=
  s.setWord 1 3 (fun j o => do
    let p := opn o 0
    let toff := p / 2 ^ 32
    need (p % 4 ≤ 2 && !(p % 4 == 2 && p / 4 % 2 == 1) && p % 2 ^ 32 < 8 && toff % 64 == 0 && decide (toff < 2 ^ 18)
      && opn o 1 % 64 == 0 && opn o 2 % 64 == 0) 13
    .ok { j with mm := { j.mm with path := p % 4, keep := p / 4 % 2 == 1, toff := toff, bb := opn o 1, bstr := opn o 2 } })

/-- mm.acc ( f -- ) (R268, R270). -/
def execMmAcc (s : State) : Host.Outcome State Fault Refusal :=
  s.setWord 1 1 (fun j o => do
    need (opn o 0 < 4) 13
    .ok { j with mm := { j.mm with accIn := opn o 0 % 2 == 1, accOut := opn o 0 / 2 == 1 } })

/-- The output format of a value of mm.round (R278): code 0 is fp32. -/
def mmOut (m : Nat) : Option Elt := if m % 16 = 0 then some (.flt .fp32) else Elt.of (m % 16) (m / 128 % 2 == 1)

/-- mm.round ( m seed -- ) (R270, R278). -/
def execMmRound (s : State) : Host.Outcome State Fault Refusal :=
  s.setWord 1 2 (fun j o => do
    let m := opn o 0
    need (m < 256 && m % 16 ≤ 11 && m / 16 % 4 != 3 && (m / 128 == 0 || (match mmOut m with | some e => e.isInt | none => false))) 13
    .ok { j with mm := { j.mm with rm := m, seed := opn o 1 % 2 ^ 32 } })

/-- The operands of the drain words lie within their limits (R270). -/
def drainOk (dst str mode : Nat) (la : Bool) : Bool :=
  decide (dst < 2 ^ 36) && dst % 64 == 0 && str % 64 == 0 && decide (str ≤ localBytes) && decide (mode < 256)
    && (la || mode / 128 == 0)

/-- mm.drain ( dst str mode -- ) (R279). -/
def execMmDrain (s : State) : Host.Outcome State Fault Refusal :=
  s.setWord 1 3 (fun j o => do
    need (drainOk (opn o 0) (opn o 1) (opn o 2) false) 13
    .ok { j with mm := { j.mm with drain := 1, dst := opn o 0, str := opn o 1, mode := opn o 2 } })

/-- mm.drainla ( dst str mode -- ) (R280). -/
def execMmDrainla (s : State) : Host.Outcome State Fault Refusal :=
  s.setWord 1 3 (fun j o => do
    need (drainOk (opn o 0) (opn o 1) (opn o 2) true) 13
    .ok { j with mm := { j.mm with drain := 2, dst := opn o 0, str := opn o 1, mode := opn o 2 } })

/-- mm.drainmb ( map tok0 ex0 k -- ) (R281). -/
def execMmDrainmb (s : State) : Host.Outcome State Fault Refusal :=
  s.setWord 1 4 (fun j o => do
    let m := opn o 0
    need (m < 2 ^ 36 && m / 128 % 1024 == 0 && 1 ≤ m % 128 && m % 128 ≤ 64 && opn o 1 < 2 ^ 32 && opn o 2 ≤ 65534
      && 1 ≤ opn o 3 && decide (opn o 3 ≤ 8)) 13
    .ok { j with mm := { j.mm with drain := 3, mbMap := m, tok0 := opn o 1, ex0 := opn o 2, mbK := opn o 3, mode := 0 } })

/-! ### The shape of a launch (R262, R264, R272, R275) -/

/-- A group of rows with its B: rows from row-space row arow give output rows from crow on; the path and column 0 of B. -/
structure MmGroup where
  arow : Nat
  rows : Nat
  crow : Nat
  path : Nat
  bb : Nat
  budget : Nat := 0xFFFFF
  expert : Option Nat := none
  deriving DecidableEq, Repr

/-- How a launch reads B: as the words name it, or rotated through the thicket (R273, R274). -/
inductive MmKind where
  | run
  | ring
  | gmm
  deriving DecidableEq, Repr

/-- Bytes of a row of K elements (R264). -/
def rowBytes (k w : Nat) : Nat := (k * w + 7) / 8

/-- The element width in force. -/
def MmRegs.w (r : MmRegs) : Nat := match mmFmts r.fmt with | some (a, _) => a.w | none => 16

/-- The K of a launch: the record's for mm.gmm, else mm.geo's (R275). -/
def Job.mmK (j : Job) (kind : MmKind) : Nat := if kind = .gmm then j.idxs.getD 0 0 / 2 ^ 32 else j.mm.k

/-- The groups of a launch: one for mm.run and mm.ring, the record's for mm.gmm (R275). -/
def Job.mmGroups (j : Job) (kind : MmKind) : List MmGroup :=
  match kind with
  | .gmm => (List.range (j.idxs.getD 0 0 % 65536)).map (fun g =>
      let w (i : Nat) : Nat := j.idxs.getD (4 + 4 * g + i) 0
      { arow := w 1 % 2 ^ 32, rows := w 0 / 2 ^ 32, crow := w 1 / 2 ^ 32, path := j.mm.path, bb := w 2, budget := w 3 % 2 ^ 20,
        expert := if w 0 / 65536 % 2 = 1 then some (w 0 % 65536) else none })
  | _ => [{ arow := 0, rows := j.mm.m, crow := 0, path := j.mm.path, bb := j.mm.bb }]

/-- The rows of a group that slice t holds, ascending (R262). -/
def MmGroup.sliceRows (g : MmGroup) (t : Nat) : List Nat :=
  (List.range g.rows).filterMap (fun i => if (g.arow + i) % 8 = t then some (g.arow + i) else none)

/-- Block rounds of a group: the greatest number of blocks of a slice (R262). -/
def MmGroup.rounds (g : MmGroup) : Nat := ((g.rows + 7) / 8 + 3) / 4

/-- The rows of block r of slice t. -/
def MmGroup.block (g : MmGroup) (t r : Nat) : List Nat := ((g.sliceRows t).drop (4 * r)).take 4

/-- Whether block r is slice t's last. -/
def MmGroup.lastBlock (g : MmGroup) (t r : Nat) : Bool := decide ((g.sliceRows t).length ≤ 4 * (r + 1))

/-- The local offset of a row's A data (R264). -/
def MmRegs.aAddr (r : MmRegs) (i : Nat) : Nat := r.aoff + i / 8 * r.astr

/-- Bytes of scales of a row (R265). -/
def MmRegs.scaleBytes (r : MmRegs) (k : Nat) : Nat :=
  if r.smode = 0 then 0 else if r.smode = 1 then (k + 31) / 32 else (k + 15) / 16

/-- Bytes of n elements of an output row (R278, R280). -/
def MmRegs.outBytesOf (r : MmRegs) (n : Nat) : Nat :=
  if r.drain = 2 then 80 * n else (n * (match mmOut r.rm with | some e => e.w | none => 32) + 7) / 8

/-- Bytes of a rounded or raw output row (R278, R280). -/
def MmRegs.outBytes (r : MmRegs) : Nat := r.outBytesOf r.n

/-- The local offset of output row c (R279). -/
def MmRegs.rowOff (r : MmRegs) (c : Nat) : Nat :=
  r.dst % localBytes + (if r.mode / 64 % 2 = 1 then c / 8 else c) * r.str

/-- The output rows of a launch, skipped groups included. -/
def Job.mmRows (j : Job) (kind : MmKind) : List Nat :=
  (j.mmGroups kind).flatMap (fun g => (List.range g.rows).map (fun i => g.crow + i))

/-- Whether a launch is empty (R272). -/
def Job.mmEmpty (j : Job) (kind : MmKind) : Bool :=
  (j.mmGroups kind).all (fun g => g.rows == 0) || (kind != .gmm && j.mm.n == 0)

/-- A part of the ring lies within its local memory (R274): the bytes of the parts that a column really has. -/
def MmRegs.ringOk (r : MmRegs) (k : Nat) : Bool :=
  let rb := rowBytes k r.w
  let ks := (rb + 63) / 64
  let part := ks / 8 * 64
  ks % 8 == 0 && ((List.range 8).all (fun p => (List.range r.n).all (fun n =>
    let len := Nat.min part (rb - p * part)
    len == 0 || decide (r.bb + n * r.bstr + len ≤ localBytes))))

/-- The tile-store bytes that a launch reads or keeps lie in the store (R271); an empty launch has none. -/
def Job.tileOk (j : Job) (kind : MmKind) : Bool :=
  let r := j.mm
  let rb := rowBytes (j.mmK kind) r.w
  kind == .ring || rb == 0 || j.mmEmpty kind || ((j.mmGroups kind).all (fun g => g.rows == 0 || g.expert.isSome || g.path != 2
      || (List.range r.n).all (fun n => decide (g.bb + n * r.bstr + rb ≤ 2 ^ 18)))
    && (!r.keep || (List.range r.n).all (fun n => decide (r.toff + n * r.bstr + rb ≤ 2 ^ 18))))

/-- The checks of the geometry at the start of a launch (R272, R284): the fault code, or none. An empty launch is exempt
from code 18 alone. DESIGN CHOICE (log 72): a map of mm.drainmb whose package is not reachable faults with code 19, as the
destination of a drain does (R279); R281 names the 64 x 64 grid only. -/
def State.mmCheck (s : State) (j : Job) (kind : MmKind) : Option Nat :=
  let r := j.mm
  let k := j.mmK kind
  let rb := rowBytes k r.w
  let sbn := r.scaleBytes k
  let gs := j.mmGroups kind
  let holds := r.accIn || r.accOut
  if r.launched then some 17
  else if r.smode ≠ 0 ∧ r.w = 16 then some 16
  else if holds && (kind == .gmm || decide (8 < r.n)) then some 21
  else if r.drain = 0 && !j.mmEmpty kind && !(r.accOut && decide (r.n ≤ 8) && gs.all (fun g => decide (g.rounds ≤ 1))) then some 18
  else if !gs.all (fun g => (List.range g.rows).all (fun i =>
      (rb == 0 || decide (r.aAddr (g.arow + i) + rb ≤ localBytes))
        && (sbn == 0 || decide (r.sa + (g.arow + i) / 8 * r.sas + sbn ≤ localBytes)))) then some 19
  else if kind == .ring && !r.ringOk k then some 19
  else if !j.tileOk kind then some 19
  else if (r.drain = 1 || r.drain = 2) && !(s.reachable (r.dst / 2 ^ 29) && (j.mmRows kind).all (fun c => decide (r.rowOff c + r.outBytes ≤ localBytes))) then some 19
  else if r.drain = 3 && !(s.reachable (r.mbMap / 2 ^ 29) && (j.mmRows kind).all (fun c =>
      let h := r.mbHome ((r.tok0 + c) % 2 ^ 32)
      decide (h.1 < 64) && decide (h.2 < 64))) then some 19
  else none

/-- The claims of the drain of output rows from element n0 on (R215, R272). -/
def State.rowClaims (s : State) (j : Job) (rows : List Nat) (n0 : Nat) : List ClaimKey :=
  if j.mm.drain = 0 || j.mm.drain = 3 || j.mm.n ≤ n0 then []
  else rows.foldl (fun acc c =>
    let a := j.mm.rowOff c + j.mm.outBytesOf n0
    let b := j.mm.rowOff c + j.mm.outBytes
    (List.range ((b - 1) / 64 + 1 - a / 64)).foldl (fun acc i =>
      let off := (a / 64 + i) * 64
      match s.claimKey j (s.drainPlace j c off) (coordVa j.mm.dst off) with
      | some k => claimInsert k acc
      | none => acc) acc) []

/-- The claims of a launch's drain. -/
def State.mmClaims (s : State) (j : Job) (kind : MmKind) : List ClaimKey := s.rowClaims j (j.mmRows kind) 0

/-- The output rows that a group gives from block round r on. -/
def MmGroup.rowsFrom (g : MmGroup) (r : Nat) : List Nat :=
  (List.range 8).flatMap (fun t => ((g.sliceRows t).drop (4 * r)).map (fun i => g.crow + (i - g.arow)))

/-- The claims that a launch needs from its block step u on: of its current round the column blocks that are left, of the
later rounds and groups everything. -/
def State.mmLeft (s : State) (j : Job) (kind : MmKind) (u : Nat) : List ClaimKey :=
  let cbs := Nat.max 1 ((j.mm.n + 7) / 8)
  let gs := (j.mmGroups kind).zipIdx
  let here := (gs.filter (fun g => g.2 == j.gIdx)).flatMap (fun g => g.1.rowsFrom (u / cbs))
  let later := (gs.filter (fun g => g.2 == j.gIdx)).flatMap (fun g => g.1.rowsFrom (u / cbs + 1))
    ++ (gs.filter (fun g => decide (j.gIdx < g.2))).flatMap (fun g => g.1.rowsFrom 0)
  (s.rowClaims j here (8 * (u % cbs))).foldl (fun l c => claimInsert c l) (s.rowClaims j later 0)

/-- The local operands that a launch has still to read from column block cb0 of block round r0 of group g0 on (R218,
R282): rows, scales and ring parts, by core and range. A row is read until its round is over, a ring part until its
column block of the last round is. -/
def Job.mmLocks (j : Job) (kind : MmKind) (g0 r0 cb0 : Nat) : List (Nat × Nat × Nat) :=
  let r := j.mm
  let k := j.mmK kind
  let rb := rowBytes k r.w
  let sbn := r.scaleBytes k
  let core (t : Nat) : Nat := coreOfSlice (thicketOf j.core) t
  let left := (j.mmGroups kind).zipIdx.filter (fun g => decide (g0 ≤ g.2))
  let rows := left.flatMap (fun g => (List.range 8).flatMap (fun t =>
    ((g.1.sliceRows t).drop (if g.2 = g0 then 4 * r0 else 0)).flatMap (fun row =>
      [(core t, r.aAddr row, r.aAddr row + rb), (core t, r.sa + row / 8 * r.sas, r.sa + row / 8 * r.sas + sbn)])))
  let part := (rb + 63) / 64 / 8 * 64
  let ring := if kind == .ring && !rows.isEmpty then (List.range 8).flatMap (fun p =>
      ((List.range r.n).filter (fun n => !(left.all (fun g => decide (g.1.rounds ≤ r0 + 1)) && decide (n < 8 * cb0)))).map (fun n =>
        (core p, r.bb + n * r.bstr, r.bb + n * r.bstr + Nat.min part (rb - p * part)))) else []
  ((rows ++ ring).filter (fun l => decide (l.2.1 < l.2.2))).eraseDups

/-- Where column 0 of B of a group lies: as the launch names it, at the copy that its pin gave, or, before its pin, at each
copy that the region's entry names (R218, R321). -/
def State.mmBases (s : State) (j : Job) (g : MmGroup × Nat) : List Nat :=
  match g.1.expert with
  | none => if g.1.path = 2 then [] else [g.1.bb]
  | some e =>
    let x := s.regions.get {} e
    if g.2 = j.gIdx && j.mm.pinned then (j.pins.take 1).map (fun p => p.2.2)
    else if x.state = 0 || x.ctx != j.ctx then []
    else x.base :: (x.reps.map (fun b => b.2)).filter (fun b => b != 0)

/-- The columns of B and of its scales that the groups from g0 on have still to read, as ranges of virtual addresses
(R218): in the last round of a group those from column block cb0 on. -/
def State.mmBRanges (s : State) (j : Job) (kind : MmKind) (g0 r0 cb0 : Nat) : List (Int × Nat) :=
  let r := j.mm
  let k := j.mmK kind
  ((j.mmGroups kind).zipIdx.filter (fun g => decide (g0 ≤ g.2) && g.1.rows != 0)).flatMap (fun g =>
    let from_ := if g.2 = g0 ∧ g.1.rounds ≤ r0 + 1 then 8 * cb0 else 0
    ((List.range r.n).filter (fun n => decide (from_ ≤ n))).flatMap (fun n =>
      (if kind == .ring then [] else (s.mmBases j g).map (fun b => (((b + n * r.bstr : Nat) : Int), rowBytes k r.w)))
        ++ (if r.smode = 0 then [] else [(((r.sb + n * r.sbs : Nat) : Int), r.scaleBytes k)])))

/-- The local ranges of the own thicket that a launch has still to read (R218, R282). -/
def State.mmRanges (s : State) (j : Job) (kind : MmKind) (g0 r0 cb0 : Nat) : List (Nat × Nat × Nat) :=
  (j.mmLocks kind g0 r0 cb0 ++ s.rangesLocks j (s.mmBRanges j kind g0 r0 cb0)).eraseDups

/-! ### Arithmetic (R50, R264-R266) -/

/-- The exact product of two elements and their scales (R50); the flag tells an invalid operand. -/
def mmProduct (a b sa sb : Val) : Val × Bool :=
  let sig (v : Val) : Bool := match v with | .nan t => t | _ => false
  let nanV (v : Val) : Bool := match v with | .nan _ => true | _ => false
  if nanV sa || nanV sb then (.nan false, sig a || sig b)
  else
    let p := a.mul b
    ((p.1.mul sa).1.mul sb |>.1, p.2)

/-- Element k of width w of a row's bytes (R264). -/
def eltAt (row : List Byte) (w k : Nat) : Nat := ofBytes ((row.drop (k * w / 8)).take ((w + 7) / 8)) / 2 ^ (k * w % 8) % 2 ^ w

/-- The scale of element k in a row's scale bytes (R265). -/
def scaleAt (mode : Nat) (sc : List Byte) (k : Nat) : Val :=
  if mode = 0 then .fin false 1 0 else scaleVal (sc.getD (k / (if mode = 1 then 32 else 16)) 0).toNat

/-- The sum of the products of a row of A and a column of B over an initial value (R266). -/
def mmDot (ta tb : Elt) (smode k : Nat) (l0 : LaVal) (a b sa sb : List Byte) : LaVal × Flags :=
  (List.range k).foldl (fun acc q =>
    let p := mmProduct (ta.val (eltAt a ta.w q)) (tb.val (eltAt b tb.w q)) (scaleAt smode sa q) (scaleAt smode sb q)
    let r := laAddVal acc.1 p.1
    (r.1, (acc.2.or r.2).or { nv := p.2 })) (l0, {})

/-! ### The accumulators and the tile store (R268, R271, R285) -/

/-- A held accumulator of slice t as a context finds it (R268). -/
def Thicket.acc (t : Thicket) (ctx i : Nat) : La := if t.accOwner = some ctx then t.accs.get 0 i else 0

/-- Write held accumulators (R268). -/
def Thicket.setAccs (t : Thicket) (ctx : Nat) (l : List (Nat × La)) : Thicket :=
  { t with accOwner := some ctx
           accs := l.foldl (fun m e => m.set e.1 e.2) (if t.accOwner = some ctx then t.accs else []) }

/-- The tile store as a context finds it (R271). -/
def Thicket.tileOf (t : Thicket) (ctx : Nat) : Memory := if t.tileOwner = some ctx then t.tile else []

/-- The tile exponents as a context finds them (R285). -/
def Thicket.texpOf (t : Thicket) (ctx : Nat) : Tbl Int := if t.tileOwner = some ctx then t.texp else []

/-- A context writes the tile store (R271, R285). -/
def Thicket.setTile (t : Thicket) (ctx : Nat) (m : Memory) (e : Tbl Int) : Thicket :=
  { t with tileOwner := some ctx, tile := m, texp := e }

/-! ### Reading operands (R264, R265, R271, R274, R282) -/

/-- Read bytes of a core of the own thicket, sector by sector (R282). -/
def State.sliceRead (s : State) (j : Job) (t off n : Nat) : Except EErr (List Byte) :=
  s.placeRead j (fun o => .loc (some (coreOfSlice (thicketOf j.core) t)) o) (fun _ => 0) (n / 64 + 2) off n

/-- The bytes of column n of B (R264, R271, R274). -/
def State.mmColumn (s : State) (j : Job) (kind : MmKind) (g : MmGroup) (n : Nat) : Except EErr (List Byte) :=
  let r := j.mm
  let rb := rowBytes (j.mmK kind) r.w
  match kind with
  | .ring => do
    let part := (rb + 63) / 64 / 8 * 64
    let ps ← (List.range 8).mapM (fun p => s.sliceRead j p (r.bb + n * r.bstr) (Nat.min part (rb - p * part)))
    .ok ps.flatten
  | _ =>
    if g.path = 2 then .ok (((s.thicket (thicketOf j.core)).tileOf j.ctx).bytes (g.bb + n * r.bstr) rb)
    else s.eRead j ((g.bb + n * r.bstr : Nat) : Int) rb (g.path == 1)

/-- The bytes of a column's scales (R265). -/
def State.mmColScales (s : State) (j : Job) (k n : Nat) : Except EErr (List Byte) :=
  if j.mm.smode = 0 then .ok [] else s.eRead j ((j.mm.sb + n * j.mm.sbs : Nat) : Int) (j.mm.scaleBytes k)

/-! ### Drains (R278-R281) -/

/-- The bits of consecutive elements of width w, packed (R264). -/
def packElts (w : Nat) (l : List Nat) : List Byte :=
  toBytes ((l.length * w + 7) / 8) (l.foldr (fun x acc => x % 2 ^ w + 2 ^ w * acc) 0)

/-- The writes that drain the elements n0.. of output row c (R279-R281), with the flags of their rounding. -/
def Job.drainRow (j : Job) (c n0 : Nat) (ls : List LaVal) : List OutPiece × Flags :=
  let r := j.mm
  let o (n : Nat) : Rnd := { rm := if r.rm / 16 % 4 = 2 then 4 else r.rm / 16 % 4, sat := r.rm / 64 % 2 == 1, seed := r.seed, idx := (c * r.n + n) % 2 ^ 32 }
  match r.drain with
  | 1 =>
    let t := (mmOut r.rm).getD (.flt .fp32)
    let vs := ls.zipIdx.map (fun e => laRound e.1 t (o (n0 + e.2)))
    (cut (.row c (r.rowOff c + n0 * t.w / 8)) (packElts t.w (vs.map (fun v => v.1))), joinFlags (vs.map (fun v => v.2)))
  | 2 =>
    if r.mode / 128 = 1 then ([.sum c (r.rowOff c + 80 * n0) (ls.map laEncode)], {})
    else (cut (.row c (r.rowOff c + 80 * n0)) (ls.flatMap (fun v => toBytes 80 (laEncode v).toNat)), {})
  | 3 =>
    let t := (r.tok0 + c) % 2 ^ 32
    let vs := ls.zipIdx.map (fun e => laRoundF e.1 .fp32 (o (n0 + e.2)))
    let es := vs.zipIdx.map (fun v => mkEntry v.1.1 (r.ex0 + n0 + v.2) 0 t 0)
    let cnt := Nat.min r.mbK 8
    let best := ((es.foldl (fun l e => insertSorted (canonScore e) l) []).map canonScore).take cnt
    ([.score t (best ++ List.replicate (cnt - best.length) (mkEntry 0xFF800000 0xFFFF 0 t 0))], joinFlags (vs.map (fun v => v.2)))
  | _ => ([], {})

/-! ### Pins (R276, R321) -/

/-- A pin that an expert region gives (R321): none (no region), a wait, or the path and the address. -/
inductive PinOut where
  | noRegion
  | wait
  | ok (path addr : Nat)
  deriving DecidableEq, Repr

/-- The path and the copy that a pin gives (R321): while draining or streaming the base by path 1, else the copy whose
first frame lies in a stack of the die, else the base. -/
def State.pinCopy (s : State) (x : Region) (die : Nat) : Nat × Nat :=
  let near (a : Nat) : Bool := match s.walk x.ctx (BitVec.ofNat 64 a) with
    | .ok t => decide (t.frame < devTop) && (t.frame + a % t.size) / (3 * 2 ^ 36) == die
    | _ => false
  if x.state = 2 || x.pol = 1 then (1, x.base)
  else match (List.range 4).find? (fun i => x.reps.get 0 i != 0 && near (x.reps.get 0 i)) with
    | some i => (0, x.reps.get 0 i)
    | none => (0, x.base)

/-- pin(e) by a job (R321). -/
def State.pin (s : State) (j : Job) (e : Nat) : PinOut × State :=
  let x := s.regions.get {} e
  if 4096 ≤ e || x.state = 0 || x.ctx ≠ j.ctx then (.noRegion, s)
  else if x.pins = 65535 then (.wait, s)
  else
    let d := dieOf j.core
    let s1 : State := { s with regions := s.regions.set e { x with pins := x.pins + 1, pred := false } }
    let s2 := if x.pred then s1.modDie d (fun y => { y with lgHit := Nat.min (y.lgHit + 1) 0xFFFFFFFF }) else s1
    let c := s.pinCopy x d
    (.ok c.1 c.2, s2)

/-- unpin(e) (R321). -/
def State.unpinOne (s : State) (e : Nat) : State :=
  { s with regions := s.regions.set e { (s.regions.get {} e) with pins := (s.regions.get {} e).pins - 1 } }

/-! ### Block steps (R266, R268, R272, R276) -/

/-- What a slice's rows of a block give for the columns n0..: for each row its sums and flags. -/
def State.blockRows (s : State) (j : Job) (kind : MmKind) (rows : List Nat) (first : Bool) (t n0 : Nat)
    (cols : List (List Byte × List Byte)) : Except EErr (List (Nat × List LaVal × Flags)) :=
  let r := j.mm
  let k := j.mmK kind
  match mmFmts r.fmt with
  | none => .ok []
  | some (ta, tb) => rows.zipIdx.mapM (fun e => do
      let a ← s.sliceRead j t (r.aAddr e.1) (rowBytes k r.w)
      let sa ← s.sliceRead j t (r.sa + e.1 / 8 * r.sas) (r.scaleBytes k)
      let vs := cols.zipIdx.map (fun c =>
        let i := 32 * t + 8 * e.2 + (n0 + c.2) % 8
        let l0 : LaVal := if first && r.accIn then laDecode ((s.thicket (thicketOf j.core)).acc j.ctx i) else .fin 0
        mmDot ta tb r.smode k l0 a c.1.1 sa c.1.2)
      .ok (e.1, vs.map (fun v => v.1), joinFlags (vs.map (fun v => v.2))))

/-- What becomes of a row's sums for the columns n0.. (R266, R268): in its slice's last block with acc.out they are held,
else they drain. The accumulators held, the writes, the flags. -/
def Job.settleRow (j : Job) (g : MmGroup) (r t n0 : Nat) (x : (Nat × List LaVal × Flags) × Nat) :
    List (Nat × La) × List OutPiece × Flags :=
  let ls := x.1.2.1
  if j.mm.accOut && g.lastBlock t r then
    (ls.zipIdx.map (fun l => (32 * t + 8 * x.2 + (n0 + l.2) % 8, laEncode l.1)), [], x.1.2.2)
  else
    let d := j.drainRow (g.crow + (x.1.1 - g.arow)) n0 ls
    ([], d.1, x.1.2.2.or d.2)

/-- What becomes of the sums of a block step, slice by slice. -/
def Job.settleBlock (j : Job) (g : MmGroup) (r n0 : Nat) (rows : List (Nat × List (Nat × List LaVal × Flags))) :
    List (Nat × La) × List OutPiece × Flags :=
  let xs := rows.flatMap (fun t => t.2.zipIdx.map (fun x => j.settleRow g r t.1 n0 x))
  (xs.flatMap (fun x => x.1), xs.flatMap (fun x => x.2.1), joinFlags (xs.map (fun x => x.2.2)))

/-- Keep the columns just fetched in the tile store (R271); columns of no bytes write nothing. -/
def State.keepCols (s : State) (j : Job) (n0 : Nat) (cols : List (List Byte × List Byte)) : State :=
  if cols.all (fun c => c.1.isEmpty) then s
  else s.modThicket (thicketOf j.core) (fun th =>
    let m := cols.zipIdx.foldl (fun (m : Memory) c => m.setBytes (j.mm.toff + (n0 + c.2) * j.mm.bstr) c.1.1) (th.tileOf j.ctx)
    th.setTile j.ctx m (th.texpOf j.ctx))

/-- The operands of a block step: the columns with their scales, and for each slice its rows' sums. -/
def State.blockRead (s : State) (j : Job) (kind : MmKind) (g : MmGroup) (r cb : Nat) :
    Except EErr (List (List Byte × List Byte) × List (Nat × List (Nat × List LaVal × Flags))) := do
  let n0 := 8 * cb
  let cols ← (List.range (Nat.min 8 (j.mm.n - n0))).mapM (fun i => do
    let b ← s.mmColumn j kind g (n0 + i)
    let sc ← s.mmColScales j (j.mmK kind) (n0 + i)
    .ok (b, sc))
  let rows ← (List.range 8).mapM (fun t => do
    let x ← s.blockRows j kind (g.block t r) (r == 0) t n0 cols
    .ok (t, x))
  .ok (cols, rows)

/-- One block step: block round r of column block cb of a group (R272): its operands are read sector by sector, its sums
are made exactly, its rows drain one write after the other, and it counts as completed. -/
def State.blockStep (s : State) (j : Job) (kind : MmKind) (g : MmGroup) (r cb : Nat) : State :=
  match j.out with
  | some (n, _) => s.putJob (Job.setParam { j.unitDone n with mm := { j.mm with steps := j.mm.steps + 1 } } 5 (j.mm.steps + 1))
  | none =>
    match s.blockRead j kind g r cb with
    | .error e => s.engErr j e
    | .ok (cols, rows) =>
      let s1 := if j.mm.keep && kind != .ring && g.path != 2 then s.keepCols j (8 * cb) cols else s
      let x := j.settleBlock g r (8 * cb) rows
      let s2 := if x.1.isEmpty then s1 else s1.modThicket (thicketOf j.core) (fun th => th.setAccs j.ctx x.1)
      s2.emit (j.raise x.2.2) (j.unitIdx + 1) (s.mmLeft j kind (j.unitIdx + 1)) x.2.1

/-! ### Launches (R272-R276) -/

/-- A launch ends: its claims and locks are released and its wake-up messages are due (R279): a tag with a core of the
own thicket, or with the coordinates of the drain. -/
def State.mmFinish (s : State) (j : Job) (pops : Nat) : State :=
  let r := j.mm
  let tag := r.mode % 64
  let due : List (Nat × Nat) := if tag = 0 || !(r.drain = 1 || r.drain = 2) then []
    else if r.mode / 64 % 2 = 1 then (List.range 8).map (fun t => (tag, 2 ^ 40 + coreOfSlice (thicketOf j.core) t))
    else [(tag, r.dst / 2 ^ 17)]
  s.putJob (Job.done { j with wake := j.wake ++ due } pops)

/-- A group of a grouped launch that is late, or that follows one, is skipped (R276). -/
def Job.skipGroup (j : Job) (g : Nat) : Job :=
  let stop := j.idxs.getD 0 0 / 65536 % 2 == 1
  let j1 : Job := { j with gIdx := g + 1, unitIdx := 0, stopped := j.stopped || stop }
  let j2 := j1.setParam 6 ((j.param 6).toNat + 1)
  if g < 64 then j2.setParam 7 ((j.param 7) ||| fld g 1).toNat else j2

/-- One unit of an active launch: whether a group is skipped, which is asked once before anything of it is read (R276), its
pin, a block step, or its end, which gives back the pin. -/
def State.mmUnit (s : State) (j : Job) (kind : MmKind) (pops : Nat) : State :=
  match (j.mmGroups kind)[j.gIdx]? with
  | none => s.mmFinish j pops
  | some g =>
    let cbs := (j.mm.n + 7) / 8
    let next : Job := { j with gIdx := j.gIdx + 1, unitIdx := 0, mm := { j.mm with begun := false, pinned := false } }
    let late := kind == .gmm && (j.stopped || (g.budget != noBudget && decide (g.budget ≤ j.usRun)))
    if g.rows = 0 then s.putJob next
    else if !j.mm.begun then s.putJob (if late then j.skipGroup j.gIdx else { j with mm := { j.mm with begun := true } })
    else match g.expert, j.mm.pinned with
    | some e, false =>
      (match s.pin j e with
      | (.noRegion, _) => s.putJob (j.fail 22)
      | (.wait, _) => s
      | (.ok p a, s1) => s1.putJob { j with pins := (e, p, a) :: j.pins, mm := { j.mm with pinned := true } })
    | some e, true =>
      let x := j.pins.headD (0, 0, 0)
      if j.unitIdx < g.rounds * cbs then
        s.blockStep j kind { g with path := x.2.1, bb := x.2.2 } (j.unitIdx / cbs) (j.unitIdx % cbs)
      else (s.unpinOne e).putJob { next with pins := j.pins.tail }
    | none, _ =>
      if j.unitIdx < g.rounds * cbs then s.blockStep j kind g (j.unitIdx / cbs) (j.unitIdx % cbs) else s.putJob next

/-- The launch passes its checks and asks for its claims (R215, R272). -/
def State.mmStart (s : State) (j : Job) (kind : MmKind) : State :=
  match s.mmCheck j kind with
  | some c => s.putJob (j.fail c)
  | none =>
    let j1 : Job := { j with gIdx := 0, unitIdx := 0, stopped := false, fetched := [], mm := { j.mm with launched := true, steps := 0 } }
    let j2 := if kind == .gmm then (j1.setParam 6 0).setParam 7 0 else j1
    if j.mmEmpty kind then s.beginLaunch j2 [] []
    else s.onceReady j [] (s.mmBRanges j2 kind 0 0 0) (s.beginLaunch j2 (s.mmClaims j2 kind) (s.mmRanges j2 kind 0 0 0))

/-- mm.run ( -- ): the dense launch (R273). -/
def execMmRun (s : State) : Host.Outcome State Fault Refusal :=
  s.onLaunch 1 0 (fun j _ => match j.ph with
    | .start => s.mmStart j .run
    | .active => s.mmUnit j .run 0
    | _ => s)

/-- mm.ring ( -- ): the dense launch with B in the local memories (R274). -/
def execMmRing (s : State) : Host.Outcome State Fault Refusal :=
  s.onLaunch 1 0 (fun j _ => match j.ph with
    | .start => s.mmStart j .ring
    | .active => s.mmUnit j .ring 0
    | _ => s)

/-- Whether a ragged shape record is malformed (R275). -/
def shapeBad (w : List Nat) : Bool :=
  let h := w.getD 0 0
  let n := h % 65536
  h / 2 ^ 17 % 2 ^ 15 != 0 || [1, 2, 3].any (fun i => w.getD i 0 != 0) || decide (4096 < n) || decide (2 ^ 20 < h / 2 ^ 32)
    || (List.range n).any (fun g =>
      let e (i : Nat) : Nat := w.getD (4 + 4 * g + i) 0
      e 0 / 2 ^ 17 % 2 ^ 15 != 0 || e 3 / 2 ^ 20 != 0 || decide (2 ^ 20 < e 1 % 2 ^ 32 + e 0 / 2 ^ 32)
        || decide (2 ^ 20 < e 1 / 2 ^ 32 + e 0 / 2 ^ 32))

/-- The ragged shape record, read whole as a source (R275). -/
def State.readShape (s : State) (j : Job) (sr : Nat) : Except EErr (List Nat) := do
  let h ← s.eRead j (sr : Int) 32
  let n := ofBytes (h.take 2)
  let b ← s.eRead j ((sr + 32 : Nat) : Int) (if n ≤ 4096 then 32 * n else 0)
  .ok ((List.range (4 + 4 * n)).map (fun i => ofBytes (((h ++ b).drop (8 * i)).take 8)))

/-- mm.gmm ( sr -- ): the grouped launch over a ragged shape record (R275, R276). -/
def execMmGmm (s : State) : Host.Outcome State Fault Refusal :=
  s.onLaunch 1 1 (fun j o => match j.ph with
    | .start =>
      if !canonical (o.getD 0 0) || opn o 0 % 32 != 0 then s.putJob (j.fail 13)
      else match s.mmCheck { j with idxs := [] } .gmm with
      | some c => s.putJob (j.fail c)
      | none =>
        match s.readShape j (opn o 0) with
        | .error e => s.engAsk j e
        | .ok w => if shapeBad w then s.putJob (j.fail 20) else s.mmStart { j with idxs := w } .gmm
    | .active => s.mmUnit j .gmm 1
    | _ => s)

end Sys2Proof.Machine
end

