-- ==== Sys2Proof/Machine/EngBf.lean ====
section
/-! DEFINITION. The butterfly words (15 R285-R301). -/

namespace Sys2Proof.Machine

/-! ### Twiddles (R286) -/

/-- floor(2^130 · π), the constant of the fixed-point angles. -/
def piFix : Nat := 4276114336259866991438721492647483133202

/-- Terms of the alternating series of sine or cosine: t is the current term in units of 2^-128, x2 the angle's square,
k the index of the last factor; even terms add, odd ones subtract. -/
def trigSeries (x2 : Nat) : Nat → Nat → Nat → Int
  | 0, _, _ => 0
  | fuel + 1, t, k => (t : Int) - trigSeries x2 fuel (t * x2 / 2 ^ 128 / ((k + 1) * (k + 2))) (k + 2)

/-- sin and cos of π r / (2 n) for 2 r ≤ n, in units of 2^-128. -/
def sinCosFix (r n : Nat) : Int × Int :=
  let x := piFix * r / (8 * n)
  let x2 := x * x / 2 ^ 128
  (trigSeries x2 24 x 1, trigSeries x2 24 (2 ^ 128) 0)

/-- The nearest integer to 2^30 v, v in units of 2^-128: never a tie but for the exact constants. -/
def rne30 (v : Int) : Int := (v + 2 ^ 97) / 2 ^ 98

/-- tw(n, k) as two Q1.30 integers (R286); the values are correctly rounded as far as the series of 128 fractional bits
decides them (DEDUCED, log 27). -/
def twiddle (inv : Bool) (n k : Nat) : Int × Int :=
  let k := k % n
  let q := 4 * k / n
  let r := 4 * k % n
  let sc := if 2 * r ≤ n then sinCosFix r n else let z := sinCosFix (n - r) n; (z.2, z.1)
  let s := rne30 sc.1
  let c := rne30 sc.2
  let cs : Int × Int := match q with
    | 0 => (c, s)
    | 1 => (-s, c)
    | 2 => (-c, -s)
    | _ => (s, -c)
  (cs.1, if inv then cs.2 else -cs.2)

/-! ### Plans (R287, R288) -/

/-- The radix of a code (R287). -/
def radixOf (c : Nat) : Nat :=
  match c with
  | 1 => 2
  | 2 => 3
  | 3 => 4
  | 4 => 5
  | _ => 8

/-- The radices of a plan word, stage 1 first (R287). -/
def planRadices (p : Nat) : List Nat :=
  ((List.range 12).map (fun j => p / 2 ^ (3 * j) % 8)).takeWhile (fun c => c != 0) |>.map radixOf

/-- The length of a plan (R287). -/
def planLen (p : Nat) : Nat := (planRadices p).foldl (fun a r => a * r) 1

/-- Whether a plan word is malformed (R287). -/
def planBad (p : Nat) : Bool :=
  let cs := (List.range 12).map (fun j => p / 2 ^ (3 * j) % 8)
  p / 2 ^ 37 != 0 || (planRadices p).isEmpty || cs.any (fun c => c == 6 || c == 7)
    || (cs.dropWhile (fun c => c != 0)).any (fun c => c != 0) || decide (4096 < planLen p)

/-- The direction of a plan. -/
def planInv (p : Nat) : Bool := p / 2 ^ 36 % 2 == 1

/-- rev_P(i) (R288): the digits of i in the plan's radices, reversed; l is the product of the radices so far. -/
def revPlan (n : Nat) : List Nat → Nat → Nat → Nat
  | [], _, _ => 0
  | r :: rs, l, i => i % r * (n / (l * r)) + revPlan n rs (l * r) (i / r)

/-! ### Points of a tile (R285, R289) -/

/-- A complex integer: the mantissas of a cfix32 point (R47). -/
abbrev Cpx := Int × Int

/-- The exact complex product. -/
def Cpx.mul (a b : Cpx) : Cpx := (a.1 * b.1 - a.2 * b.2, a.1 * b.2 + a.2 * b.1)
/-- The exact complex sum. -/
def Cpx.add (a b : Cpx) : Cpx := (a.1 + b.1, a.2 + b.2)

/-- Points 0..n-1 of a tile register. -/
def tilePoints (m : Memory) (tr n : Nat) : List Cpx :=
  (List.range n).map (fun i => (signedOf 32 (m.num (32768 * tr + 8 * i) 4), signedOf 32 (m.num (32768 * tr + 8 * i + 4) 4)))

/-- A tile register with its first points replaced. -/
def tileSet (m : Memory) (tr : Nat) (ps : List Cpx) : Memory :=
  m.setBytes (32768 * tr) (ps.flatMap (fun p => toBytes 4 (intBits 32 p.1) ++ toBytes 4 (intBits 32 p.2)))

/-- round_he(x / 2^k, 1): the nearest integer, ties to even (R97). -/
def rhePow (x : Int) (k : Nat) : Int :=
  let q := x / 2 ^ k
  let r := x % 2 ^ k
  if 2 * r < 2 ^ k then q else if 2 ^ k < 2 * r then q + 1 else if q % 2 = 0 then q else q + 1

/-- Whether a component fits 32 bits. -/
def fits32 (x : Int) : Bool := decide (-(2 ^ 31) ≤ x) && decide (x ≤ 2 ^ 31 - 1)

/-- sat32 (R289). -/
def sat32 (x : Int) : Int := if x < -(2 ^ 31) then -(2 ^ 31) else if 2 ^ 31 - 1 < x then 2 ^ 31 - 1 else x

/-- Exact points rounded by a shift (R289): the points, whether one saturates, whether one is inexact. -/
def roundPoints (acc : List Cpx) (k : Nat) : List Cpx × Bool × Bool :=
  let rs := acc.map (fun p => (rhePow p.1 k, rhePow p.2 k))
  (rs.map (fun p => (sat32 p.1, sat32 p.2)), rs.any (fun p => !fits32 p.1 || !fits32 p.2),
    acc.any (fun p => p.1 % 2 ^ k != 0 || p.2 % 2 ^ k != 0))

/-- The shift of block-exponent mode (R290): the least of 0..3 that makes every result fit, else 3. -/
def blkShift (acc : List Cpx) (k : Nat) : Nat :=
  ((List.range 3).find? (fun e => !(roundPoints acc (k + e)).2.1)).getD 3

/-- The exact results of a stage of radix r over a points of each block (R289). -/
def stageAcc (inv : Bool) (z : List Cpx) (a r n : Nat) : List Cpx :=
  let b := a * r
  (List.range n).map (fun i =>
    let blk := i / b
    let q := i % b / a
    let p := i % a
    (List.range r).foldl (fun acc m =>
      let c := Cpx.mul (twiddle inv b (m * p)) (twiddle inv r (m * q % r))
      Cpx.add acc (Cpx.mul (z.getD (blk * b + m * a + p) (0, 0)) c)) (0, 0))

/-- A tile's points and exponent with what the engine records: mask and flags. -/
structure TileOut where
  pts : List Cpx
  t : Int
  sat : Bool := false
  nx : Bool := false
  deriving DecidableEq, Repr

/-- A stage of a plan on a tile (R289, R290); none where the exponent would leave its range. -/
def bfStage (plan sched : Nat) (x : TileOut) (jj : Nat) : Option TileOut :=
  let rs := planRadices plan
  let a := (rs.take (jj - 1)).foldl (fun a r => a * r) 1
  let acc := stageAcc (planInv plan) x.pts a (rs.getD (jj - 1) 1) (planLen plan)
  let s0 := sched / 2 ^ (2 * (jj - 1)) % 4
  let sh := if sched / 2 ^ 24 % 2 = 1 then s0 + blkShift acc (60 + s0) else s0
  let r := roundPoints acc (60 + sh)
  let t := x.t + sh
  if t < -32768 ∨ 32767 < t then none
  else some { pts := r.1, t := t, sat := x.sat || r.2.1, nx := x.nx || r.2.2 }

/-! ### The words -/

/-- bf.len ( plan -- ) (R287). -/
def execBfLen (s : State) : Host.Outcome State Fault Refusal :=
  s.setWord 2 1 (fun j o => do
    need (!planBad (opn o 0)) 24
    .ok { j with plan := some (opn o 0) })

/-- bf.sched ( sch -- ) (R290). -/
def execBfSched (s : State) : Host.Outcome State Fault Refusal :=
  s.setWord 2 1 (fun j o => do
    need (opn o 0 < 2 ^ 25) 13
    .ok { j with sched := opn o 0 })

/-- The thicket of a job, its tile store and exponents as the job's context finds them (R271, R285). -/
def State.tiles (s : State) (j : Job) : Memory × Tbl Int :=
  let t := s.thicket (thicketOf j.core)
  (t.tileOf j.ctx, t.texpOf j.ctx)

/-- Tile tr as a word leaves it (R285, R291): its points and exponent in the thicket, and the job with the saturation
mask, P6, P7 and the flags. -/
def State.keepTile (s : State) (j : Job) (tr : Nat) (x : TileOut) : State × Job :=
  let m := s.tiles j
  let mask := if x.sat then j.satMask ||| 2 ^ tr else j.satMask
  let s1 := s.modThicket (thicketOf j.core) (fun th => th.setTile j.ctx (tileSet m.1 tr x.pts) (m.2.set tr x.t))
  let j1 := { j with satMask := mask }.raise { of := x.sat, nx := x.nx }
  (s1, (j1.setParam 6 mask).setParam 7 (ofInt x.t).toNat)

/-- A word has written tile tr and is finished. -/
def State.writeTile (s : State) (j : Job) (tr pops : Nat) (x : TileOut) : State :=
  let r := s.keepTile j tr x
  r.1.putJob (r.2.done pops)

/-- A word on a tile that needs a plan; its operands lie within limits, else code 13 (R287, R293). -/
def State.onTile (s : State) (pops : Nat) (ok : List Word → Bool) (f : Job → Nat → List Word → State) : Host.Outcome State Fault Refusal :=
  s.onWord 2 pops 0 (fun j o =>
    match j.plan with
    | none => s.putJob (j.fail (if ok o then 24 else 13))
    | some p => if ok o then f j p o else s.putJob (j.fail 13))

/-- The tile that a word transforms. -/
def State.tileIn (s : State) (j : Job) (p tr : Nat) : TileOut :=
  let m := s.tiles j
  { pts := tilePoints m.1 tr (planLen p), t := m.2.get 0 tr }

/-- bf.stage ( tr j -- ) (R289). -/
def execBfStage (s : State) : Host.Outcome State Fault Refusal :=
  s.onTile 2 (fun o => decide (opn o 0 < 8)) (fun j p o =>
    if opn o 1 = 0 ∨ (planRadices p).length < opn o 1 then s.putJob (j.fail 13)
    else match bfStage p j.sched (s.tileIn j p (opn o 0)) (opn o 1) with
    | none => s.putJob (j.fail 26)
    | some x => s.writeTile j (opn o 0) 2 x)

/-- The stages of a plan in order: the tile after the last, none where one faults. -/
def bfStages (p sched : Nat) (ks : List Nat) (x : TileOut) : Option TileOut := ks.foldlM (fun x k => bfStage p sched x k) x

/-- bf.pass ( tr -- ): stages 1..S in order, each as bf.stage performs it; where a stage faults the word has no effect
(R289, R292). -/
def execBfPass (s : State) : Host.Outcome State Fault Refusal :=
  s.onTile 1 (fun o => decide (opn o 0 < 8)) (fun j p o =>
    match bfStages p j.sched ((List.range (planRadices p).length).map (fun i => i + 1)) (s.tileIn j p (opn o 0)) with
    | some x => s.writeTile j (opn o 0) 1 x
    | none => s.putJob (j.fail 26))

/-- bf.twid ( tr n e -- ) (R296). -/
def execBfTwid (s : State) : Host.Outcome State Fault Refusal :=
  s.onTile 3 (fun o => opn o 0 < 8 && 1 ≤ opn o 1 && opn o 1 ≤ 2 ^ 24 && decide (opn o 2 < 2 ^ 24)) (fun j p o =>
    let x := s.tileIn j p (opn o 0)
    let n := opn o 1
    let acc := x.pts.zipIdx.map (fun z => Cpx.mul z.1 (twiddle (planInv p) n (opn o 2 * z.2 % n)))
    let sh := if j.sched / 2 ^ 24 % 2 = 1 then blkShift acc 30 else 0
    let r := roundPoints acc (30 + sh)
    let t := x.t + sh
    if t < -32768 ∨ 32767 < t then s.putJob (j.fail 26)
    else s.writeTile j (opn o 0) 3 { pts := r.1, t := t, sat := r.2.1, nx := r.2.2 })

/-- bf.cmul ( d a b m -- ) (R297). -/
def execBfCmul (s : State) : Host.Outcome State Fault Refusal :=
  s.onTile 4 (fun o => opn o 0 < 8 && opn o 1 < 8 && opn o 2 < 8 && decide (opn o 3 < 32)) (fun j p o =>
    let a := s.tileIn j p (opn o 1)
    let b := s.tileIn j p (opn o 2)
    let sh := opn o 3 % 16
    let conj := opn o 3 / 16 == 1
    let acc := (a.pts.zip b.pts).map (fun z => Cpx.mul z.1 (if conj then (z.2.1, -z.2.2) else z.2))
    let r := roundPoints acc (32 + sh)
    let t := a.t + b.t + 32 + sh
    if t < -32768 ∨ 32767 < t then s.putJob (j.fail 26)
    else s.writeTile j (opn o 0) 4 { pts := r.1, t := t, sat := r.2.1, nx := r.2.2 })

/-! ### Loading and storing (R293-R295, R298) -/

/-- The component of a point format: element, bytes of a component, components of a point (R293). -/
def pointFmt (f : Nat) : Option (Elt × Nat × Nat) :=
  match f with
  | 0 => some (.int 32 false, 4, 2)
  | 1 => some (.flt .fp32, 4, 2)
  | 2 => some (.flt .bf16, 2, 2)
  | 3 => some (.int 16 false, 2, 2)
  | 4 => some (.flt .fp32, 4, 1)
  | 5 => some (.flt .bf16, 2, 1)
  | 6 => some (.int 16 false, 2, 1)
  | _ => none

/-- The index of the point that position i takes under the rev bit. -/
def pointIdx (p : Nat) (rev : Bool) (i : Nat) : Nat := if rev then revPlan (planLen p) (planRadices p) 1 i else i

/-- The limits of src or dst, str and the format (R293). -/
def moveOk (tr : Nat) (a : Word) (str f : Nat) : Bool :=
  match pointFmt (f % 8) with
  | none => false
  | some (_, w, _) => decide (tr < 8) && canonical a && a.toNat % w == 0 && decide (str < 2 ^ 32) && str % w == 0

/-- floor(log2 |v|) of a nonzero finite value. -/
def valLog (v : Val) : Option Int :=
  match v with
  | .fin _ m e => if m = 0 then none else some ((Nat.log2 m : Int) + e)
  | _ => none

/-- The mantissa of a component at exponent t (R294): round_he(component / 2^t), and whether it was inexact. -/
def mantissaOf (v : Val) (t : Int) : Int × Bool :=
  match v with
  | .fin n m e =>
    let x : Int := if n then -(m : Int) else m
    if t ≤ e then (x * 2 ^ (e - t).toNat, false) else (rhePow x (t - e).toNat, x % 2 ^ (t - e).toNat != 0)
  | _ => (0, false)

/-- What bf.load makes of the values of its points (R294): none where a component is a NaN or an infinity. -/
def loadTile (f : Nat) (vs : List (Val × Val)) : Option TileOut :=
  if vs.any (fun v => (match v.1 with | .fin .. => false | _ => true) || (match v.2 with | .fin .. => false | _ => true)) then none
  else if f % 8 = 0 then
    some { pts := vs.map (fun v => ((mantissaOf v.1 0).1, (mantissaOf v.2 0).1)), t := signedOf 16 (f / 65536) }
  else
    let ls := vs.flatMap (fun v => (valLog v.1).toList ++ (valLog v.2).toList)
    let t : Int := match ls with
      | [] => 0
      | l :: r => r.foldl max l - 30 + (f / 16 % 8 : Nat)
    let ms := vs.map (fun v => (mantissaOf v.1 t, mantissaOf v.2 t))
    some { pts := ms.map (fun m => (m.1.1, m.2.1)), t := t, nx := ms.any (fun m => m.1.2 || m.2.2) }

/-- Whether the span of a transfer is canonical (R162 step 1, R259). -/
def spanBad (a : Nat) (str n w : Nat) : Bool := !spanOk (a : Int) (str * (n - 1) + w)

/-- bf.load ( tr src str f -- ) (R294, R298): its local sources are locked, then its points are read sector by sector.
DESIGN CHOICE (log 69): a NaN that makes it fault raises no flag, since it converts nothing. -/
def execBfLoad (s : State) : Host.Outcome State Fault Refusal :=
  s.onTile 4 (fun o => moveOk (opn o 0) (o.getD 1 0) (opn o 2) (opn o 3) && opn o 3 / 128 % 512 == 0
      && decide (opn o 3 < 2 ^ 32)) (fun j p o =>
    match pointFmt (opn o 3 % 8) with
    | none => s
    | some (e, w, c) =>
      let n := planLen p
      let at_ (i : Nat) : Int := ((opn o 1 + i * opn o 2 : Nat) : Int)
      if spanBad (opn o 1) (opn o 2) n (w * c) then s.putJob (j.fail 9)
      else if j.ph = .start then
        let src := (List.range n).map (fun i => (at_ i, w * c))
        s.onceReady j [] src (s.putJob { j with ph := .active, fetched := [], locks := s.rangesLocks j src })
      else
        match (List.range n).mapM (fun i => s.eRead j (at_ (pointIdx p (opn o 3 / 8 % 2 == 1) i)) (w * c)) with
        | .error x => s.engErr j x
        | .ok bs =>
          let vs := bs.map (fun b => (e.val (ofBytes (b.take w)), if c = 2 then e.val (ofBytes (b.drop w)) else .fin false 0 0))
          match loadTile (opn o 3) vs with
          | none => s.putJob (j.fail 25)
          | some x => s.writeTile j (opn o 0) 4 x)

/-- The bytes of the points that bf.store writes, with the flags (R295). -/
def storePoints (p f : Nat) (x : TileOut) (e : Elt) (c : Nat) : List (List Byte) × Flags :=
  let rnd := f / 16 % 4
  let one (i comp : Nat) : Nat × Flags :=
    let z := x.pts.getD (pointIdx p (f / 8 % 2 == 1) i) (0, 0)
    let m := if comp = 0 then z.1 else z.2
    if f % 8 = 0 then (intBits 32 m, {})
    else e.conv { rm := if rnd = 2 then 4 else rnd, sat := f / 64 % 2 == 1, seed := f / 2 ^ 32, idx := 2 * i + comp }
      (.fin (decide (m < 0)) m.natAbs x.t)
  let rows := (List.range x.pts.length).map (fun i => (List.range c).map (one i))
  (rows.map (fun r => r.flatMap (fun v => toBytes (e.w / 8) v.1)), joinFlags (rows.flatten.map (fun v => v.2)))

/-- bf.store ( tr dst str f -- ) (R295, R298): claims, then the points in ascending order, then the acknowledgements and the release of every claim. -/
def execBfStore (s : State) : Host.Outcome State Fault Refusal :=
  s.onTile 4 (fun o => moveOk (opn o 0) (o.getD 1 0) (opn o 2) (opn o 3) && opn o 3 / 128 % 2 ^ 25 == 0
      && opn o 3 / 16 % 4 != 3) (fun j p o =>
    match pointFmt (opn o 3 % 8) with
    | none => s
    | some (e, w, c) =>
      let n := planLen p
      let at_ (i : Nat) : Int := ((opn o 1 + i * opn o 2 : Nat) : Int)
      match j.ph with
      | .start =>
        if spanBad (opn o 1) (opn o 2) n (w * c) then s.putJob (j.fail 9)
        else
          let dst := (List.range n).map (fun i => (at_ i, w * c))
          s.onceReady j dst [] (s.beginLaunch { j with fetched := [] } (s.claimsOf j dst) [])
      | .claiming => s
      | .active =>
        (match j.out with
        | some (_, p :: r) => s.drainPiece j 0 p r
        | some (_, []) => s.putJob { j with ph := .draining, out := none }
        | none =>
          let out := storePoints p (opn o 3) (s.tileIn j p (opn o 0)) e c
          s.emit (j.raise out.2) 0 [] (cuts (out.1.zipIdx.map (fun b => (OutTo.va (at_ b.2), b.1)))))
      | .draining =>
        if s.jobTraffic j || !j.held.isEmpty then s
        else s.putJob (((j.setParam 6 j.satMask).setParam 7 (ofInt ((s.tiles j).2.get 0 (opn o 0))).toNat).done 4))

end Sys2Proof.Machine
end

