-- ==== Sys2Proof/Machine/Approx.lean ====
section
/-! DEFINITION. The approximation functions on FP32 (05 R96, R97) in exact integer arithmetic: a quantity with step
2^−k is held as its integer multiple of that step. -/

namespace Sys2Proof.Machine

/-- The integer nearest to n/d, ties to even: round_he in units of the step (R97). -/
def rhe (n : Int) (d : Nat) : Int :=
  let q := n / (d : Int)
  let r := n % (d : Int)
  if (d : Int) < 2 * r ∨ (2 * r = d ∧ q % 2 = 1) then q + 1 else q

/-- The integer root of order 2^h of n, found from bit b − 1 down. -/
def rootFrom (n h : Nat) : Nat → Nat → Nat
  | 0, acc => acc
  | b + 1, acc => if (acc + 2 ^ b) ^ 2 ^ h ≤ n then rootFrom n h b (acc + 2 ^ b) else rootFrom n h b acc

/-- A finite nonzero magnitude as exponent e and mantissa M in [2^23, 2^24): x = 2^e · M/2^23 (R97). -/
def normal32 (m : Nat) (e : Int) : Int × Nat :=
  let l := Nat.log2 m
  (e + l, if l ≤ 23 then m * 2 ^ (23 - l) else m / 2 ^ (l - 23))

/-- The last step of every function: round to FP32 under RNE without saturation (R96). -/
def finish32 (neg : Bool) (y : Int) (e : Int) : Nat × Flags := roundFmt .fp32 {} neg y.natAbs e

/-- The reciprocal of a magnitude (R97). -/
def rcp32 (neg : Bool) (m : Nat) (e0 : Int) : Nat × Flags :=
  let a := normal32 m e0
  let M := a.2
  if M = 2 ^ 23 then finish32 neg 1 (-a.1) else
    let j := (M - 2 ^ 23) / 2 ^ 15
    let t := rhe (512 * 2 ^ 32) (513 + 2 * j)
    let u := rhe (M * t - 2 ^ 55) (2 ^ 15)
    let p := rhe (2 ^ 80 - u * 2 ^ 40 + u * u) (2 ^ 40)
    finish32 neg (rhe (t * p) (2 ^ 32)) (-40 - a.1)

/-- The multiple of 2^−32 nearest to c^(−1/2), c = (515 + 6j)/512 (R97). -/
def rsqrtSeed (j : Nat) : Nat :=
  let n := 512 * 2 ^ 64
  let d := 515 + 6 * j
  let r := rootFrom (n / d) 1 34 0
  if (4 * r * r + 4 * r + 1) * d < 4 * n then r + 1 else r

/-- The reciprocal square root of a positive value (R97). -/
def rsqrt32 (m : Nat) (e0 : Int) : Nat × Flags :=
  let a := normal32 m e0
  let odd := a.1 % 2 != 0
  let M := if odd then 2 * a.2 else a.2
  let e := if odd then a.1 - 1 else a.1
  if M = 2 ^ 23 then finish32 false 1 (-(e / 2)) else
    let j := (M - 2 ^ 23) * 256 / (3 * 2 ^ 23)
    let t : Int := rsqrtSeed j
    let u := rhe (M * t * t - 2 ^ 87) (2 ^ 47)
    let p := rhe (16 * 2 ^ 120 - 8 * u * 2 ^ 80 + 6 * u * u * 2 ^ 40 - 5 * u * u * u) (16 * 2 ^ 80)
    finish32 false (rhe (t * p) (2 ^ 32)) (-40 - e / 2)

/-- round_he(ln 2, 2^−40) in its units (R97). -/
def ln2Units : Int := 762123384786
/-- round_he(1/ln 2, 2^−40) in its units (R97). -/
def invLn2Units : Int := 1586259972792

/-- The multiple of 2^−32 nearest to 2^(j/256) (R97). -/
def exp2Seed (j : Nat) : Int := (rootFrom (2 ^ (33 * 256 + j)) 8 35 0 + 1) / 2

/-- Two to a finite nonzero power (R97). An exponent below −300 rounds to zero whatever its value; one above 300
overflows. -/
def exp232 (neg : Bool) (m : Nat) (e : Int) : Nat × Flags :=
  let x : Int := if neg then -(m : Int) else m
  let k := (-e).toNat
  let n0 : Int := if 0 ≤ e then x * 2 ^ e.toNat else x / 2 ^ k
  let r : Int := if 0 ≤ e then 0 else x % 2 ^ k
  let n := max (-300) (min 300 n0)
  let j := (r * 256 / 2 ^ k).toNat
  let v : Int := 256 * r - j * 2 ^ k
  let q := rhe (v * ln2Units) (256 * 2 ^ k)
  let p := rhe (6 * 2 ^ 120 + 6 * q * 2 ^ 80 + 3 * q * q * 2 ^ 40 + q * q * q) (6 * 2 ^ 80)
  finish32 false (rhe (exp2Seed j * p) (2 ^ 32)) (n - 40)

/-- The binary logarithm of y · 2^−160 in [1, 2), n bits after the point, by repeated squaring truncated at 2^−160:
the error stays below 2^−100, far below the distance of any table value from a rounding boundary. -/
def log2Bits : Nat → Nat → Nat → Nat
  | 0, _, acc => acc
  | n + 1, y, acc =>
    let z := y * y / 2 ^ 160
    if 2 ^ 161 ≤ z then log2Bits n (z / 2) (2 * acc + 1) else log2Bits n z (2 * acc)

/-- The multiple of 2^−40 nearest to log2(1 + j/256) (R97). -/
def log2Seed (j : Nat) : Int := (log2Bits 41 ((256 + j) * 2 ^ 152) 0 + 1) / 2

/-- The binary logarithm of a positive value (R97). -/
def log232 (m : Nat) (e0 : Int) : Nat × Flags :=
  let a := normal32 m e0
  let M := a.2
  let j : Nat := (M - 2 ^ 23) / 2 ^ 15
  let u := rhe ((256 * (M : Int) - (256 + (j : Int)) * 2 ^ 23) * 2 ^ 40) (2 ^ 23 * (256 + j))
  let p := rhe (invLn2Units * (12 * u * 2 ^ 120 - 6 * u * u * 2 ^ 80 + 4 * u * u * u * 2 ^ 40 - 3 * u * u * u * u))
    (12 * 2 ^ 160)
  let y := a.1 * 2 ^ 40 + log2Seed j + p
  finish32 (decide (y < 0)) y (-40)

/-- The NaN that an approximation of a NaN or outside the domain gives. -/
def nan32 (invalid : Bool) : Nat × Flags := (0x7FC00000, { nv := invalid })

/-- vrcp of one lane (R96). -/
def approxRcp (x : Nat) : Nat × Flags :=
  match Fmt.decode .fp32 x with
  | .nan s => nan32 s
  | .inf n => (Fmt.sgn .fp32 n 0, {})
  | .fin n m e => if m = 0 then (Fmt.sgn .fp32 n 0x7F800000, {}) else rcp32 n m e

/-- vrsqrt of one lane (R96). -/
def approxRsqrt (x : Nat) : Nat × Flags :=
  match Fmt.decode .fp32 x with
  | .nan s => nan32 s
  | .inf n => if n then nan32 true else (0, {})
  | .fin n m e =>
    if m = 0 then (Fmt.sgn .fp32 n 0x7F800000, {}) else if n then nan32 true else rsqrt32 m e

/-- vexp2 of one lane (R96). -/
def approxExp2 (x : Nat) : Nat × Flags :=
  match Fmt.decode .fp32 x with
  | .nan s => nan32 s
  | .inf n => (if n then 0 else 0x7F800000, {})
  | .fin n m e => if m = 0 then (0x3F800000, {}) else exp232 n m e

/-- vlog2 of one lane (R96). -/
def approxLog2 (x : Nat) : Nat × Flags :=
  match Fmt.decode .fp32 x with
  | .nan s => nan32 s
  | .inf n => if n then nan32 true else (0x7F800000, {})
  | .fin n m e => if m = 0 then (0xFF800000, {}) else if n then nan32 true else log232 m e

end Sys2Proof.Machine
end

