-- ==== Sys2Proof/Machine/Vector.lean ====
section
/-! DEFINITION. The vector instructions (05 R83-R103): what a prefix selects, moves, lane arithmetic, comparison,
conversion, reductions, selection and permutation. -/

namespace Sys2Proof.Machine

/-! ### What a prefix selects (R83, R84) -/

/-- What an instruction takes from a prefix (R83): format lists of fa and fd, defaults, whether it rounds (floating
formats only, or all), saturates, and reads uns; movers take uns only beside an integer fa. -/
structure LaneSpec where
  fa : Option (List Nat) := none
  fd : Option (List Nat) := none
  dfa : Nat := 11
  dfd : Nat := 11
  rnd : Bool := false
  sat : Bool := false
  uns : Bool := false
  mover : Bool := false
  deriving DecidableEq, Repr

/-- What an instruction works with: format codes, whether fa was named, signedness, rounding, saturation setting,
and the warning bits of fields it does not take. -/
structure Lanes where
  fa : Nat
  fd : Nat
  named : Bool := false
  uns : Bool := false
  rm : Nat := 0
  sat : Nat := 0
  warn : BitVec 16 := 0
  deriving DecidableEq, Repr

/-- A format code of an integer (R35). -/
def intCode (c : Nat) : Bool := decide (1 ≤ c) && decide (c ≤ 5)

/-- The prefix as an instruction takes it (R37, R83). The spec gives a reserved code no effect in a pending prefix that rft
brings in from an edited TSW; here a format code is outside the target's table, and rnd 6, 7, scl 3 and sat 3 count as
settings that are not 0 (DESIGN CHOICE, log 56). Beside a format outside the table (pfmx), uns sets no pfmt, since the default
formats that then apply are those of the target (DESIGN CHOICE, log 56). -/
def LaneSpec.resolve (x : LaneSpec) (p : Option (BitVec 24)) (swrm : Nat) : Lanes :=
  match p with
  | none => { fa := x.dfa, fd := x.dfd, rm := swrm }
  | some v =>
    let q := Prefix.of v
    let offA := q.fa != 0 && x.fa.isNone
    let offD := q.fd != 0 && x.fd.isNone
    let a := if x.fa.isNone then 0 else q.fa
    let d := if x.fd.isNone then 0 else q.fd
    let outside := (a != 0 && !(x.fa.getD []).contains a) || (d != 0 && !(x.fd.getD []).contains d)
    let a' := if outside then 0 else a
    let d' := if outside then 0 else d
    let fa := if a' = 0 then x.dfa else a'
    let fd := if d' = 0 then x.dfd else d'
    let intIn := if x.mover then intCode a' else (x.fa.isSome && intCode fa) || (x.fd.isSome && intCode fd)
    let wantU := q.uns && !outside
    let okU := x.uns && intIn
    let okR := x.rnd && !(x.fd.isNone && intCode fa)
    { fa := fa, fd := fd, named := a' != 0, uns := wantU && okU,
      rm := if okR && q.rnd != 0 then q.rnd - 1 else swrm,
      sat := if x.sat then q.sat else 0,
      warn := warnBit 18 (q.fb != 0 || offA || offD || (wantU && !okU)) ||| warnBit 19 outside
        ||| warnBit 20 (q.scl != 0) ||| warnBit 22 (q.rnd != 0 && !okR) ||| warnBit 24 (q.sat != 0 && !x.sat) }

/-- The prefix as the issuing instruction takes it. -/
def State.lanes (s : State) (x : LaneSpec) : Lanes := x.resolve s.curPfx (swRm s.th.sw)

/-- The element format that a code and uns name. -/
def eltOf (code : Nat) (uns : Bool) : Elt := (Elt.of code uns).getD (.flt .fp32)

/-- The floating-point format of a code 6..11. -/
def fmtOf (code : Nat) : Fmt := match Elt.of code false with
  | some (.flt f) => f
  | _ => .fp32

/-- The lane format. -/
def Lanes.elt (l : Lanes) : Elt := eltOf l.fa l.uns
/-- The lane width. -/
def Lanes.w (l : Lanes) : Nat := l.elt.w

/-- The seed of stochastic rounding (R84): the index is that of the core on which the slot is. -/
def State.srSeed (s : State) : Nat :=
  (s.th.synret % 2 ^ 32) ^^^ ((4 * s.linAt s.core s.th + s.slot) * 2 ^ 18 % 2 ^ 32)

/-- How lane i rounds. -/
def State.rnd (s : State) (l : Lanes) (sat : Bool) (i : Nat) : Rnd := { rm := l.rm, sat := sat, seed := s.srSeed, idx := i }

/-- The specifications of R83. -/
def specNone : LaneSpec := {}
def specMove : LaneSpec := { fa := some [1, 2, 3, 4, 5, 6, 7, 8, 9, 10, 11], dfa := 4, uns := true, mover := true }
def specFar : LaneSpec := { fa := some [9, 10, 11], rnd := true, sat := true }
def specFcmp : LaneSpec := { fa := some [9, 10, 11] }
def specIar : LaneSpec := { fa := some [2, 3, 4, 5], dfa := 4, sat := true, uns := true }
def specImm : LaneSpec := { fa := some [2, 3, 4, 5], dfa := 4, uns := true }
def specCvt : LaneSpec := { fa := some [1, 2, 3, 4, 5, 6, 7, 8, 9, 10, 11], fd := some [1, 2, 3, 4, 5, 6, 7, 8, 9, 10, 11],
                            dfd := 10, rnd := true, sat := true, uns := true }
def specApx : LaneSpec := { fa := some [11] }
def specRed : LaneSpec := { fa := some [2, 3, 4, 5, 9, 10, 11], rnd := true, sat := true, uns := true }
def specRank : LaneSpec := { fa := some [2, 3, 4, 5, 7, 8, 9, 10, 11], uns := true }
def specTopk : LaneSpec := { fa := some [4, 11], uns := true }
def specAwrd : LaneSpec := { fd := some [4, 5, 6, 7, 8, 9, 10, 11], rnd := true, sat := true, uns := true }

/-- The effects staged so far, with the warnings of a prefix. -/
def State.fxV (s : State) (l : Lanes) : Fx := s.grp.fx.warnWith l.warn

/-- Stage flags. -/
def Fx.flagged (fx : Fx) (f : Flags) : Fx := { fx with fl := fx.fl.or f }

/-! ### Shared forms -/

/-- Lanes numbered from 0. -/
def lanesOf (v : Vec) (w : Nat) : List (Nat × Nat) := (lanes v w).zipIdx.map (fun p => (p.2, p.1))

/-- vD := f of every lane of vA, with flags. -/
def vUn (s : State) (x : LaneSpec) (d a : Reg) (f : Lanes → Nat → Nat → Nat × Flags) : Host.Outcome State Fault Refusal :=
  let l := s.lanes x
  let r := (lanesOf (s.vval a) l.w).map (fun p => f l p.1 p.2)
  s.finish ((s.putV d (ofLanes l.w (r.map (·.1))) (s.useV a (s.fxV l))).flagged (joinFlags (r.map (·.2))))

/-- vD := f of every lane of vA and vB, with flags. -/
def vBin (s : State) (x : LaneSpec) (d a b : Reg) (f : Lanes → Nat → Nat → Nat → Nat × Flags) :
    Host.Outcome State Fault Refusal :=
  let l := s.lanes x
  let r := (List.range (512 / l.w)).map (fun i => f l i (lane (s.vval a) l.w i) (lane (s.vval b) l.w i))
  s.finish ((s.putV d (ofLanes l.w (r.map (·.1))) (s.useV b (s.useV a (s.fxV l)))).flagged (joinFlags (r.map (·.2))))

/-- vD := f(vA, vB) as whole registers. -/
def vWhole (s : State) (d a b : Reg) (f : Vec → Vec → Vec) : Host.Outcome State Fault Refusal :=
  s.finish (s.putV d (f (s.vval a) (s.vval b)) (s.useV b (s.useV a (s.fxV (s.lanes specNone)))))

/-- wD := a scalar result of vA, which completes late (R85). -/
def vScal (s : State) (l : Lanes) (d a : Reg) (v : Word) (fl : Flags) : Host.Outcome State Fault Refusal :=
  s.finish (((s.put d v (s.useV a (s.fxV l))).flagged fl).later d)

/-- A scalar result of a format (R98): zero-extended, or sign-extended for a signed integer. -/
def scalarOf (t : Elt) (x : Nat) : Word :=
  match t with
  | .int w false => ofInt (signedOf w x)
  | _ => BitVec.ofNat 64 x

/-! ### Floating-point lanes (R90, R91, R93) -/

/-- The sum of two values rounded once (R90): opposite infinities, NaNs and the sign of an exact zero. -/
def sumRound (f : Fmt) (o : Rnd) (a b : Val) : Nat × Flags :=
  match a, b with
  | .nan s, .nan t => (f.nan, { nv := s || t })
  | .nan s, _ => (f.nan, { nv := s })
  | _, .nan t => (f.nan, { nv := t })
  | .inf n, .inf k => if n = k then convertF f {} (.inf n) else (f.nan, { nv := true })
  | .inf n, .fin .. => convertF f {} (.inf n)
  | .fin .., .inf k => convertF f {} (.inf k)
  | .fin n m e, .fin k p g =>
    if m = 0 ∧ p = 0 then (f.sgn (n && k) 0, {})
    else
      let x := alignI n m e k p g
      roundInt2 f o (x.2.1 + x.2.2) x.1

/-- The product of two values rounded once (R90). -/
def mulRound (f : Fmt) (o : Rnd) (a b : Val) : Nat × Flags :=
  let p := a.mul b
  match p.1 with
  | .nan _ => (f.nan, { nv := p.2 })
  | .inf n => convertF f {} (.inf n)
  | v => convertF f o v

/-- z + x · y rounded once (R90). -/
def fmaRound (f : Fmt) (o : Rnd) (z x y : Val) : Nat × Flags :=
  let p := x.mul y
  let r := sumRound f o z p.1
  (r.1, { r.2 with nv := r.2.nv || p.2 })

/-- A quiet or signalling NaN. -/
def isSnan (f : Fmt) (x : Nat) : Bool := match f.decode x with
  | .nan s => s
  | _ => false

/-- The order of vmin.f and vmax.f: −0 below +0 (R91). -/
def zeroOrder (f : Fmt) (x : Nat) : Int := if f.neg x then -(f.mag x : Int) - 1 else f.mag x

/-- vmin.f and vmax.f of one lane (R91). -/
def minMaxF (f : Fmt) (max : Bool) (x y : Nat) : Nat × Flags :=
  let fl : Flags := { nv := isSnan f x || isSnan f y }
  if f.isNan x then (if f.isNan y then f.nan else y, fl)
  else if f.isNan y then (x, fl)
  else
    let takeB := if max then decide (zeroOrder f x < zeroOrder f y) else decide (zeroOrder f y < zeroOrder f x)
    (if takeB then y else x, fl)

/-- vabs.f and vneg.f of one lane (R91). -/
def signOp (f : Fmt) (neg : Bool) (x : Nat) : Nat × Flags :=
  if f.isNan x then (f.nan, { nv := isSnan f x }) else (f.sgn (neg && !f.neg x) (f.mag x), {})

/-- The condition of vcmp.f on one lane (R93). -/
def cmpF (f : Fmt) (cond x y : Nat) : Bool × Flags :=
  let un := f.isNan x || f.isNan y
  let a := (Elt.flt f).rank x
  let b := (Elt.flt f).rank y
  let sig := isSnan f x || isSnan f y
  match cond with
  | 0 => (!un && a == b, { nv := sig })
  | 1 => (un || a != b, { nv := sig })
  | 2 => (!un && decide (a < b), { nv := un })
  | 3 => (!un && decide (a ≤ b), { nv := un })
  | 4 => (!un && decide (b < a), { nv := un })
  | 5 => (!un && decide (b ≤ a), { nv := un })
  | _ => (un, { nv := sig })

/-- Saturation of a setting whose default does not saturate. -/
def Lanes.saturates (l : Lanes) : Bool := l.sat == 1

/-- A floating-point binary operation on values (R90). -/
def vArithF (s : State) (d a b : Reg) (f : Fmt → Rnd → Val → Val → Nat × Flags) : Host.Outcome State Fault Refusal :=
  vBin s specFar d a b (fun l i x y =>
    let t := fmtOf l.fa
    f t (s.rnd l l.saturates i) (t.decode x) (t.decode y))

/-! ### Moves (R86-R88) -/

/-- vldl (R87). -/
def execVldl (d a : Reg) (k : BitVec 6) (s : State) : Host.Outcome State Fault Refusal :=
  let ea : Int := (s.val a).toNat + 64 * sOff k
  let fx := s.loadCheck ea 64 64 (s.use a (s.fxV (s.lanes specNone)))
  s.finish (s.putV d (BitVec.ofNat 512 (s.localNum s.core s.th ea.toNat 64)) fx)

/-- vstl (R87). -/
def execVstl (d a : Reg) (k : BitVec 6) (s : State) : Host.Outcome State Fault Refusal :=
  let ea : Int := (s.val a).toNat + 64 * sOff k
  let fx := s.storeCheck ea 64 64 (s.useV d (s.use a (s.fxV (s.lanes specNone))))
  s.finish { fx with st := fx.st ++ [{ addr := ea.toNat, bytes := toBytes 64 (s.vval d).toNat }] }

/-- vbcast: every lane receives the low bits of A (R88). -/
def execVbcast (d a : Reg) (s : State) : Host.Outcome State Fault Refusal :=
  let l := s.lanes specMove
  s.finish (s.putV d (ofLanes l.w (List.replicate (512 / l.w) (s.val a).toNat)) (s.use a (s.fxV l)))

/-- vext: lane B mod n, sign-extended beside a named signed integer format (R88). -/
def execVext (d a b : Reg) (s : State) : Host.Outcome State Fault Refusal :=
  let l := s.lanes specMove
  let x := lane (s.vval a) l.w ((s.val b).toNat % (512 / l.w))
  let v := if l.named && intCode l.fa && !l.uns then ofInt (signedOf l.w x) else BitVec.ofNat 64 x
  s.finish ((s.put d v (s.use b (s.useV a (s.fxV l)))).later d)

/-- vins: lane B mod n of D replaced by the low bits of A (R88). -/
def execVins (d a b : Reg) (s : State) : Host.Outcome State Fault Refusal :=
  let l := s.lanes specMove
  let i := (s.val b).toNat % (512 / l.w)
  let r := (lanes (s.vval d) l.w).set i ((s.val a).toNat % 2 ^ l.w)
  s.finish (s.putV d (ofLanes l.w r) (s.useV d (s.use b (s.use a (s.fxV l)))))

/-- vmov, bit for bit (R88). -/
def execVmov (d a : Reg) (s : State) : Host.Outcome State Fault Refusal :=
  s.finish (s.putV d (s.vval a) (s.useV a (s.fxV (s.lanes specNone))))

/-! ### Floating-point arithmetic (R89-R91) -/

/-- lane := A + B (R90). -/
def execVaddF (d a b : Reg) (s : State) : Host.Outcome State Fault Refusal := vArithF s d a b sumRound

/-- lane := A − B (R90). -/
def execVsubF (d a b : Reg) (s : State) : Host.Outcome State Fault Refusal :=
  vArithF s d a b (fun f o x y => sumRound f o x y.negate)

/-- lane := A · B (R90). -/
def execVmulF (d a b : Reg) (s : State) : Host.Outcome State Fault Refusal := vArithF s d a b mulRound

/-- lane := D + A · B with one rounding; reads vD (R90). -/
def execVfmaF (d a b : Reg) (s : State) : Host.Outcome State Fault Refusal :=
  let l := s.lanes specFar
  let f := fmtOf l.fa
  let r := (List.range (512 / l.w)).map (fun i =>
    fmaRound f (s.rnd l l.saturates i) (f.decode (lane (s.vval d) l.w i)) (f.decode (lane (s.vval a) l.w i))
      (f.decode (lane (s.vval b) l.w i)))
  s.finish ((s.putV d (ofLanes l.w (r.map (·.1))) (s.useV d (s.useV b (s.useV a (s.fxV l))))).flagged
    (joinFlags (r.map (·.2))))

/-- lane := the lesser (R91). -/
def execVminF (d a b : Reg) (s : State) : Host.Outcome State Fault Refusal :=
  vBin s specFcmp d a b (fun l _ x y => minMaxF (fmtOf l.fa) false x y)

/-- lane := the greater (R91). -/
def execVmaxF (d a b : Reg) (s : State) : Host.Outcome State Fault Refusal :=
  vBin s specFcmp d a b (fun l _ x y => minMaxF (fmtOf l.fa) true x y)

/-- lane := |A| (R91). -/
def execVabsF (d a : Reg) (s : State) : Host.Outcome State Fault Refusal :=
  vUn s specFcmp d a (fun l _ x => signOp (fmtOf l.fa) false x)

/-- lane := −A (R91). -/
def execVnegF (d a : Reg) (s : State) : Host.Outcome State Fault Refusal :=
  vUn s specFcmp d a (fun l _ x => signOp (fmtOf l.fa) true x)

/-! ### Integer arithmetic and logic (R92) -/

/-- The integer of a lane. -/
def laneInt (l : Lanes) (x : Nat) : Int := if l.uns then (x % 2 ^ l.w : Nat) else signedOf l.w x

/-- A lane result wrapped, or clamped when sat = 1 (R92). -/
def wrapOrClamp (l : Lanes) (v : Int) : Nat :=
  let r := intRange l.w l.uns
  intBits l.w (if l.sat = 1 then max r.1 (min r.2 v) else v)

/-- An integer binary operation (R92). -/
def vArithI (s : State) (d a b : Reg) (f : Int → Int → Int) : Host.Outcome State Fault Refusal :=
  vBin s specIar d a b (fun l _ x y => (wrapOrClamp l (f (laneInt l x) (laneInt l y)), {}))

/-- lane := A + B (R92). -/
def execVaddI (d a b : Reg) (s : State) : Host.Outcome State Fault Refusal := vArithI s d a b (fun x y => x + y)

/-- lane := A − B (R92). -/
def execVsubI (d a b : Reg) (s : State) : Host.Outcome State Fault Refusal := vArithI s d a b (fun x y => x - y)

/-- lane := A · B (R92). -/
def execVmulI (d a b : Reg) (s : State) : Host.Outcome State Fault Refusal := vArithI s d a b (fun x y => x * y)

/-- lane := the lesser (R92). -/
def execVminI (d a b : Reg) (s : State) : Host.Outcome State Fault Refusal :=
  vBin s specImm d a b (fun l _ x y => (if laneInt l y < laneInt l x then y else x, {}))

/-- lane := the greater (R92). -/
def execVmaxI (d a b : Reg) (s : State) : Host.Outcome State Fault Refusal :=
  vBin s specImm d a b (fun l _ x y => (if laneInt l x < laneInt l y then y else x, {}))

/-- D := A and B, on all 64 bytes (R92). -/
def execVand (d a b : Reg) (s : State) : Host.Outcome State Fault Refusal := vWhole s d a b (fun x y => x &&& y)

/-- D := A or B (R92). -/
def execVor (d a b : Reg) (s : State) : Host.Outcome State Fault Refusal := vWhole s d a b (fun x y => x ||| y)

/-- D := A xor B (R92). -/
def execVxor (d a b : Reg) (s : State) : Host.Outcome State Fault Refusal := vWhole s d a b (fun x y => x ^^^ y)

/-- lane := A << (B mod w) (R92). -/
def execVshl (d a b : Reg) (s : State) : Host.Outcome State Fault Refusal :=
  vBin s specImm d a b (fun l _ x y => (x * 2 ^ (y % l.w) % 2 ^ l.w, {}))

/-- lane := unsigned(A) >> (B mod w) (R92). -/
def execVshr (d a b : Reg) (s : State) : Host.Outcome State Fault Refusal :=
  vBin s specImm d a b (fun l _ x y => (x / 2 ^ (y % l.w), {}))

/-- lane := signed(A) >> (B mod w) (R92). -/
def execVsar (d a b : Reg) (s : State) : Host.Outcome State Fault Refusal :=
  vBin s specImm d a b (fun l _ x y => (intBits l.w (signedOf l.w x / (2 ^ (y % l.w) : Nat)), {}))

/-! ### Compare, select, convert (R93-R95) -/

/-- vcmp.f: all ones in each lane whose condition holds (R93). -/
def execVcmpF (cond : BitVec 3) (d a b : Reg) (s : State) : Host.Outcome State Fault Refusal :=
  vBin s specFcmp d a b (fun l _ x y =>
    let r := cmpF (fmtOf l.fa) cond.toNat x y
    (if r.1 then 2 ^ l.w - 1 else 0, r.2))

/-- vsel: (A and D) or (B and not D); reads vD (R94). -/
def execVsel (d a b : Reg) (s : State) : Host.Outcome State Fault Refusal :=
  let m := s.vval d
  s.finish (s.putV d ((s.vval a &&& m) ||| (s.vval b &&& ~~~m))
    (s.useV d (s.useV b (s.useV a (s.fxV (s.lanes specNone))))))

/-- How many parts a conversion has (R95). -/
def cvtRatio (l : Lanes) : Nat :=
  let wa := (eltOf l.fa l.uns).w
  let wd := (eltOf l.fd l.uns).w
  Nat.max wa wd / Nat.min wa wd

/-- Whether a part is illegal with the prefix in force (R95). -/
def cvtIllegal (p : Option (BitVec 24)) (part : Nat) : Bool := decide (cvtRatio (specCvt.resolve p 0) ≤ part)

/-- Saturation of a conversion or of awrd (R95, R105): with sat = 0, E4M3, E5M2 and E2M1 saturate. -/
def cvtSat (l : Lanes) : Bool := l.sat == 1 || (l.sat == 0 && decide (6 ≤ l.fd) && decide (l.fd ≤ 8))

/-- vcvt: one part of vA into vD; reads vD (R95). -/
def execVcvt (d a : Reg) (part : BitVec 5) (s : State) : Host.Outcome State Fault Refusal :=
  let l := s.lanes specCvt
  let ta := eltOf l.fa l.uns
  let td := eltOf l.fd l.uns
  let n := 512 / Nat.max ta.w td.w
  let base := part.toNat * n
  let down := decide (td.w ≤ ta.w)
  let r := (List.range n).map (fun i =>
    let src := lane (s.vval a) ta.w (if down then i else base + i)
    let j := if down then base + i else i
    (j, td.conv (s.rnd l (cvtSat l) j) (ta.val src)))
  let old := lanes (s.vval d) td.w
  let out := r.foldl (fun v p => v.set p.1 p.2.1) old
  s.finish ((s.putV d (ofLanes td.w out) (s.useV d (s.useV a (s.illegal (decide (cvtRatio l ≤ part.toNat)) (s.fxV l))))).flagged
    (joinFlags (r.map (fun p => p.2.2))))

/-! ### Approximation functions (R96, R97) -/

/-- The reciprocal (R96). -/
def execVrcp (d a : Reg) (s : State) : Host.Outcome State Fault Refusal := vUn s specApx d a (fun _ _ x => approxRcp x)

/-- The reciprocal square root (R96). -/
def execVrsqrt (d a : Reg) (s : State) : Host.Outcome State Fault Refusal := vUn s specApx d a (fun _ _ x => approxRsqrt x)

/-- Two to a power (R96). -/
def execVexp2 (d a : Reg) (s : State) : Host.Outcome State Fault Refusal := vUn s specApx d a (fun _ _ x => approxExp2 x)

/-- The binary logarithm (R96). -/
def execVlog2 (d a : Reg) (s : State) : Host.Outcome State Fault Refusal := vUn s specApx d a (fun _ _ x => approxLog2 x)

/-! ### Reductions and selection (R98-R103) -/

/-- The running state of a sum: floating lanes in an LA, integer lanes exactly, and whether every lane so far is −0. -/
structure SumAcc where
  la : LaVal := .fin 0
  int : Int := 0
  allNeg : Bool := true
  fl : Flags := {}
  deriving DecidableEq, Repr

/-- Add one lane (R99). -/
def SumAcc.add (acc : SumAcc) (l : Lanes) (x : Nat) : SumAcc :=
  match l.elt with
  | .int .. => { acc with int := acc.int + laneInt l x }
  | .flt f =>
    let r := laAddVal acc.la (f.decode x)
    { acc with la := r.1, allNeg := acc.allNeg && f.neg x && f.mag x == 0, fl := acc.fl.or r.2 }

/-- The sum rounded once, wrapped or clamped (R99). -/
def SumAcc.round (acc : SumAcc) (l : Lanes) (o : Rnd) : Nat × Flags :=
  match l.elt with
  | .int .. => (wrapOrClamp l acc.int, {})
  | .flt f =>
    if acc.allNeg then (f.sgn true 0, acc.fl)
    else
      let r := laRoundF acc.la f o
      (r.1, acc.fl.or r.2)

/-- vred.add (R99). -/
def execVredAdd (d a : Reg) (s : State) : Host.Outcome State Fault Refusal :=
  let l := s.lanes specRed
  let r := ((lanes (s.vval a) l.w).foldl (fun (acc : SumAcc) x => acc.add l x) {}).round l (s.rnd l l.saturates 0)
  vScal s l d a (scalarOf l.elt r.1) r.2

/-- The running sums of a list of lanes, each rounded with its lane number (R99). -/
def scanFrom (s : State) (l : Lanes) : List Nat → Nat → SumAcc → List (Nat × Flags)
  | [], _, _ => []
  | x :: r, i, acc =>
    let acc1 := acc.add l x
    acc1.round l (s.rnd l l.saturates i) :: scanFrom s l r (i + 1) acc1

/-- vscan.add (R99). -/
def execVscanAdd (d a : Reg) (s : State) : Host.Outcome State Fault Refusal :=
  let l := s.lanes specRed
  let r := scanFrom s l (lanes (s.vval a) l.w) 0 {}
  s.finish ((s.putV d (ofLanes l.w (r.map (·.1))) (s.useV a (s.fxV l))).flagged (joinFlags (r.map (·.2))))

/-- A lane value with a NaN made canonical (R100). -/
def canonLane (t : Elt) (x : Nat) : Nat :=
  match t with
  | .int .. => x
  | .flt f => if f.isNan x then f.nan else x

/-- The lane that the order of R58 selects, with its index: the lowest index on equal rank (R100). -/
def selectLane (t : Elt) (max : Bool) (l : List (Nat × Nat)) : Nat × Nat :=
  (l.foldl (fun best p => match best with
    | none => some p
    | some b => if (if max then decide (t.rank b.2 < t.rank p.2) else decide (t.rank p.2 < t.rank b.2)) then some p else some b)
    none).getD (0, 0)

/-- The four selections share one form: the value of the selected lane or its index (R100). -/
def vSelect (s : State) (d a : Reg) (max index : Bool) : Host.Outcome State Fault Refusal :=
  let l := s.lanes specRank
  let p := selectLane l.elt max (lanesOf (s.vval a) l.w)
  vScal s l d a (if index then BitVec.ofNat 64 p.1 else scalarOf l.elt (canonLane l.elt p.2)) {}

/-- vred.max (R100). -/
def execVredMax (d a : Reg) (s : State) : Host.Outcome State Fault Refusal := vSelect s d a true false

/-- vred.min (R100). -/
def execVredMin (d a : Reg) (s : State) : Host.Outcome State Fault Refusal := vSelect s d a false false

/-- vargmax (R100). -/
def execVargmax (d a : Reg) (s : State) : Host.Outcome State Fault Refusal := vSelect s d a true true

/-- vargmin (R100). -/
def execVargmin (d a : Reg) (s : State) : Host.Outcome State Fault Refusal := vSelect s d a false true

/-- Insert behind every element that does not stand after it: a stable sort. -/
def insertBy {α : Type} (before : α → α → Bool) (x : α) : List α → List α
  | [] => [x]
  | y :: r => if before x y then x :: y :: r else y :: insertBy before x r

/-- A stable sort by a strict order. -/
def sortBy {α : Type} (before : α → α → Bool) (l : List α) : List α := l.foldl (fun acc x => insertBy before x acc) []

/-- vsort: ascending, stable, NaNs canonical (R100). -/
def execVsort (d a : Reg) (s : State) : Host.Outcome State Fault Refusal :=
  let l := s.lanes specRank
  let r := sortBy (fun x y => decide (l.elt.rank x < l.elt.rank y)) (lanes (s.vval a) l.w)
  s.finish (s.putV d (ofLanes l.w (r.map (canonLane l.elt))) (s.useV a (s.fxV l)))

/-- vcompact: the lanes of vA whose lane in vB is nonzero (R101). -/
def execVcompact (d a b : Reg) (s : State) : Host.Outcome State Fault Refusal :=
  let l := s.lanes specMove
  let r := ((lanes (s.vval a) l.w).zip (lanes (s.vval b) l.w)).filterMap (fun p => if p.2 = 0 then none else some p.1)
  s.finish (s.putV d (ofLanes l.w r) (s.useV b (s.useV a (s.fxV l))))

/-- vtopk: the 8 highest-ranked of 16 entries, descending (R102). -/
def execVtopk (d a b : Reg) (s : State) : Host.Outcome State Fault Refusal :=
  let l := s.lanes specTopk
  let key (e : Nat) : Nat := e / 2 ^ 32
  let before (x y : Nat) : Bool := decide (l.elt.rank (key y) < l.elt.rank (key x))
    || (l.elt.rank (key x) == l.elt.rank (key y) && decide (x % 2 ^ 32 < y % 2 ^ 32))
  let r := (sortBy before (lanes (s.vval a) 64 ++ lanes (s.vval b) 64)).take 8
  s.finish (s.putV d (ofLanes 64 (r.map (fun e => canonLane l.elt (key e) * 2 ^ 32 + e % 2 ^ 32)))
    (s.useV b (s.useV a (s.fxV l))))

/-- vperm: lane i receives lane (B lane i) mod n of vA (R103). -/
def execVperm (d a b : Reg) (s : State) : Host.Outcome State Fault Refusal :=
  let l := s.lanes specMove
  let n := 512 / l.w
  s.finish (s.putV d (ofLanes l.w ((lanes (s.vval b) l.w).map (fun j => lane (s.vval a) l.w (j % n))))
    (s.useV b (s.useV a (s.fxV l))))

/-- The digit widths in force (R103): zero widths dropped, kept while their sum is at most lg, completed to lg. -/
def digitWidths (lg : Nat) : List Nat → Nat → List Nat
  | [], sum => if sum < lg then [lg - sum] else []
  | x :: r, sum => if x = 0 then digitWidths lg r sum else if sum + x ≤ lg then x :: digitWidths lg r (sum + x)
    else (if sum < lg then [lg - sum] else [])

/-- An index with its digits in opposite order (R103): n is the sum of the widths still to come. -/
def digitRev : List Nat → Nat → Nat → Nat
  | [], _, _ => 0
  | x :: r, n, i => (i % 2 ^ x) * 2 ^ (n - x) + digitRev r (n - x) (i / 2 ^ x)

/-- vrevd: lane i moves to its digit-reversed index (R103). -/
def execVrevd (d a b : Reg) (s : State) : Host.Outcome State Fault Refusal :=
  let l := s.lanes specMove
  let n := 512 / l.w
  let lg := Nat.log2 n
  let c := s.val b
  let ws := digitWidths lg ((List.range (bits c 2 0)).map (fun j => bits c (3 * j + 5) (3 * j + 3))) 0
  let out := (lanesOf (s.vval a) l.w).foldl (fun v p => v.set (digitRev ws lg p.1) p.2) (List.replicate n 0)
  s.finish (s.putV d (ofLanes l.w out) (s.use b (s.useV a (s.fxV l))))

end Sys2Proof.Machine
end

