-- ==== Sys2Proof/Machine/Wire.lean ====
section
/-! DEFINITION. Packets between packages: the envelope (22 R411), numbering at the egress queue (21 R394, R400, R401),
and the model's own payload layout (log 24). A payload's first word holds the type in its low four bits: 0 message,
1 access, 2 answer, 3 collective member's message, 4 translation request, 5 translation answer, 6 invalidation,
7 acknowledgement. -/

namespace Sys2Proof.Machine

/-! ### Numbering and the egress queues -/

/-- The envelope of a packet of this package (R411); the number is laid in when it is given. -/
def State.envelope (s : State) (dst cls kind : Nat) : List Word :=
  let p := s.pkg.peers.get 0 dst
  [fld 48 s.pkg.incarn ||| fld 32 (if kind = 1 then 0 else bits p 47 32),
   fld 57 s.pkgNo ||| fld 50 dst ||| fld 48 cls ||| fld 44 kind ||| fld 36 (bits p 55 48)]

/-- The wire words with a sequence number. -/
def withSeq (ws : List Word) (n : Nat) : List Word :=
  match ws with
  | w :: r => merge w (fld 0 n) 31 0 :: r
  | [] => []

/-- Number the waiting packets of one destination and class as far as the window of 256 allows (R400, R401). -/
def numberFrom (dst cls : Nat) : List EPkt → Pair → List EPkt × Pair
  | [], p => ([], p)
  | e :: r, p =>
    if e.dst == dst && e.cls == cls && e.seq.isNone && !e.relay && decide (p.txNext - p.txAcked < 256) then
      let n := p.txNext % 2 ^ 32
      let e1 := { e with seq := some n, words := withSeq e.words n }
      let t := numberFrom dst cls r { p with txNext := p.txNext + 1, copies := p.copies ++ [(n, e1.words, 0)] }
      (e1 :: t.1, t.2)
    else
      let t := numberFrom dst cls r p
      (e :: t.1, t.2)

/-- Number what may be numbered of a destination and class. -/
def State.number (s : State) (dst cls : Nat) : State :=
  if cls < 2 then
    let r := numberFrom dst cls s.egress (s.pairs.get {} (2 * dst + cls))
    { s with egress := r.1, pairs := s.pairs.set (2 * dst + cls) r.2 }
  else s

/-- A packet enters the egress queue of its destination and class, on the die that R384 gives it (R394); a late one has
counted at the dies that it has passed (R366). -/
def State.egressPut (s : State) (dst cls kind : Nat) (payload : List Word) (late : Bool := false) (dies : List Nat := []) : State :=
  State.number { s with egress := s.egress ++ [{ dst := dst, cls := cls, words := s.envelope dst cls kind ++ payload, late := late,
                                                 die := dst % 4, dies := dies }] } dst cls

/-! ### Payloads -/

/-- The words of a number of n words. -/
def numWords (n v : Nat) : List Word := (List.range n).map (fun i => BitVec.ofNat 64 (v >>> (64 * i)))
/-- The number that words hold. -/
def wordsNum (ws : List Word) : Nat := ws.foldr (fun w a => w.toNat + 2 ^ 64 * a) 0

/-- The source fields of a payload: context, logical index, job or thread, mode, and how its address is to be read. -/
def sourceWords (p : Packet) : List Word :=
  [fld 63 (boolWord p.src.sys).toNat ||| fld 62 (boolWord (p.src.job != 0)).toNat ||| fld 28 p.leaf ||| fld 16 p.src.lin ||| fld 0 p.src.ctx,
   BitVec.ofNat 64 (if p.src.job = 0 then p.src.uid else p.src.job), BitVec.ofNat 64 p.id,
   if p.pol = 2 then BitVec.ofNat 64 p.loc else p.va]

/-- The head word of a payload: type, kind, address form and three small fields. -/
def headWord (ty kind pol a b c : Nat) : Word :=
  fld 0 ty ||| fld 4 kind ||| fld 8 pol ||| fld 16 a ||| fld 32 b ||| fld 48 c

/-- The payload of an access or message (log 24). -/
def Packet.payload (p : Packet) : List Word :=
  let mk (ty kind a b c : Nat) (body : List Word) : List Word := headWord ty kind p.pol a b c :: (sourceWords p ++ body)
  match p.kind with
  | .msg ws => mk 0 0 p.cls 0 0 ws
  | .load n | .mig n => mk 1 0 n 0 0 []
  | .store d m => mk 1 1 0 0 0 (m :: numWords 8 d.toNat)
  | .amo op size b d nr => mk 1 2 op size (boolWord nr).toNat (numWords 2 b.toNat ++ numWords 2 d.toNat)
  | .tdec k => mk 1 3 0 0 0 [BitVec.ofNat 64 k]
  | .waitw b => mk 1 4 0 0 0 [b]
  | .enq it => mk 1 5 0 0 0 it
  | .deq => mk 1 6 p.sslot 0 0 []
  | .score row es _ => mk 1 7 row 0 0 (es.flatMap (fun e => numWords 2 e.toNat))
  | .pf => mk 1 8 0 0 0 []
  | .xreq => mk 4 0 0 0 0 []
  | .woken v => mk 1 9 0 0 0 [v]
  | .watch b => mk 1 4 0 0 0 [b]
  | .recall => mk 1 13 0 0 0 []
  | .sysm ws => mk 1 10 0 0 0 ws
  | .claim => mk 1 11 0 0 0 []
  | .unclaim => mk 1 12 0 0 0 []

/-- The kind of an access that a payload carries. -/
def payloadKind (h : Word) (body : List Word) : PKind :=
  let a := bits h 31 16
  let b := bits h 47 32
  match bits h 7 4 with
  | 0 => .load a
  | 1 => .store (BitVec.ofNat 512 (wordsNum ((body.drop 1).take 8))) (body.getD 0 0)
  | 2 => .amo a b (BitVec.ofNat 128 (wordsNum (body.take 2))) (BitVec.ofNat 128 (wordsNum ((body.drop 2).take 2))) (bits h 63 48 == 1)
  | 3 => .tdec (body.getD 0 0).toNat
  | 4 => .waitw (body.getD 0 0)
  | 5 => .enq (body.take 8)
  | 6 => .deq
  | 7 => .score a ((List.range (body.length / 2)).map (fun i => BitVec.ofNat 128 (wordsNum ((body.drop (2 * i)).take 2)))) 0
  | 9 => .woken (body.getD 0 0)
  | 10 => .sysm (body.take 8)
  | 11 => .claim
  | 12 => .unclaim
  | 13 => .recall
  | _ => .pf

/-- A packet of another package as it arrives: its address form stays in pol, its id at the origin in cnt. -/
def packetOf (org cls : Nat) (ws : List Word) : Packet :=
  let h := ws.getD 0 0
  let w := ws.getD 1 0
  let job := w.getLsbD 62
  let src : Source := { pkg := org, lin := bits w 27 16, ctx := bits w 15 0, sys := w.getLsbD 63, far := true,
                        uid := if job then 0 else (ws.getD 2 0).toNat, job := if job then (ws.getD 2 0).toNat else 0 }
  { cls := cls, src := src, cnt := (ws.getD 3 0).toNat, va := ws.getD 4 0, loc := (ws.getD 4 0).toNat, pol := bits h 9 8, leaf := bits w 29 28,
    sslot := if bits h 7 4 = 6 then bits h 31 16 else 0
    kind := if bits h 3 0 = 0 then .msg (ws.drop 5) else payloadKind h (ws.drop 5) }

/-- The payload of an answer to another package: kind, trap code and info, flags, the value. -/
def Reply.payload (r : Reply) : List Word :=
  let mk (kind code info : Nat) (body : List Word) : List Word := headWord 2 kind 0 code info 0 :: BitVec.ofNat 64 r.cnt :: body
  let fl (f : Flags) : Nat := (flBits f).toNat >>> 8
  match r.kind with
  | .value v f => mk 0 0 (fl f) (numWords 8 v.toNat)
  | .ack => mk 1 0 0 []
  | .nack => mk 2 0 0 []
  | .dataErr => mk 3 0 0 []
  | .empty => mk 4 0 0 []
  | .remote code info => mk 5 code info []
  | .leaf _ => mk 1 0 0 []

/-- What an answer from another package says. -/
def replyKind (ws : List Word) : RKind :=
  let h := ws.getD 0 0
  let f := bits h 47 32
  match bits h 7 4 with
  | 0 => .value (BitVec.ofNat 512 (wordsNum ((ws.drop 2).take 8)))
      { nv := f / 8 % 2 == 1, of := f / 4 % 2 == 1, uf := f / 2 % 2 == 1, nx := f % 2 == 1 }
  | 1 => .ack
  | 2 => .nack
  | 3 => .dataErr
  | 4 => .empty
  | _ => .remote (bits h 31 16) f

/-- The payload of a collective member's message (R339). -/
def ClMsg.payload (m : ClMsg) : List Word :=
  [headWord 3 m.kind 0 m.ctx m.gid m.list, headWord 0 0 0 m.src m.dst m.step, fld 32 m.off ||| fld 0 m.params.length]
    ++ m.params.map (BitVec.ofNat 64) ++ m.data.map (fun x => x.setWidth 64)

/-- A collective member's message from its payload. -/
def clOf (ws : List Word) : ClMsg :=
  let h := ws.getD 0 0
  let g := ws.getD 1 0
  let n := bits (ws.getD 2 0) 31 0
  { ctx := bits h 31 16, gid := bits h 47 32, list := bits h 63 48, step := bits g 63 48, src := bits g 31 16, dst := bits g 47 32,
    kind := bits h 7 4, params := ((ws.drop 3).take n).map BitVec.toNat, off := bits (ws.getD 2 0) 63 32, data := (ws.drop (3 + n)).map (fun w => w.setWidth 32) }

/-- Send a collective member's message (R339): signals on the request class, step data on the bulk class; within the
package it is at hand at once. -/
def State.clSend (s : State) (m : ClMsg) : State :=
  let pk := m.dst % 128
  if pk = s.pkgNo then { s with clMsgs := s.clMsgs ++ [m] }
  else s.egressPut pk (if m.kind = 1 then 2 else 0) 0 m.payload

end Sys2Proof.Machine
end

