-- ==== Sys2Proof/Machine/EngCl.lean ====
section
/-! DEFINITION. The collective words (17 R335-R341). -/

namespace Sys2Proof.Machine

/-! ### Building the lists (R335, R336, R339) -/

/-- The list under construction. -/
def ClRun.cur (c : ClRun) : ClList := c.lists.getLastD {}
/-- Replace the list under construction. -/
def ClRun.setCur (c : ClRun) (l : ClList) : ClRun := { c with lists := c.lists.dropLast ++ [l] }

/-- A word of class 5 before cl.go (R335): after it, code 39. -/
def State.clWord (s : State) (pops : Nat) (f : Job → List Word → State) : Host.Outcome State Fault Refusal :=
  s.onWord 5 pops 0 (fun j o => if j.cl.went then s.putJob (j.fail 39) else f j o)

/-- The package and die of a job, as members name each other (R336): dies follow logical coordinates (R4, R5). -/
def State.member (s : State) (j : Job) : Nat := s.pkgNo + 128 * dieOf j.lin

/-- The entries of a group table are well formed and name this member (R336). -/
def State.groupOk (s : State) (j : Job) (es : List Nat) (me : Nat) : Bool :=
  es.all (fun e => decide (e < 512) && s.reachable (e % 128)) && distinct es
    && es.getD me 512 == s.member j

/-- cl.grp ( tbl g me id -- ) (R336). -/
def execClGrp (s : State) : Host.Outcome State Fault Refusal :=
  s.clWord 4 (fun j o =>
    let g := opn o 1
    if !(decide (g ≤ 7) && decide (opn o 2 < 2 ^ g) && decide (opn o 3 < 65536)) then s.putJob (j.fail 13)
    else if j.cl.cur.hasGrp then s.putJob (j.fail 39)
    else match s.eRead j (opn o 0) (2 * 2 ^ g) with
    | .error e => s.engErr j e
    | .ok b =>
      let es := (List.range (2 ^ g)).map (fun r => ofBytes ((b.drop (2 * r)).take 2))
      if !s.groupOk j es (opn o 2) then s.putJob (j.fail 36)
      else s.putJob (Job.done { j with cl := j.cl.setCur { j.cl.cur with grp := es, g := g, me := opn o 2, gid := opn o 3, hasGrp := true } } 4))

/-- Append a reduce-scatter or an all-gather (R335). -/
def State.clAppend (s : State) (rs : Bool) : Host.Outcome State Fault Refusal :=
  s.clWord 4 (fun j o =>
    let l := j.cl.cur
    let ok (a : Word) : Bool := canonical a && a.toNat % 4 == 0
    if !(ok (o.getD 0 0) && ok (o.getD 1 0) && 1 ≤ opn o 2 && opn o 2 ≤ 2 ^ 20 && decide (opn o 3 < 2)) then s.putJob (j.fail 13)
    else if !l.hasGrp then s.putJob (j.fail 39)
    else if opn o 2 % 2 ^ l.g ≠ 0 then s.putJob (j.fail 13)
    else if 16 < (l.steps.length + 1) * l.g then s.putJob (j.fail 39)
    else s.putJob (Job.done { j with cl := j.cl.setCur { l with steps := l.steps ++ [(rs, opn o 0, opn o 1, opn o 2, opn o 3, 0)] } } 4))

/-- cl.rs ( src dst n f -- ). -/
def execClRs (s : State) : Host.Outcome State Fault Refusal := s.clAppend true
/-- cl.ag ( src dst n f -- ). -/
def execClAg (s : State) : Host.Outcome State Fault Refusal := s.clAppend false

/-- cl.chain ( -- ): the next list; a fifth faults (R335, R339). -/
def execClChain (s : State) : Host.Outcome State Fault Refusal :=
  s.clWord 0 (fun j _ =>
    if 4 ≤ j.cl.lists.length then s.putJob (j.fail 39)
    else s.putJob (Job.done { j with cl := { j.cl with lists := j.cl.lists ++ [{}] } } 0))

/-! ### Performing a list (R337, R338, R340) -/

/-- An operation of a list. -/
structure ClOp where
  rs : Bool
  src : Nat
  dst : Nat
  n : Nat
  f : Nat
  deriving DecidableEq, Repr

/-- The list being performed. -/
def ClRun.now (c : ClRun) : ClList := c.lists.getD c.list {}
/-- The operation being performed. -/
def ClRun.op (c : ClRun) : Option ClOp :=
  (c.now.steps[c.opIdx]?).map (fun t => { rs := t.1, src := t.2.1, dst := t.2.2.1, n := t.2.2.2.1, f := t.2.2.2.2.1 })

/-- Bytes of an element of an operation's source. -/
def ClOp.width (o : ClOp) : Nat := if o.f = 1 then 2 else 4
/-- The destination range of an operation. -/
def ClOp.dstRange (o : ClOp) (g : Nat) : Int × Nat := (o.dst, if o.rs then o.n / 2 ^ g * 4 else o.n * o.width)
/-- The source range of an operation. -/
def ClOp.srcRange (o : ClOp) (g : Nat) : Int × Nat := (o.src, if o.rs then o.n * o.width else o.n / 2 ^ g * o.width)

/-- The operations of a list. -/
def ClList.ops (l : ClList) : List ClOp :=
  l.steps.map (fun t => { rs := t.1, src := t.2.1, dst := t.2.2.1, n := t.2.2.2.1, f := t.2.2.2.2.1 })

/-- The ranges of an all-gather's destination outside the aligned block of 2^b segments that holds a rank: those still to
be written once that block is there (R338). -/
def ClOp.outside (o : ClOp) (g me b : Nat) : List (Int × Nat) :=
  let seg := o.n / 2 ^ g
  let lo := me / 2 ^ b * 2 ^ b * seg
  let hi := lo + 2 ^ b * seg
  [((o.dst : Int), lo * o.width), (((o.dst + hi * o.width : Nat) : Int), (o.n - hi) * o.width)]

/-- The bit of a step within its operation (R337, R338). -/
def ClRun.bit (c : ClRun) (o : ClOp) : Nat :=
  let k := c.step % Nat.max 1 c.now.g
  if o.rs then c.now.g - 1 - k else k

/-- The partner of a step. -/
def ClRun.partner (c : ClRun) (o : ClOp) : Nat := c.now.me ^^^ 2 ^ c.bit o

/-- A member's message for the current step. -/
def Job.clMsg (j : Job) (o : ClOp) (kind : Nat) (data : List (BitVec 32)) : ClMsg :=
  let l := j.cl.now
  { ctx := j.ctx, gid := l.gid, list := j.cl.list, step := j.cl.step, src := l.grp.getD l.me 0, dst := l.grp.getD (j.cl.partner o) 0,
    kind := kind, params := [o.n, o.f, 2 ^ l.g, j.cl.list, j.cl.step], data := data }

/-- The range that a step keeps and the range it gives (R337). -/
def ClRun.halves (c : ClRun) (o : ClOp) : (Nat × Nat) × (Nat × Nat) :=
  let mid := (c.lo + c.hi) / 2
  if c.now.me / 2 ^ c.bit o % 2 = 0 then ((c.lo, mid), (mid, c.hi)) else ((mid, c.hi), (c.lo, mid))

/-- The block of a rank at a step of an all-gather (R338): first element and length. -/
def ClRun.block (c : ClRun) (o : ClOp) (r : Nat) : Nat × Nat :=
  let seg := o.n / 2 ^ c.now.g
  let b := c.bit o
  (r / 2 ^ b * 2 ^ b * seg, 2 ^ b * seg)

/-- The elements that a step sends. -/
def ClRun.give (c : ClRun) (o : ClOp) : List (BitVec 32) :=
  if o.rs then let g := (c.halves o).2; (c.part.drop g.1).take (g.2 - g.1)
  else let b := c.block o c.now.me; (c.part.drop b.1).take b.2

/-- The sum of a pair in rank order (R337). -/
def clAdd (x y : BitVec 32) : BitVec 32 × Flags :=
  let r := sumRound .fp32 {} (Fmt.fp32.decode x.toNat) (Fmt.fp32.decode y.toNat)
  (BitVec.ofNat 32 r.1, r.2)

/-- The partial sums after a step's data (R337), with the flags. -/
def ClRun.combine (c : ClRun) (o : ClOp) (q : List (BitVec 32)) : List (BitVec 32) × Flags :=
  let k := (c.halves o).1
  let low := decide (c.now.me < c.partner o)
  let sums := (List.range (k.2 - k.1)).map (fun i =>
    let p := c.part.getD (k.1 + i) 0
    let x := q.getD i 0
    if low then clAdd p x else clAdd x p)
  (c.part.take k.1 ++ sums.map (fun e => e.1) ++ c.part.drop k.2, joinFlags (sums.map (fun e => e.2)))

/-- The elements in bytes of a width. -/
def eltBytes (w : Nat) (l : List (BitVec 32)) : List Byte := l.flatMap (fun x => toBytes w x.toNat)

/-- The elements of a source as FP32, widened exactly (R55), or as they stand. DESIGN CHOICE (log 70): an FP32 source is
taken bit for bit, since nothing is widened; a NaN among its elements is met by the first sum. -/
def clElts (o : ClOp) (b : List Byte) (widen : Bool) : List (BitVec 32) × Flags :=
  let raw := (List.range (b.length / o.width)).map (fun i => ofBytes ((b.drop (o.width * i)).take o.width))
  if widen && o.f == 1 then
    let vs := raw.map (fun x => convertF .fp32 {} (Fmt.bf16.decode x))
    (vs.map (fun v => BitVec.ofNat 32 v.1), joinFlags (vs.map (fun v => v.2)))
  else (raw.map (BitVec.ofNat 32), {})

/-- A list begins (R340): it claims its destinations and locks its local sources. -/
def State.clListStart (s : State) (j : Job) : State :=
  let l := j.cl.now
  let dst := l.ops.map (fun o => o.dstRange l.g)
  let src := l.ops.map (fun o => o.srcRange l.g)
  s.onceReady j dst src
    (s.beginLaunch { j with cl := { j.cl with opIdx := 0, step := 0, ready := false, sent := false, waited := 0, got := [] }
                            unitIdx := 0, fetched := [] } (s.claimsOf j dst) (s.rangesLocks j src))

/-- The destinations that the operations after the current one have still to write. -/
def Job.clLater (j : Job) : List (Int × Nat) := (j.cl.now.ops.drop (j.cl.opIdx + 1)).map (fun o => o.dstRange j.cl.now.g)

/-- An operation begins: its source is read; an all-gather writes its own segment (R337, R338). -/
def State.clOpStart (s : State) (j : Job) (o : ClOp) : State :=
  let l := j.cl.now
  let r := o.srcRange l.g
  match s.eRead j r.1 r.2 with
  | .error e => s.engErr j e
  | .ok b =>
    let es := clElts o b o.rs
    let c := { j.cl with lo := 0, hi := o.n, ready := false, sent := false, waited := 0, got := [] }
    if o.rs then s.putJob (({ j with cl := { c with part := es.1 } }.unitDone 1).raise es.2)
    else
      let seg := o.n / 2 ^ l.g
      s.emit { j with cl := { c with part := List.replicate (l.me * seg) 0 ++ es.1 ++ List.replicate (o.n - (l.me + 1) * seg) 0 } } 1
        (s.claimsOf j (o.outside l.g l.me 0 ++ j.clLater)) (cut (.va (o.dst + l.me * seg * o.width : Nat)) b)

/-- An operation is over. -/
def Job.clNext (j : Job) : Job := { j with cl := { j.cl with opIdx := j.cl.opIdx + 1, part := [] } }.unitDone 0

/-- An operation ends: a reduce-scatter writes its segment (R337). -/
def State.clOpEnd (s : State) (j : Job) (o : ClOp) : State :=
  if o.rs then s.emit j 2 (s.claimsOf j j.clLater) (cut (.va o.dst) (eltBytes 4 ((j.cl.part.drop j.cl.lo).take (j.cl.hi - j.cl.lo))))
  else s.putJob j.clNext

/-- The step is done (R340): P5 counts it. -/
def Job.clStepEnd (j : Job) (c : ClRun) : Job :=
  Job.setParam { j with cl := { c with step := c.step + 1, steps := c.steps + 1, ready := false, sent := false, waited := 0, got := [] } }
    5 (c.steps + 1)

/-- Every step of the current operation is done. -/
def ClRun.opDone (c : ClRun) : Bool := decide ((c.opIdx + 1) * c.now.g ≤ c.step)

/-- The elements of a packet of step data (the model's own, log 24). -/
def clPacket : Nat := 64

/-- A step's data leave in packets of clPacket elements (R339). -/
def State.clSendData (s : State) (j : Job) (o : ClOp) : State :=
  let d := j.cl.give o
  (List.range ((d.length + clPacket - 1) / clPacket)).foldl (fun s i =>
    s.clSend { j.clMsg o 1 ((d.drop (clPacket * i)).take clPacket) with off := clPacket * i }) s

/-- The job performs what its list allows now: an operation's beginning or end, the ready signal once the previous
writes are acknowledged, the data once the partner is ready (R339). The writes of a unit just made were those of an
operation's beginning (1), of its end (2) or of a step (3). -/
def State.clUnit (s : State) (j : Job) : State :=
  match j.out with
  | some (1, _) => s.putJob (j.unitDone 1)
  | some (2, _) => s.putJob j.clNext
  | some _ => s.putJob ((j.clStepEnd j.cl).unitDone 1)
  | none =>
    match j.cl.op with
    | none => s.putJob (if j.cl.list + 1 < j.cl.lists.length then { j with ph := .draining, locks := [] }
        else Job.done { j with cl := { j.cl with due := true } } 0)
    | some o =>
      if j.unitIdx = 0 then s.clOpStart j o
      else if j.cl.opDone then s.clOpEnd j o
      else if !j.cl.sent then
        if s.jobTraffic j then s
        else (s.putJob { j with cl := { j.cl with sent := true } }).clSend (j.clMsg o 0 [])
      else if j.cl.ready && j.cl.waited == 0 then
        (s.putJob { j with cl := { j.cl with waited := 1 } }).clSendData j o
      else s

/-- A job stopped within cl.go stands between two steps: a step whose ready signal has left is completed (R340, R373). -/
def Job.clResting (j : Job) : Bool :=
  match j.ph with
  | .start | .claiming => true
  | .active => !j.cl.sent && j.out.isNone
  | .draining => false

/-- The members of a list other than this one. -/
def ClList.others (l : ClList) : List Nat := (List.range l.grp.length).filter (fun r => r != l.me)

/-- A list is complete once its writes are acknowledged: its members are told, P6 counts it (R339, R340). The last list of
cl.go has ended its word with its last write (R257), and is complete when the job is. -/
def State.clListEnd (s : State) (j : Job) : State :=
  let l := j.cl.now
  let msg (r : Nat) : ClMsg :=
    { ctx := j.ctx, gid := l.gid, list := j.cl.list, step := 0, src := l.grp.getD l.me 0, dst := l.grp.getD r 0, kind := 2,
      params := [], data := [] }
  let j1 := Job.setParam { j with claims := [], want := [] } 6 (j.cl.list + 1)
  l.others.foldl (fun s r => s.clSend (msg r))
    (s.putJob { j1 with cl := { j1.cl with list := j.cl.list + 1, due := false }, ph := .start })

/-- Every member of the preceding list's group has completed that list (R339). -/
def Job.clMayBegin (j : Job) : Bool :=
  j.cl.list == 0 || (let l := j.cl.lists.getD (j.cl.list - 1) {}
    l.others.all (fun r => j.cl.listsDone.contains (j.cl.list - 1, l.grp.getD r 0)))

/-- A running collective job of the same context and id on the same die has performed cl.go (R336). -/
def State.clBusy (s : State) (j : Job) : Bool :=
  s.jobs.any (fun x => x.order != j.order && x.kind == 3 && x.st == .running && x.cl.went && x.ctx == j.ctx
    && dieOf x.lin == dieOf j.lin && x.cl.lists.any (fun l => l.hasGrp && j.cl.lists.any (fun m => m.hasGrp && m.gid == l.gid)))

/-- Signals of an earlier job of the same id do not count for this one. -/
def State.clPurge (s : State) (j : Job) : State :=
  let stale (m : ClMsg) : Bool := m.kind == 2 && m.ctx == j.ctx
    && (match j.cl.lists[m.list]? with
      | some l => l.hasGrp && l.gid == m.gid && l.grp.getD l.me 0 == m.dst && !l.steps.isEmpty && l.g != 0
      | none => false)
  { s with clMsgs := s.clMsgs.filter (fun m => !stale m) }

/-- cl.go ( -- ): performs every list in order (R335, R339, R340); P5 counts steps, P6 lists. -/
def execClGo (s : State) : Host.Outcome State Fault Refusal :=
  s.onLaunch 5 0 (fun j _ =>
    match j.ph with
    | .start =>
      if !j.cl.went then
        if s.clBusy j then s
        else (s.clPurge j).clListStart (({ j with cl := { j.cl with went := true, list := 0, steps := 0 } }.setParam 5 0).setParam 6 0)
      else if j.cl.due || decide (j.cl.lists.length ≤ j.cl.list) then s.putJob (j.fail 39)
      else if j.clMayBegin then s.clListStart j else s
    | .claiming => s
    | .active => s.clUnit j
    | .draining => if s.jobTraffic j then s else s.clListEnd j)

/-! ### The messages of partners (R339) -/

/-- The place of a message among those at hand that a job takes next. -/
def State.clFind (s : State) (j : Job) (kind : Nat) (p : ClMsg → Bool) : Option ClMsg :=
  s.clMsgs.find? (fun m => m.kind == kind && m.ctx == j.ctx && m.dst == s.member j
    && j.cl.lists.any (fun l => l.hasGrp && l.gid == m.gid && l.grp.contains m.src) && p m)

/-- A message for the job's current step from its partner. -/
def Job.clStepMsg (j : Job) (o : ClOp) (m : ClMsg) : Bool :=
  m.list == j.cl.list && m.step == j.cl.step && m.gid == j.cl.now.gid && m.src == j.cl.now.grp.getD (j.cl.partner o) 512

/-- CL_READY_SIGNAL: a partner's signal arrives: its completion of a list, or its readiness for the current step (R339). -/
def execClReadySignal (id : Nat) (s : State) : Host.Outcome State Fault Refusal :=
  match s.jobNo id with
  | none => .next s
  | some j =>
    if !j.live || !j.cl.went || (s.stopLin j.ctx j.lin && j.clResting) then .next s
    else match s.clFind j 2 (fun m => decide (j.cl.list ≤ m.list + 1)) with
    | some m => .next { s.putJob { j with cl := { j.cl with listsDone := j.cl.listsDone ++ [(m.list, m.src)] } } with clMsgs := s.clMsgs.erase m }
    | none =>
      match j.cl.op with
      | none => .next s
      | some o =>
        if j.ph != .active || j.unitIdx == 0 || j.cl.opDone || j.cl.ready then .next s
        else match s.clFind j 0 (j.clStepMsg o) with
        | none => .next s
        | some m => .next { s.putJob { j with cl := { j.cl with ready := true } } with clMsgs := s.clMsgs.erase m }

/-- The elements that a step waits for. -/
def ClRun.expects (c : ClRun) (o : ClOp) : Nat :=
  if o.rs then (c.halves o).1.2 - (c.halves o).1.1 else (c.block o (c.partner o)).2

/-- What has arrived of a step's data, in element order (R339). -/
def ClRun.data (c : ClRun) (o : ClOp) : List (BitVec 32) :=
  c.got.foldl (fun l g => l.take g.1 ++ g.2 ++ l.drop (g.1 + g.2.length)) (List.replicate (c.expects o) 0)

/-- The partner's data of a step are all there: they are combined, or written, and the step ends (R337-R340). -/
def State.clStepDone (s : State) (j : Job) (o : ClOp) : State :=
  let q := j.cl.data o
  if o.rs then
    let r := j.cl.combine o q
    let k := (j.cl.halves o).1
    s.putJob ((j.clStepEnd { j.cl with part := r.1, lo := k.1, hi := k.2 }).raise r.2)
  else
    let b := j.cl.block o (j.cl.partner o)
    s.emit { j with cl := { j.cl with part := j.cl.part.take b.1 ++ q ++ j.cl.part.drop (b.1 + b.2) } } 3
      (s.claimsOf j (o.outside j.cl.now.g j.cl.now.me (j.cl.bit o + 1) ++ j.clLater))
      (cut (.va (o.dst + b.1 * o.width : Nat)) (eltBytes o.width q))

/-- CL_STEP_DATA: a packet of the partner's data arrives, in whatever order; once as many elements are there as the step
has, it is completed (R339). -/
def execClStepData (id : Nat) (s : State) : Host.Outcome State Fault Refusal :=
  match s.jobNo id with
  | none => .next s
  | some j =>
    match j.cl.op with
    | none => .next s
    | some o =>
      if !j.live || !j.cl.went || j.ph != .active || j.unitIdx == 0 || j.cl.waited == 0 || j.out.isSome then .next s
      else match s.clFind j 1 (j.clStepMsg o) with
      | none => .next s
      | some m =>
        let s1 : State := { s with clMsgs := s.clMsgs.erase m }
        if m.params != (j.clMsg o 1 []).params then .next (s1.putJob (j.fail 37))
        else
          let j1 := { j with cl := { j.cl with got := j.cl.got ++ [(m.off, m.data)] } }
          if ((j1.cl.got.map (fun g => g.2.length)).sum) < j1.cl.expects o then .next (s1.putJob j1)
          else .next (s1.clStepDone j1 o)

/-- The job waits for a partner (R340). -/
def Job.clWaits (j : Job) : Bool :=
  j.cl.went && ((j.ph == .active && j.cl.sent && (!j.cl.ready || j.cl.waited == 1)) || (j.ph == .start && !j.clMayBegin))

/-- CL_PARTNER_TIMEOUT: a member that has waited past the node's budget from its start faults (R340). -/
def execClPartnerTimeout (id : Nat) (s : State) : Host.Outcome State Fault Refusal :=
  match s.jobNo id with
  | none => .next s
  | some j =>
    if j.live && j.clWaits && !(s.stopLin j.ctx j.lin && j.clResting) && j.budget0 != noBudget && decide (j.budget0 < j.usRun) then .next (s.putJob (j.fail 38)) else .next s

end Sys2Proof.Machine
end

