-- ==== Sys2Proof/Machine/EngCp.lean ====
section
/-! DEFINITION. The copy words (17 R329-R334). -/

namespace Sys2Proof.Machine

/-! ### Geometry (R329-R331) -/

/-- cp.dim ( ext sstr dstr -- ). -/
def execCpDim (s : State) : Host.Outcome State Fault Refusal :=
  s.setWord 3 3 (fun j o => do
    need (1 ≤ opn o 0 && decide (opn o 0 ≤ 2 ^ 32)) 13
    need (decide (j.dims.length < 16)) 34
    .ok { j with dims := j.dims ++ [{ ext := opn o 0, sstr := (o.getD 1 0).toInt, dstr := (o.getD 2 0).toInt }] })

/-- Whether a conversion accepts a format code (R331). -/
def cvtFmt (c : Nat) : Bool := (decide (2 ≤ c) && decide (c ≤ 5)) || (decide (7 ≤ c) && decide (c ≤ 11))

/-- cp.cvt ( f -- ) (R331). -/
def execCpCvt (s : State) : Host.Outcome State Fault Refusal :=
  s.setWord 3 1 (fun j o => do
    let f := opn o 0
    need (f / 2 ^ 12 % 2 ^ 20 == 0 && f / 256 % 4 != 3) 13
    need ((f % 16 == 0 && f / 16 % 16 == 0) || (cvtFmt (f % 16) && cvtFmt (f / 16 % 16))) 35
    .ok { j with cvt := f })

/-- cp.clr ( -- ). -/
def execCpClr (s : State) : Host.Outcome State Fault Refusal :=
  s.setWord 3 0 (fun j _ => .ok { j with dims := [], cvt := 0 })

/-! ### The elements of a launch (R329, R333) -/

/-- The launch words. -/
inductive CpKind where
  | go
  | fill
  | gath
  | scat
  deriving DecidableEq, Repr

/-- An element: its linear index, its two addresses, and whether its index entry skips it. -/
structure CpElt where
  lin : Nat
  src : Int
  dst : Int
  skip : Bool
  deriving DecidableEq, Repr

/-- The number of elements of a shape. -/
def cpTotal (ds : List CpDim) : Nat := ds.foldl (fun a d => a * d.ext) 1

/-- The offsets of an element in the inner dimensions (R329). -/
def cpOff : List CpDim → Nat → Int × Int
  | [], _ => (0, 0)
  | d :: r, lin =>
    let i : Int := (lin % d.ext : Nat)
    let x := cpOff r (lin / d.ext)
    (i * d.sstr + x.1, i * d.dstr + x.2)

/-- Element lin of a launch (R329, R333): for a gather or scatter the outermost coordinate of one side is the index. -/
def cpElt (kind : CpKind) (ds : List CpDim) (idx : List Nat) (src dst : Nat) (lin : Nat) : CpElt :=
  match kind, ds.getLast? with
  | .gath, some o | .scat, some o =>
    let inner := cpTotal ds.dropLast
    let io := lin / inner
    let x := idx.getD io 0
    let off := cpOff ds.dropLast (lin % inner)
    let si : Int := (if kind = .gath then x else io : Nat)
    let di : Int := (if kind = .gath then io else x : Nat)
    { lin := lin, src := src + off.1 + si * o.sstr, dst := dst + off.2 + di * o.dstr, skip := x == 0xFFFFFFFF }
  | _, _ =>
    let off := cpOff ds lin
    { lin := lin, src := src + off.1, dst := dst + off.2, skip := false }

/-- The element formats of the conversion in force (R331). -/
def Job.cpFmts (j : Job) (kind : CpKind) : Option (Elt × Elt) :=
  if kind = .fill ∨ j.cvt % 16 = 0 then none
  else match Elt.of (j.cvt % 16) (j.cvt / 2048 % 2 == 1), Elt.of (j.cvt / 16 % 16) (j.cvt / 2048 % 2 == 1) with
    | some a, some d => some (a, d)
    | _, _ => none

/-- Bytes of a destination element. -/
def Job.cpWidth (j : Job) (kind : CpKind) (esz : Nat) : Nat :=
  match j.cpFmts kind with
  | some (_, d) => d.w / 8
  | none => esz

/-- The operands of a launch word: source, or the fill's value; destination; element size; index list. -/
structure CpArgs where
  kind : CpKind
  src : Nat
  dst : Nat
  esz : Nat
  idx : Nat := 0
  deriving DecidableEq, Repr

/-- The least and greatest start of an element on a side: over the inner dimensions, and over the outermost coordinates
of the elements that are not skipped. -/
def sideSpan (base : Int) (inner : List (Nat × Int)) (outer : Option (Int × List Nat)) : Option (Int × Int) :=
  let lo := inner.foldl (fun (a : Int) d => a + min 0 (((d.1 - 1 : Nat) : Int) * d.2)) base
  let hi := inner.foldl (fun (a : Int) d => a + max 0 (((d.1 - 1 : Nat) : Int) * d.2)) base
  match outer with
  | none => some (lo, hi)
  | some (_, []) => none
  | some (str, x :: r) =>
    some (lo + r.foldl (fun (a : Int) (i : Nat) => min a ((i : Int) * str)) ((x : Int) * str),
      hi + r.foldl (fun (a : Int) (i : Nat) => max a ((i : Int) * str)) ((x : Int) * str))

/-- Whether both bounds of a side lie in the canonical address space (R330). -/
def sideOk (b : Option (Int × Int)) (w : Nat) : Bool :=
  match b with
  | none => true
  | some (lo, hi) => decide (0 ≤ lo) && decide (hi + w ≤ 2 ^ 64) && canonical (ofInt lo) && canonical (ofInt (hi + w - 1))

/-- The bounds of both sides (R330). -/
def Job.cpBoundsOk (j : Job) (a : CpArgs) (idx : List Nat) : Bool :=
  let indexed := a.kind == .gath || a.kind == .scat
  let inner := if indexed then j.dims.dropLast else j.dims
  let live := idx.zipIdx.filter (fun x => x.1 != 0xFFFFFFFF)
  let outer (str : CpDim → Int) (byIndex : Bool) : Option (Int × List Nat) :=
    if !indexed then none
    else match j.dims.getLast? with
      | none => none
      | some o => some (str o, live.map (fun x => if byIndex then x.1 else x.2))
  (a.kind == .fill || sideOk (sideSpan a.src (inner.map (fun d => (d.ext, d.sstr))) (outer CpDim.sstr (a.kind == .gath))) a.esz)
    && sideOk (sideSpan a.dst (inner.map (fun d => (d.ext, d.dstr))) (outer CpDim.dstr (a.kind == .scat))) (j.cpWidth a.kind a.esz)

/-- The checks of a launch word (R330, R331, R333): the fault code, or none. -/
def Job.cpCheck (j : Job) (a : CpArgs) : Option Nat :=
  let w := j.cpWidth a.kind a.esz
  let esz := if a.kind = .fill then [1, 2, 4, 8] else [1, 2, 4, 8, 16, 32, 64]
  if !esz.contains a.esz then some 13
  else if (a.kind = .gath ∨ a.kind = .scat) ∧ j.dims = [] then some 13
  else if a.kind != .fill && (a.src % a.esz != 0 || j.dims.any (fun d => d.sstr % a.esz != 0)) then some 13
  else if a.dst % w ≠ 0 || j.dims.any (fun d => d.dstr % w != 0) then some 13
  else if 2 ^ 48 < cpTotal j.dims ∨ a.idx % 4 ≠ 0 then some 13
  else match j.cpFmts a.kind with
    | some (f, _) => if f.w = 8 * a.esz then none else some 35
    | none => none

/-- The elements of a launch from one linear index on. -/
def Job.cpElts (j : Job) (a : CpArgs) (from_ n : Nat) : List CpElt :=
  (List.range n).map (fun i => cpElt a.kind j.dims j.idxs a.src a.dst (from_ + i))

/-- The elements of a launch from one linear index on that are not skipped. -/
def Job.cpLive (j : Job) (a : CpArgs) (from_ : Nat) : List CpElt := (j.cpElts a from_ (cpTotal j.dims - from_)).filter (fun e => !e.skip)

/-- The destination ranges of a launch from an element on. -/
def Job.cpDests (j : Job) (a : CpArgs) (from_ : Nat) : List (Int × Nat) :=
  (j.cpLive a from_).map (fun e => (e.dst, j.cpWidth a.kind a.esz))

/-- The source ranges of a launch from an element on. -/
def Job.cpSrcs (j : Job) (a : CpArgs) (from_ : Nat) : List (Int × Nat) :=
  if a.kind = .fill then [] else (j.cpLive a from_).map (fun e => (e.src, a.esz))

/-- The destination claims of a launch from an element on (R215, R334). -/
def State.cpClaims (s : State) (j : Job) (a : CpArgs) (from_ : Nat) : List ClaimKey := s.claimsOf j (j.cpDests a from_)

/-- The ranges of local memories of the own thicket that a launch still reads (R218, R332). -/
def State.cpLocks (s : State) (j : Job) (a : CpArgs) (from_ : Nat) : List (Nat × Nat × Nat) :=
  ((j.cpSrcs a from_).filterMap (fun e =>
    match s.ePlace j e.1 1 with
    | .ok (.loc (some m) off) => if j.ownThicket m then some (m, off, off + a.esz) else none
    | _ => none)).eraseDups

/-! ### Running a launch (R332-R334) -/

/-- What a launch writes for an element (R331, R332): the bytes and the flags. -/
def State.cpValue (s : State) (j : Job) (a : CpArgs) (e : CpElt) : Except EErr (List Byte × Flags) :=
  if e.skip then .ok ([], {})
  else if a.kind = .fill then .ok (toBytes a.esz a.src, {})
  else do
    let b ← s.eRead j e.src a.esz
    match j.cpFmts a.kind with
    | none => .ok (b, {})
    | some (f, d) =>
      let rnd := j.cvt / 256 % 4
      let r := d.conv { rm := if rnd = 2 then 4 else rnd, sat := j.cvt / 1024 % 2 == 1, seed := j.cvt / 2 ^ 32, idx := e.lin % 2 ^ 32 }
        (f.val (ofBytes b))
      .ok (toBytes (d.w / 8) r.1, r.2)

/-- The elements of a chunk read in order, up to the first that does not complete. -/
def State.cpReads (s : State) (j : Job) (a : CpArgs) : List CpElt → List (CpElt × List Byte × Flags) × Option EErr
  | [] => ([], none)
  | e :: r =>
    match s.cpValue j a e with
    | .error x => ([], some x)
    | .ok v => let t := State.cpReads s j a r; ((e, v) :: t.1, t.2)

/-- The skipped indices among the elements before a linear index (R334). -/
def Job.cpSkipped (j : Job) (k : Nat) : Nat :=
  let inner := cpTotal j.dims.dropLast
  (j.idxs.take ((k + inner - 1) / Nat.max 1 inner)).count 0xFFFFFFFF

/-- P5 and P6 once the elements before a linear index are completed (R334). -/
def Job.cpCount (j : Job) (a : CpArgs) (k : Nat) : Job :=
  let j1 := j.setParam 5 k
  if a.kind = .gath ∨ a.kind = .scat then j1.setParam 6 (j.cpSkipped k) else j1

/-- The writes of the elements of a chunk in order of lin, each with what P5 and P6 become. -/
def Job.cpOuts (j : Job) (a : CpArgs) (xs : List (CpElt × List Byte × Flags)) : List OutPiece :=
  xs.flatMap (fun x => cut (.va x.1.dst) x.2.1 (some (x.1.lin + 1))
    (if a.kind = .gath ∨ a.kind = .scat then some (j.cpSkipped (x.1.lin + 1)) else none))

/-- The elements of a chunk of 4,096 bytes (R334). -/
def cpChunk (esz : Nat) : Nat := 4096 / Nat.max 1 esz

/-- A chunk of a launch (R332, R334): its elements are read sector by sector, then written in order of lin; P5 counts the
elements completed, P6 the skipped indices passed. Elements before one that faults are written first. -/
def State.cpUnit (s : State) (j : Job) (a : CpArgs) : State :=
  let total := cpTotal j.dims
  match j.out with
  | some (k, _) => s.putJob { (j.cpCount a k).unitDone k with locks := s.cpLocks j a k }
  | none =>
    let rd := s.cpReads j a (j.cpElts a j.unitIdx (Nat.min (cpChunk a.esz) (total - j.unitIdx)))
    let k := j.unitIdx + rd.1.length
    match rd.2 with
    | some e => if e.retry || rd.1.isEmpty then s.engErr j e
        else s.emit (j.raise (joinFlags (rd.1.map (fun x => x.2.2)))) k (s.cpClaims j a k) (j.cpOuts a rd.1)
    | none => s.emit (j.raise (joinFlags (rd.1.map (fun x => x.2.2)))) k (s.cpClaims j a k) (j.cpOuts a rd.1)

/-- A launch word: checks, index list, bounds and claims, with P5 and P6 zero, then the chunks; it is finished once its last write is issued
(R257, R330-R334). -/
def State.cpLaunch (s : State) (pops : Nat) (args : List Word → CpArgs) : Host.Outcome State Fault Refusal :=
  s.onLaunch 3 pops (fun j o =>
    let a := args o
    match j.ph with
    | .start =>
      match j.cpCheck a with
      | some c => s.putJob (j.fail c)
      | none =>
        let indexed := a.kind = .gath ∨ a.kind = .scat
        let eo := if indexed then (match j.dims.getLast? with | some d => d.ext | none => 0) else 0
        match s.eRead j a.idx (4 * eo) with
        | .error e => s.engAsk j e
        | .ok b =>
          let idx := (List.range eo).map (fun i => ofBytes ((b.drop (4 * i)).take 4))
          if !j.cpBoundsOk a idx then s.putJob (j.fail 9)
          else
            let j1 := { j with idxs := idx }
            s.onceReady j1 (j1.cpDests a 0) (j1.cpSrcs a 0)
              (s.beginLaunch ({ j1 with fetched := [] }.cpCount a 0) (s.cpClaims j1 a 0) (s.cpLocks j1 a 0))
    | .active => if cpTotal j.dims ≤ j.unitIdx && j.out.isNone then s.putJob (j.done pops) else s.cpUnit j a
    | _ => s)

/-- cp.go ( src dst esz -- ): the dense copy. -/
def execCpGo (s : State) : Host.Outcome State Fault Refusal :=
  s.cpLaunch 3 (fun o => { kind := .go, src := opn o 0, dst := opn o 1, esz := opn o 2 })
/-- cp.fill ( dst val esz -- ): the low bytes of a value to every element. -/
def execCpFill (s : State) : Host.Outcome State Fault Refusal :=
  s.cpLaunch 3 (fun o => { kind := .fill, src := opn o 1, dst := opn o 0, esz := opn o 2 })
/-- cp.gath ( src dst esz idx -- ): the gather. -/
def execCpGath (s : State) : Host.Outcome State Fault Refusal :=
  s.cpLaunch 4 (fun o => { kind := .gath, src := opn o 0, dst := opn o 1, esz := opn o 2, idx := opn o 3 })
/-- cp.scat ( src dst esz idx -- ): the scatter. -/
def execCpScat (s : State) : Host.Outcome State Fault Refusal :=
  s.cpLaunch 4 (fun o => { kind := .scat, src := opn o 0, dst := opn o 1, esz := opn o 2, idx := opn o 3 })

end Sys2Proof.Machine
end

