-- ==== Sys2Proof/Machine/EngCtl.lean ====
section
/-! DEFINITION. The words of class 0 (13 R256-R258). -/

namespace Sys2Proof.Machine

/-- A word of class 0 that replaces its operands by results. -/
def State.stackWord (s : State) (pops pushes : Nat) (f : List Word → List Word) : Host.Outcome State Fault Refusal :=
  s.onWord 0 pops pushes (fun j ops => s.putJob { j with stack := (f ops).reverse ++ j.stack.drop pops }.advance)

/-- lit: push a 15-bit number (R256). -/
def execLit (n : BitVec 15) (s : State) : Host.Outcome State Fault Refusal := s.stackWord 0 1 (fun _ => [n.setWidth 64])
/-- ext: T := (T << 14) or n, mod 2^64 (R256). -/
def execExt (n : BitVec 14) (s : State) : Host.Outcome State Fault Refusal :=
  s.stackWord 1 1 (fun o => [(o.getD 0 0 <<< 14) ||| n.setWidth 64])
/-- nop. -/
def execEngNop (s : State) : Host.Outcome State Fault Refusal := s.stackWord 0 0 (fun _ => [])
/-- dup. -/
def execDup (s : State) : Host.Outcome State Fault Refusal := s.stackWord 1 2 (fun o => [o.getD 0 0, o.getD 0 0])
/-- drop. -/
def execDrop (s : State) : Host.Outcome State Fault Refusal := s.stackWord 1 0 (fun _ => [])
/-- swap. -/
def execEngSwap (s : State) : Host.Outcome State Fault Refusal := s.stackWord 2 2 (fun o => [o.getD 1 0, o.getD 0 0])
/-- over. -/
def execEngOver (s : State) : Host.Outcome State Fault Refusal := s.stackWord 2 3 (fun o => [o.getD 0 0, o.getD 1 0, o.getD 0 0])
/-- rot. -/
def execRot (s : State) : Host.Outcome State Fault Refusal := s.stackWord 3 3 (fun o => [o.getD 1 0, o.getD 2 0, o.getD 0 0])
/-- add. -/
def execEngAdd (s : State) : Host.Outcome State Fault Refusal := s.stackWord 2 1 (fun o => [o.getD 0 0 + o.getD 1 0])
/-- sub. -/
def execEngSub (s : State) : Host.Outcome State Fault Refusal := s.stackWord 2 1 (fun o => [o.getD 0 0 - o.getD 1 0])
/-- mul. -/
def execEngMul (s : State) : Host.Outcome State Fault Refusal := s.stackWord 2 1 (fun o => [o.getD 0 0 * o.getD 1 0])
/-- shl. -/
def execEngShl (s : State) : Host.Outcome State Fault Refusal := s.stackWord 2 1 (fun o => [o.getD 0 0 <<< ((o.getD 1 0).toNat % 64)])
/-- shr. -/
def execEngShr (s : State) : Host.Outcome State Fault Refusal := s.stackWord 2 1 (fun o => [o.getD 0 0 >>> ((o.getD 1 0).toNat % 64)])
/-- and. -/
def execEngAnd (s : State) : Host.Outcome State Fault Refusal := s.stackWord 2 1 (fun o => [o.getD 0 0 &&& o.getD 1 0])
/-- or. -/
def execEngOr (s : State) : Host.Outcome State Fault Refusal := s.stackWord 2 1 (fun o => [o.getD 0 0 ||| o.getD 1 0])

/-- ldp: push a parameter word. -/
def execLdp (s : State) : Host.Outcome State Fault Refusal :=
  s.onWord 0 1 1 (fun j ops => s.putJob { j with stack := j.param (opn ops 0 % 8) :: j.stack.drop 1 }.advance)

/-- stp: set a parameter word. -/
def execStp (s : State) : Host.Outcome State Fault Refusal :=
  s.onWord 0 2 0 (fun j ops => s.putJob { j with params := j.params.set (opn ops 1 % 8) (ops.getD 0 0), stack := j.stack.drop 2 }.advance)

/-- sig: once every write of the job is acknowledged, the signal notice (R247); of an ordered launch's job it waits for
the next round (R227). -/
def execSig (s : State) : Host.Outcome State Fault Refusal :=
  s.onWord 0 1 0 (fun j ops =>
    if s.jobTraffic j then s
    else (s.putJob (j.done 1)).jobNotice j (fld 60 15 ||| fld 32 (opn ops 0 % 2 ^ 28) ||| fld 0 j.id))

/-- skz: a zero skips the next word. -/
def execSkz (s : State) : Host.Outcome State Fault Refusal :=
  s.onWord 0 1 0 (fun j ops =>
    let j1 := j.done 1
    s.putJob (if ops.getD 0 0 = 0 then { j1 with ip := j1.ip + 1 } else j1))

/-- end: the job ends in state done; with rows open it faults with code 29, their choices are lost (R258, R315). -/
def execEnd (s : State) : Host.Outcome State Fault Refusal :=
  s.onWord 0 0 0 (fun j _ =>
    if j.rt.opens.isEmpty then s.putJob { j with pending := some 4, finished := true, stack := [] }
    else
      let lost := (j.rt.opens.map (fun t => t.defer.length)).sum
      let cs := j.rt.counts.set 6 (j.rt.counts.getD 6 0 + lost)
      s.putJob (Job.fail { j with rt := { j.rt with counts := cs } } 29))

end Sys2Proof.Machine
end

