-- ==== Sys2Proof/Machine/EngLg.lean ====
section
/-! DEFINITION. The look-ahead gate and expert region words (16 R320-R327). -/

namespace Sys2Proof.Machine

/-! ### The look-ahead gate (R324-R327) -/

/-- lg.gate ( g gstr ne d -- ) (R325). -/
def execLgGate (s : State) : Host.Outcome State Fault Refusal :=
  s.setWord 6 4 (fun j o => do
    need (canonical (o.getD 0 0) && opn o 0 % 2 == 0 && opn o 1 % 2 == 0 && 1 ≤ opn o 2 && opn o 2 ≤ 4096 && 1 ≤ opn o 3
      && decide (opn o 3 ≤ 16384)) 13
    .ok { j with gate := some (opn o 0, opn o 1, opn o 2, opn o 3) })

/-- The score of a token for an expert (R326): the rounded sum of exact products. -/
def gateScore (d : Nat) (x g : List Byte) : Nat × Flags :=
  let l := mmDot (.flt .bf16) (.flt .bf16) 0 d (.fin 0) x g [] []
  let r := laRoundF l.1 .fp32 {}
  (r.1, l.2.or r.2)

/-- The k highest scores, equal ones by lower expert number (R326, R58). -/
def topExperts (k : Nat) (ss : List Nat) : List Nat :=
  let rank (x : Nat) : Int := (Elt.flt .fp32).rank x
  ((sortBy (fun a b => decide (rank b.1 < rank a.1) || (rank a.1 == rank b.1 && decide (a.2 < b.2))) ss.zipIdx).take k).map (fun x => x.2)

/-- A token of lg.run: its experts are counted. -/
def State.lgToken (s : State) (j : Job) (o : List Word) (g gstr ne d : Nat) : State :=
  match s.eRead j ((opn o 0 + j.unitIdx * opn o 1 : Nat) : Int) (2 * d) with
  | .error e => s.engErr j e
  | .ok x =>
    match (List.range ne).mapM (fun e => s.eRead j ((g + e * gstr : Nat) : Int) (2 * d)) with
    | .error e => s.engErr j e
    | .ok cols =>
      let ss := cols.map (gateScore d x)
      let top := topExperts (opn o 3) (ss.map (fun v => v.1))
      let counts := j.idxs.zipIdx.map (fun c => if top.contains c.2 then c.1 + 1 else c.1)
      s.putJob (({ j with idxs := counts, unitIdx := j.unitIdx + 1, fetched := [] } : Job).raise (joinFlags (ss.map (fun v => v.2))))

/-- The sources of lg.run from a token on: the rows of the tokens, and the columns of the gate (R325). -/
def Job.lgSources (j : Job) (o : List Word) (from_ : Nat) : List (Int × Nat) :=
  match j.gate with
  | none => []
  | some (g, gstr, ne, d) =>
    let toks := (List.range (opn o 2)).filter (fun t => decide (from_ ≤ t))
    toks.map (fun t => (((opn o 0 + t * opn o 1 : Nat) : Int), 2 * d))
      ++ (if toks.isEmpty then [] else (List.range ne).map (fun e => (((g + e * gstr : Nat) : Int), 2 * d)))

/-- lg.run ( x xstr ntok k cnt -- ) (R325, R326). -/
def execLgRun (s : State) : Host.Outcome State Fault Refusal :=
  s.onLaunch 6 5 (fun j o =>
    match j.gate with
    | none => s.putJob (j.fail 30)
    | some (g, gstr, ne, d) =>
      if !(opn o 0 % 2 == 0 && opn o 1 % 2 == 0 && 1 ≤ opn o 2 && opn o 2 ≤ 65536 && 1 ≤ opn o 3 && opn o 3 ≤ Nat.min 8 ne
          && canonical (o.getD 4 0) && opn o 4 % 4 == 0) then s.putJob (j.fail 13)
      else match j.ph with
      | .start =>
        s.onceReady j [((opn o 4 : Nat), 4 * ne)] (j.lgSources o 0)
          (s.beginLaunch { j with idxs := List.replicate ne 0, fetched := [] } (s.claimsOf j [((opn o 4 : Nat), 4 * ne)])
            (s.rangesLocks j (j.lgSources o 0)))
      | .claiming => s
      | .active =>
        (match j.out with
        | some _ => s.putJob (j.done 5)
        | none =>
          if j.unitIdx < opn o 2 then s.lgToken j o g gstr ne d
          else s.emit j 0 [] (cut (.va (opn o 4 : Nat)) (j.idxs.flatMap (toBytes 4))))
      | .draining => s)

/-- Request the lines of a region as pf does (R205, R322, R327): a line that fails its checks is left out; of another
package the request goes there. The callers see to it that no line awaits its translation. -/
def State.pfRegion (s : State) (j : Job) (base size : Nat) : State :=
  (List.range (256 * size)).foldl (fun s i =>
    match s.resolve (hedgeOf j.core) j.ctx j.sys ((base + 256 * i : Nat) : Int) 1 1 with
    | .ok (.dev pa pol) _ => if pol % 4 = 2 then s else (List.range 4).foldl (fun s k => s.fillSector (pa / 256 * 4 + k) pol) s
    | .ok (.remote pk false) _ =>
      (s.post { src := j.source s, home := .remote pk, space := .remote pk, va := BitVec.ofNat 64 (base + 256 * i), kind := .pf }).2
    | _ => s) s

/-- The entry of an expert is one that lg.pf acts on (R327). -/
def State.lgActs (s : State) (j : Job) (e : Nat) : Bool :=
  let x := s.regions.get {} e
  decide (e < 4096) && x.state == 1 && x.ctx == j.ctx && x.pol == 2

/-- lg.pf of one expert (R327). -/
def State.lgPrefetch (s : State) (j : Job) (e : Nat) : State :=
  let x := s.regions.get {} e
  if !s.lgActs j e then s
  else
    let d := dieOf j.core
    let s1 := s.pfRegion j (s.pinCopy x d).2 x.size
    let s2 : State := { s1 with regions := s1.regions.set e { x with pred := true } }
    s2.modDie d (fun y => { y with lgPf := Nat.min (y.lgPf + 1) 0xFFFFFFFF })

/-- lg.pf ( cnt thr -- ) (R327): without lg.gate there are no experts to look at. -/
def execLgPf (s : State) : Host.Outcome State Fault Refusal :=
  s.onWord 6 2 0 (fun j o =>
    if opn o 1 = 0 ∨ 2 ^ 32 ≤ opn o 1 then s.putJob (j.fail 13)
    else
      let ne := match j.gate with | some (_, _, ne, _) => ne | none => 0
      match s.eRead j ((opn o 0 : Nat) : Int) (4 * ne) with
      | .error e => s.engErr j e
      | .ok b =>
        let hot := (List.range ne).filter (fun e => decide (opn o 1 ≤ ofBytes ((b.drop (4 * e)).take 4)))
        let s1 := s.modDie (dieOf j.core) (fun y => { y with lgPfCount := y.lgPfCount + 1 })
        match s.awaited j 1 ((hot.filter (s.lgActs j)).map (fun e =>
            let x := s.regions.get {} e
            ((((s.pinCopy x (dieOf j.core)).2 : Nat) : Int), 65536 * x.size))) with
        | some e => s.engErr j e
        | none => (hot.foldl (fun s e => s.lgPrefetch j e) s1).putJob (j.done 2))

/-! ### The expert region table (R320-R323) -/

/-- ex.set ( e base size pol -- ) (R322). -/
def execExSet (s : State) : Host.Outcome State Fault Refusal :=
  s.onWord 7 4 0 (fun j o =>
    let e := opn o 0
    let x := s.regions.get {} e
    if !j.sys then s.putJob (j.fail 11)
    else if !(e < 4096 && canonical (o.getD 1 0) && opn o 1 % 65536 == 0 && opn o 2 ≤ 2 ^ 20 && decide (opn o 3 ≤ 2)) then s.putJob (j.fail 13)
    else if 0 < x.pins then s.putJob (j.fail 33)
    else if opn o 2 = 0 then { s.putJob (j.done 4) with regions := s.regions.set e { x with state := 0 } }
    else
      let y : Region := { base := opn o 1, size := opn o 2, pol := opn o 3, ctx := j.ctx, state := 1 }
      let s1 : State := { s with regions := s.regions.set e y }
      match (if opn o 3 = 0 then s.awaited j 1 [((y.base : Int), 65536 * y.size)] else none) with
      | some e => s.engErr j e
      | none => (if opn o 3 = 0 then s1.pfRegion j y.base y.size else s1).putJob (j.done 4))

/-- ex.pin ( e -- addr path ) (R321, R322). -/
def execExPin (s : State) : Host.Outcome State Fault Refusal :=
  s.onWord 7 1 2 (fun j o =>
    match s.pin j (opn o 0) with
    | (.noRegion, _) => s.putJob (j.fail 32)
    | (.wait, _) => s
    | (.ok p a, s1) =>
      s1.putJob (Job.advance { j with pins := (opn o 0, p, a) :: j.pins, stack := BitVec.ofNat 64 p :: BitVec.ofNat 64 a :: j.stack.drop 1 }))

/-- ex.rep ( e j addr -- ) (R322). -/
def execExRep (s : State) : Host.Outcome State Fault Refusal :=
  s.onWord 7 3 0 (fun j o =>
    let e := opn o 0
    let x := s.regions.get {} e
    if !j.sys then s.putJob (j.fail 11)
    else if !(opn o 1 < 4 && (opn o 2 == 0 || (canonical (o.getD 2 0) && opn o 2 % 65536 == 0))) then s.putJob (j.fail 13)
    else if 4096 ≤ e ∨ x.state = 0 then s.putJob (j.fail 32)
    else { s.putJob (j.done 3) with regions := s.regions.set e { x with reps := x.reps.set (opn o 1) (opn o 2) } })

/-- ex.evict ( e -- ) (R322, R323): phase 1; the word then waits for phase 2. -/
def execExEvict (s : State) : Host.Outcome State Fault Refusal :=
  s.onWord 7 1 0 (fun j o =>
    let e := opn o 0
    let x := s.regions.get {} e
    if !j.sys then s.putJob (j.fail 11)
    else match j.ph with
    | .start =>
      if 4096 ≤ e ∨ x.state = 0 then s.putJob (j.fail 32)
      else
        let own := (j.pins.filter (fun p => p.1 == e)).length
        { s.putJob { j with pins := j.pins.filter (fun p => p.1 != e), ph := .draining }
          with regions := s.regions.set e { x with state := 2, pins := x.pins - own } }
    | _ => s)

/-- Write back and free the cached lines of a copy of a context's region (R323). -/
def State.evictCopy (s : State) (ctx base size : Nat) : State :=
  (List.range (256 * size)).foldl (fun s i =>
    match s.walk ctx (BitVec.ofNat 64 (base + 256 * i)) with
    | .ok e =>
      let pa := e.frame + (base + 256 * i) % e.size
      if devTop ≤ pa then s
      else (List.range 4).foldl (fun s k => if s.llc.has (pa / 256 * 4 + k) then s.evictSector (pa / 256 * 4 + k) else s) s
    | _ => s) s

/-- EVICT_PHASE_TWO: once the region's pins reach zero its lines are written back and freed, it streams, and the word
of ex.evict ends (R323). -/
def execEvictPhaseTwo (id : Nat) (s : State) : Host.Outcome State Fault Refusal :=
  match s.jobNo id with
  | none => .next s
  | some j =>
    let e := ((j.stack.headD 0).toNat)
    let x := s.regions.get {} e
    if !j.live || s.stopLin j.ctx j.lin || (j.prog.getD j.ip 0) != 0x1C02 || j.ph != .draining || x.pins ≠ 0 then .next s
    else
      let s1 := s.evictCopy x.ctx x.base x.size
      let s2 := (List.range 4).foldl (fun s i => if x.reps.get 0 i = 0 then s else s.evictCopy x.ctx (x.reps.get 0 i) x.size) s1
      .next { s2.putJob (j.done 1) with regions := s2.regions.set e { x with pol := 1, state := 1 } }

end Sys2Proof.Machine
end

