-- ==== Sys2Proof/Machine/EngRt.lean ====
section
/-! DEFINITION. The router words (16 R306-R319). -/

namespace Sys2Proof.Machine

/-! ### Registers (R308, R309) -/

/-- rt.cfg ( pol res -- ). -/
def execRtCfg (s : State) : Host.Outcome State Fault Refusal :=
  s.setWord 4 2 (fun j o => do
    let p := opn o 0
    need (p < 256 && 1 ≤ p / 16 && p / 16 ≤ 8 && decide (opn o 1 ≤ 0xFFFF)) 13
    .ok { j with rt := { j.rt with cfg := true, pol := p, res := opn o 1 } })

/-- rt.bind ( tab nexp -- ). -/
def execRtBind (s : State) : Host.Outcome State Fault Refusal :=
  s.setWord 4 2 (fun j o => do
    need (canonical (o.getD 0 0) && opn o 0 % 64 == 0 && 1 ≤ opn o 1 && decide (opn o 1 ≤ 65535)) 13
    .ok { j with rt := { j.rt with bound := true, tab := opn o 0, nexp := opn o 1 } })

/-- The checks of rt.cap, rt.run and rt.emit in their order (R308, R328): the binding, the residual list, the limits. -/
def Job.rtCheck (j : Job) (limits : Bool) : Option Nat :=
  if !(j.rt.cfg && j.rt.bound) then some 27
  else if j.rt.res ≠ 0xFFFF ∧ j.rt.nexp ≤ j.rt.res then some 13
  else if limits then none else some 13

/-- A word that needs the binding. -/
def State.rtWord (s : State) (pops : Nat) (limits : Job → List Word → Bool) (f : Job → List Word → State) : Host.Outcome State Fault Refusal :=
  s.onLaunch 4 pops (fun j o => match j.rtCheck (limits j o) with
    | some c => s.putJob (j.fail c)
    | none => f j o)

/-! ### Accesses of the router (R310, R312, R315) -/

/-- The packet of an atomic on a header or notify word, performed at its home (R312, R315). -/
def State.rtAtomic (s : State) (j : Job) (pkg : Option Nat) (va op n : Nat) (nr : Bool) : Except EErr Packet := do
  let pl ← s.rtPlace j pkg va 3
  let w := BitVec.ofNat 64 va
  let p : Packet := { cls := 0, src := j.source s, cnt := j.ip, home := pl.home, space := pl.space, va := w, loc := pl.addr w, pol := pl.pol,
                      kind := .amo op 1 (BitVec.ofNat 128 n) 0 nr }
  match pl with
  | .loc none _ => .error (.window 4096)
  | .host _ => if op = 10 then .error (.fault 11) else .ok p
  | _ => .ok p

/-- The old word of amo.incb.d on a header, once it has been answered (R199, R312). -/
def State.rtIncb (s : State) (j : Job) (pkg : Option Nat) (va n : Nat) : Except EErr Nat :=
  match j.fetched.find? (fun f => f.1 == 1 && f.2.1 == va) with
  | some f => .ok (f.2.2.toNat % 2 ^ 64)
  | none =>
    match s.rtAtomic j pkg va 10 n false with
    | .error e => .error e
    | .ok p => .error (.ask p)

/-- The answer of an atomic has been used. -/
def Job.rtTake (j : Job) (va : Nat) : Job := { j with fetched := (j.fetched.eraseP (fun f => f.1 == 1 && f.2.1 == va)) }

/-- The units that a header's old word grants of n (R199). -/
def granted (old n : Nat) : Nat := Nat.min n (old / 2 ^ 32 - old % 2 ^ 32)

/-! ### Descriptors (R306) -/

/-- Whether a descriptor is malformed (R306). -/
def descBad (d : List Word) (nexp : Nat) : Bool :=
  let w (i : Nat) : Word := d.getD i 0
  bits (w 5) 63 40 != 0 || w 6 != 0 || w 7 != 0 || (w 2).toNat % 16 != 0 || (w 4).toNat % 64 != 0 || bits (w 5) 31 0 % 64 != 0
    || (List.range 4).any (fun i => let r := bits (w 3) (16 * i + 15) (16 * i); r != 0xFFFF && decide (nexp ≤ r))

/-- The address of a descriptor's header (R306). -/
def Job.hdrAt (j : Job) (e : Nat) : Nat := j.rt.tab + 64 * e

/-- The descriptor of an expert, read at its first use in the job and kept for the rest of it (R306). -/
def State.rtDesc (s : State) (j : Job) (e : Nat) : Except EErr (List Word × Job) :=
  match j.rt.descs.find? (fun d => d.1 == j.hdrAt e) with
  | some d => .ok (d.2, j)
  | none => do
    let b ← s.eRead j ((j.hdrAt e : Nat) : Int) 64
    let d := (List.range 8).map (fun i => BitVec.ofNat 64 (ofBytes ((b.drop (8 * i)).take 8)))
    if descBad d j.rt.nexp then .error (.fault 28)
    else .ok (d, { j with rt := { j.rt with descs := j.rt.descs.set (j.hdrAt e) d }, fetched := j.fetched.filter (fun f => f.1 == 1) })

/-- The package of a descriptor's list, if it lies on another one (R306). -/
def descPkg (d : List Word) : Option Nat := if (d.getD 5 0).getLsbD 39 then some (bits (d.getD 5 0) 38 32) else none

/-! ### The walk of a row (R311-R314) -/

/-- Add to a count of R318. -/
def Job.rtCount (j : Job) (i n : Nat) : Job := { j with rt := { j.rt with counts := j.rt.counts.set i (j.rt.counts.getD i 0 + n) } }

/-- The policy tries entries beyond the first k. -/
def RtRun.next (r : RtRun) : Bool := r.pol % 2 == 1
/-- The policy tries replicas. -/
def RtRun.replica (r : RtRun) : Bool := r.pol / 2 % 2 == 1
/-- The number of choices per row. -/
def RtRun.k (r : RtRun) : Nat := r.pol / 16

/-- The non-sentinel entries of a row with their positions. -/
def RtThread.cs (t : RtThread) : List (Nat × BitVec 128) := (t.entries.zipIdx.filter (fun e => entExpert e.1 != 0xFFFF)).map (fun e => (e.2, e.1))

/-- The walk tries another entry (R312). -/
def RtThread.goes (t : RtThread) (r : RtRun) : Bool :=
  decide (0 < t.need) && decide (t.i < t.cs.length) && (r.next || decide (t.i < r.k))

/-- A header's units that run out fill a bin of its expert: it is counted for the hints of R424. -/
def State.binFilled (s : State) (e old n : Nat) : State :=
  if granted old n ≠ 0 ∧ old % 2 ^ 32 + granted old n = old / 2 ^ 32 then
    s.modPkg (fun p => { p with fills := p.fills.set e (p.fills.get 0 e + 1) })
  else s

/-- What a step of a binning thread makes: the state, the job, the thread, or what stops it. -/
structure RtOut where
  s : State
  j : Job
  t : RtThread
  err : Option EErr := none

/-- The walk leaves entry i with an outcome and goes to the next (R312, R314). -/
def RtThread.leave (t : RtThread) (pos out rep : Nat) (rem : Bool) : RtThread :=
  { t with i := t.i + 1, cand := 0, outs := t.outs ++ [(pos, out, rep, rem)] }

/-- The entry is neither admitted nor deferred: the first such is remembered (R312). -/
def RtThread.miss (t : RtThread) (pos : Nat) : RtThread := { t with refused := match t.refused with | some x => some x | none => some pos }

/-- The candidates of a choice, each as expert + 65536 · (0 primary, r + 1 replica r) (R312). -/
def rtCands (r : RtRun) (e : Nat) (d : List Word) : List Nat :=
  e :: (if r.replica then (List.range 4).filterMap (fun i =>
    let x := bits (d.getD 3 0) (16 * i + 15) (16 * i)
    if x = 0xFFFF then none else some (x + 65536 * (i + 1))) else [])

/-- The mark of a deferred choice that its target has refused and that goes on with its other candidates. -/
def rtAgain : Nat := 65536 * 10

/-- Try one candidate of the choice at a position; refuse runs when none is left (R312). -/
def State.rtTry (s : State) (j : Job) (t : RtThread) (pos : Nat) (cands : List Nat)
    (admitTo defer next refuse : Job → RtThread → RtThread × Job) (keep : RtThread → Nat × Nat → RtThread) : RtOut :=
  match cands with
  | [] => let r := refuse j t; { s := s, j := r.2, t := r.1 }
  | c :: _ =>
    match s.rtDesc j (c % 65536) with
    | .error e => { s := s, j := j, t := t, err := some e }
    | .ok (d, j1) =>
      if (descPkg d).isSome then let r := defer j1 t; { s := s, j := r.2, t := r.1 }
      else match s.rtIncb j1 none (j.hdrAt (c % 65536)) 1 with
      | .error e => { s := s, j := j1, t := t, err := some e }
      | .ok old =>
        let j2 := j1.rtTake (j.hdrAt (c % 65536))
        if granted old 1 = 1 then
          let r := admitTo j2 t
          { s := s.binFilled (c % 65536) old 1, j := r.2.rtCount 2 1, t := keep { r.1 with adm := r.1.adm ++ [(pos, c % 65536, old % 2 ^ 32, false)] } (pos, c / 65536) }
        else let r := next j2 t; { s := s, j := r.2, t := r.1 }

/-- One step of the loop of R312 at entry i. -/
def State.rtPlaceStep (s : State) (j : Job) (t : RtThread) : RtOut :=
  match t.cs[t.i]? with
  | none => { s := s, j := j, t := t }
  | some (pos, x) =>
    let e := entExpert x
    if t.cand = 0 ∧ (j.rt.nexp ≤ e ∨ e = j.rt.res) then { s := s, j := j.rtCount 8 1, t := (t.miss pos).leave pos 3 0 false }
    else match s.rtDesc j e with
    | .error er => { s := s, j := j, t := t, err := some er }
    | .ok (d, j0) =>
      let cands := (rtCands j.rt e d).drop t.cand
      s.rtTry j0 t pos cands
        (fun j t => ({ t with need := t.need - 1 }, j))
        (fun j t => ({ t with need := t.need - 1, i := t.i + 1, cand := 0, defer := t.defer ++ [(pos, cands)] }, j))
        (fun j t => ({ t with cand := t.cand + 1 }, j))
        (fun j t => ((t.miss pos).leave pos 2 0 false, j.rtCount 4 1))
        (fun t p => t.leave p.1 1 p.2 false)

/-- A step of a choice that its remote target has refused (R317). -/
def State.rtAgainStep (s : State) (j : Job) (t : RtThread) (pos : Nat) (rest : List Nat) : RtOut :=
  let others := t.defer.filter (fun d => d.1 != pos)
  s.rtTry j t pos rest
    (fun j t => ({ t with defer := others }, j))
    (fun j t => ({ t with defer := others ++ [(pos, rest)] }, j))
    (fun j t => ({ t with defer := others ++ [(pos, rtAgain :: rest.tail)] }, j))
    (fun j t => ({ (t.miss pos) with defer := others, need := t.need + 1, outs := t.outs ++ [(pos, 2, 0, false)] }, j.rtCount 4 1))
    (fun t p => { t with outs := t.outs ++ [(p.1, 1, p.2, false)] })

/-- The choice of a row that goes on after a refusal. -/
def RtThread.again (t : RtThread) : Option (Nat × List Nat) :=
  (t.defer.find? (fun d => d.2.headD 0 == rtAgain)).map (fun d => (d.1, d.2.tail))

/-- The core and the mailbox row of a hedge row (R311). -/
def Job.rtCore (j : Job) (h : Nat) : Nat := coreIn (hedgeOf j.core) (h / 64)

/-- An index entry (R307). -/
def State.indexEntry (s : State) (j : Job) (h token score rk need : Nat) : List Byte :=
  toBytes 4 token ++ toBytes 4 score ++ toBytes 2 (coreIn (hedgeOf j.lin) (h / 64)) ++ toBytes 1 s.pkgNo ++ toBytes 1 rk
    ++ toBytes 2 (h % 64) ++ toBytes 2 need

/-- The exact sum of scores as an integer and an exponent; none where one is a NaN or an infinity. -/
def sumScores : List Nat → Option (Int × Int)
  | [] => some (0, 0)
  | x :: r =>
    match Fmt.decode .fp32 x, sumScores r with
    | .fin n m e, some (a, ea) =>
      let b : Int := if n then -(m : Int) else m
      if e ≤ ea then some (b + a * 2 ^ (ea - e).toNat, e) else some (b * 2 ^ (e - ea).toNat + a, ea)
    | _, _ => none

/-- The weights of a row's admitted choices (R313): with renorm each score over the sum, rounded. -/
def rtWeights (renorm : Bool) (scores : List Nat) : List Nat × Flags :=
  if !renorm || scores.isEmpty then (scores, {})
  else match sumScores scores with
  | some (sum, es) =>
    if sum = 0 then (scores.map (fun _ => 0x7FC00000), { nv := true })
    else
      let one (x : Nat) : Nat × Flags := match Fmt.decode .fp32 x with
        | .fin n m e => if m = 0 then (0, {}) else roundQ .fp32 {} (n != decide (sum < 0)) m sum.natAbs (e - es)
        | _ => (0x7FC00000, {})
      let rs := scores.map one
      (rs.map (fun r => r.1), joinFlags (rs.map (fun r => r.2)))
  | none => (scores.map (fun _ => 0x7FC00000), { nv := true })

/-- The write-back of a row (R314): flags and weight of each entry that was read, in place. -/
def State.rtMark (s : State) (j : Job) (t : RtThread) (h : Nat) (weights : List (Nat × Nat)) : State :=
  let n := j.rtCore h
  let c := s.coreAt n
  (List.range t.entries.length).foldl (fun s p =>
    let o := (t.outs.find? (fun o => o.1 == p)).map (fun o => o.2)
    let f := match o with | some (out, rep, rem) => out * 2 ^ 14 + rep * 2 ^ 11 + (if rem then 2 ^ 10 else 0) | none => 0
    let a := c.entryAt (h % 64) p
    let old := c.lmem.num (a + 6) 2
    let w := ((weights.find? (fun w => w.1 == p)).map (fun w => w.2)).getD 0
    (s.poke n (a + 6) (toBytes 2 (f + old % 1024))).poke n (a + 12) (toBytes 4 w)) s

/-- The residual entry of a row takes its slot, or is lost (R312). -/
def State.rtResidual (s : State) (j : Job) (t : RtThread) : RtOut :=
  let lost : RtOut := { s := s, j := j.rtCount 6 1, t := { t with cand := 1 } }
  if j.rt.res = 0xFFFF then lost
  else match s.rtDesc j j.rt.res with
  | .error e => { s := s, j := j, t := t, err := some e }
  | .ok (d, j1) =>
    match s.rtIncb j1 (descPkg d) (j.hdrAt j.rt.res) 1 with
    | .error e => { s := s, j := j1, t := t, err := some e }
    | .ok old =>
      let j2 := j1.rtTake (j.hdrAt j.rt.res)
      if granted old 1 = 1 then
        { s := s.binFilled j.rt.res old 1, j := j2.rtCount 5 1, t := { t with cand := 1, adm := t.adm ++ [(100, j.rt.res, old % 2 ^ 32, (descPkg d).isSome)] } }
      else { lost with j := j2.rtCount 6 1 }

/-- A row is settled (R312-R314): the residual entry, then the index entries one write after the other, then the write-back;
the thread is free. -/
def State.rtSettle (s : State) (j : Job) (t : RtThread) (h : Nat) : RtOut :=
  if 0 < t.need ∧ t.cand = 0 then s.rtResidual j t
  else
    let ent (p : Nat) : BitVec 128 := t.entries.getD p 0
    let score (p : Nat) : Nat := entScore (ent p)
    let chosen := t.adm.filter (fun a => a.1 != 100)
    let w := rtWeights (j.rt.pol / 4 % 2 == 1) (chosen.map (fun a => score a.1))
    let weights := (chosen.zip w.1).map (fun x => (x.1.1, x.2))
    let entry (a : Nat × Nat × Nat × Bool) : OutTo × List Byte :=
      let d := j.rt.descs.get [] (j.hdrAt a.2.1)
      let rep := ((t.outs.find? (fun o => o.1 == a.1)).map (fun o => o.2.2.1)).getD 0
      (.list (descPkg d) ((d.getD 2 0).toNat + 16 * a.2.2.1),
        if a.1 = 100 then
          s.indexEntry j h (entToken ((t.cs.map (fun c => c.2)).headD 0)) (match t.refused with | some p => score p | none => 0xFF800000) 32 t.need
        else
          s.indexEntry j h (entToken (ent a.1)) (((weights.find? (fun x => x.1 == a.1)).map (fun x => x.2)).getD 0)
            (a.1 + (if rep = 0 then 0 else 16)) 0)
    if !t.sent then { s := s, j := { j with out := some (0, cuts (t.adm.map entry)) }, t := { t with sent := true } }
    else
      let n := j.rtCore h
      let c := s.coreAt n
      let j1 := Job.raise { j with out := none } w.2
      let free := { t with row := none, outs := [], adm := [], defer := [], entries := [], sent := false }
      if j.rt.pol / 8 % 2 = 0 then { s := s, j := j1, t := free }
      else if !c.mben || bits (c.rows.get 0 (h % 64)) 63 48 != t.arr then { s := s, j := j1.rtCount 7 1, t := free }
      else if s.homeClaimed (.core n) (c.entryAt (h % 64) 0) (16 * t.entries.length) true then { s := s, j := j, t := t, err := some .wait }
      else { s := (s.rtMark j t h weights).wrote 0 (.core n) (c.entryAt (h % 64) 0 / 64 * 64), j := j1, t := free }

/-- A binning thread takes its next row (R311). -/
def State.rtTakeRow (s : State) (j : Job) (t : RtThread) (h : Nat) : RtOut :=
  let n := j.rtCore h
  let c := s.coreAt n
  let w := c.rows.get 0 (h % 64)
  let rest := { t with rows := t.rows.tail }
  if !c.mben then { s := s, j := (j.rtCount 0 1).rtCount 1 1, t := rest }
  else if j.rt.mode % 2 = 1 ∧ !w.getLsbD 0 ∧ bits w 47 32 ≠ 0 then { s := s, j := j, t := t, err := some .wait }
  else if s.isBad 0 n (c.entryAt (h % 64) 0) (16 * c.mbdepth) then { s := s, j := j, t := t, err := some (.bad (.core n) (c.entryAt (h % 64) 0)) }
  else
    let j1 := if w.getLsbD 0 then j.rtCount 0 1 else (j.rtCount 0 1).rtCount 1 1
    let t1 := { rest with row := some h, arr := bits w 63 48, entries := c.rowEntries (h % 64), need := j.rt.k, i := 0, cand := 0,
                          refused := none, adm := [], outs := [], defer := [] }
    { s := s, j := j1, t := if t1.cs.isEmpty then rest else t1 }

/-- One step of a thread that has or takes a row; an open row is left to rt.emit. -/
def State.rtThreadStep (s : State) (j : Job) (t : RtThread) : RtOut :=
  match t.row with
  | none => (match t.rows with
    | [] => { s := s, j := j, t := t }
    | h :: _ => s.rtTakeRow j t h)
  | some h =>
    match t.again with
    | some (pos, rest) => s.rtAgainStep j t pos rest
    | none =>
      if t.goes j.rt then s.rtPlaceStep j t
      else if !t.defer.isEmpty then { s := s, j := j, t := t }
      else s.rtSettle j t h

/-! ### Passes (R310, R315, R318) -/

/-- Insert an open row in ascending order of hedge rows. -/
def openInsert (t : RtThread) : List RtThread → List RtThread
  | [] => [t]
  | x :: r => if t.row.getD 0 < x.row.getD 0 then t :: x :: r else x :: openInsert t r

/-- The passes of a word end (R315, R318): once everything is acknowledged each descriptor's notify word grows by one for each
pass, then P5, P6 and P7 are set and the word ends. -/
def State.rtPassEnd (s : State) (j : Job) (pops : Nat) : State :=
  if s.jobTraffic j then s
  else if j.rt.notifyAt < j.rt.nexp then
    match s.rtDesc j j.rt.notifyAt with
    | .error e => s.engErr j e
    | .ok (d, j1) =>
      match s.rtAtomic j1 (descPkg d) (j.hdrAt j.rt.notifyAt + 8) 0 1 true with
      | .error e => s.engErr j1 e
      | .ok p => ((s.putJob { j1 with rt := { j1.rt with notifyAt := j.rt.notifyAt + 1 } }).post p).2
  else if 1 < j.rt.sweeps then s.putJob { j with rt := { j.rt with notifyAt := 0, sweeps := j.rt.sweeps - 1 } }
  else
    let c (i : Nat) : Nat := j.rt.counts.getD i 0
    s.putJob (((((j.setParam 5 (c 2 + c 3)).setParam 6 (c 5)).setParam 7 (c 6))).done pops)

/-- rt.cap ( e0 n cap -- ) (R310). -/
def execRtCap (s : State) : Host.Outcome State Fault Refusal :=
  s.rtWord 3 (fun j o => 1 ≤ opn o 1 && opn o 0 + opn o 1 ≤ j.rt.nexp && decide (opn o 2 < 2 ^ 32)) (fun j o =>
    match j.out with
    | some (n, _) => s.putJob (j.unitDone n)
    | none =>
      if j.unitIdx < opn o 1 then
        let e := opn o 0 + j.unitIdx
        match s.rtDesc j e with
        | .error x => s.engErr j x
        | .ok (d, j1) =>
          s.putJob { j1 with out := some (j.unitIdx + 1, cut (.list (descPkg d) (j.hdrAt e)) (toBytes 8 (opn o 2 * 2 ^ 32) ++ toBytes 8 0)) }
      else if s.jobTraffic j then s else s.putJob (j.done 3))

/-- rt.run ( row0 nrow mode -- ): the walk over the hedge's rows (R311-R315); which thread moves is open (R319). A walk that
leaves a row open leaves its pass to the rt.emit that settles it. -/
def execRtRun (s : State) : Host.Outcome State Fault Refusal :=
  s.rtWord 3 (fun _ o => opn o 0 ≤ 1023 && 1 ≤ opn o 1 && opn o 0 + opn o 1 ≤ 1024 && decide (opn o 2 < 4)) (fun j o =>
    match j.ph with
    | .start =>
      let rows := (List.range (opn o 1)).map (fun i => opn o 0 + i)
      let ts : List RtThread := if opn o 2 / 2 = 1 then [{ rows := rows }]
        else ((List.range 8).map (fun b => ({ rows := rows.filter (fun h => h % 8 == b) } : RtThread))).filter (fun t => !t.rows.isEmpty)
      let dr := s.modPkg (fun p => { p with rtRuns := p.rtRuns + 1 })
      dr.putJob { j with rt := { j.rt with threads := ts, mode := opn o 2, base := j.rt.opens.length }, ph := .active }
    | .active =>
      if j.rt.threads.isEmpty then
        if j.rt.opens.length ≤ j.rt.base then s.putJob { j with rt := { j.rt with notifyAt := 0, sweeps := 1 }, ph := .draining }
        else s.putJob (Job.done { j with rt := { j.rt with passes := j.rt.passes + 1 } } 3)
      else
        let may := (List.range j.rt.threads.length).filter (fun i =>
          !s.stopLin j.ctx j.lin || (j.rt.threads.getD i {}).row.isSome)
        let i := may.getD (s.choice may.length) 0
        let s0 := s.dropChoice
        let r := s0.rtThreadStep j (j.rt.threads.getD i {})
        match r.err with
        | some e => r.s.engErr r.j e
        | none =>
          let isOpen := r.t.row.isSome && !r.t.goes r.j.rt && !r.t.defer.isEmpty
          let t1 := if isOpen then { r.t with row := none } else r.t
          let opens := if isOpen then openInsert { r.t with rows := [] } r.j.rt.opens else r.j.rt.opens
          let ts := if t1.row.isNone && t1.rows.isEmpty then r.j.rt.threads.eraseIdx i else r.j.rt.threads.set i t1
          r.s.putJob { r.j with rt := { r.j.rt with threads := ts, opens := opens } }
    | .claiming => s
    | .draining => s.rtPassEnd j 3)

/-! ### Pushing to other packages (R317) -/

/-- The choices deferred to a target: open row, position and candidate. -/
def RtRun.deferredTo (r : RtRun) (e : Nat) : List (Nat × Nat × Nat) :=
  r.opens.zipIdx.flatMap (fun t => ((sortByPos t.1.defer).filterMap (fun d =>
    match d.2 with
    | c :: _ => if c % 65536 = e ∧ c < rtAgain then some (t.2, d.1, c) else none
    | [] => none)))
where
  /-- Deferred choices in row order. -/
  sortByPos (l : List (Nat × List Nat)) : List (Nat × List Nat) :=
    l.foldl (fun acc d => (acc.takeWhile (fun x => decide (x.1 < d.1))) ++ [d] ++ (acc.dropWhile (fun x => decide (x.1 < d.1)))) []

/-- The next target of the round: the least expert number from a bound on. -/
def RtRun.target (r : RtRun) (lo : Nat) : Option Nat :=
  (r.opens.flatMap (fun t => t.defer.filterMap (fun d => match d.2 with
    | c :: _ => if c < rtAgain ∧ lo ≤ c % 65536 then some (c % 65536) else none
    | [] => none))).foldl (fun m e => match m with
      | none => some e
      | some (x : Nat) => some (Nat.min x e)) none

/-- The granted rows of a target, read whole, and where each goes: q counts them from the first slot. -/
def State.emitRows (s : State) (j : Job) (d : List Word) (abase astr rb slot : Nat) (qs : List (Nat × Nat × Nat)) :
    Except EErr (List (OutTo × List Byte)) :=
  qs.zipIdx.mapM (fun x => do
    let t := j.rt.opens.getD x.1.1 {}
    let b ← s.eRead j ((abase + entToken (t.entries.getD x.1.2.1 0) * astr : Nat) : Int) rb
    .ok (.list (descPkg d) ((d.getD 4 0).toNat + (slot + x.2) * bits (d.getD 5 0) 31 0), b))

/-- A target has answered: its granted choices are admitted there, the others go on (R317). -/
def Job.emitSettle (j : Job) (e slot : Nat) (qs : List (Nat × Nat × Nat)) (g : Nat) : Job :=
  let opens := qs.zipIdx.foldl (fun (os : List RtThread) x =>
    let t := os.getD x.1.1 {}
    let pos := x.1.2.1
    let c := x.1.2.2
    let t1 : RtThread :=
      if x.2 < g then { t with adm := t.adm ++ [(pos, e, slot + x.2, true)], outs := t.outs ++ [(pos, 1, c / 65536, true)],
                               defer := t.defer.filter (fun d => d.1 != pos) }
      else { t with defer := mapIf (fun d => d.1 == pos) (fun d => (d.1, rtAgain :: d.2.tail)) t.defer }
    os.set x.1.1 t1) j.rt.opens
  Job.rtCount { j with rt := { j.rt with opens := opens, notifyAt := e + 1 }, fetched := [], out := none } 3 g

/-- The permit request of a target, and the pushes it grants (R317). -/
def State.emitTarget (s : State) (j : Job) (e abase astr rb : Nat) : State :=
  let qs := j.rt.deferredTo e
  match s.rtDesc j e with
  | .error x => s.engErr j x
  | .ok (d, j1) =>
    match s.rtIncb j1 (descPkg d) (j.hdrAt e) qs.length with
    | .error x => s.engErr j1 x
    | .ok old =>
      let g := granted old qs.length
      if j.out.isSome then (s.binFilled e old qs.length).putJob (j1.emitSettle e (old % 2 ^ 32) qs g)
      else match s.emitRows j1 d abase astr rb (old % 2 ^ 32) (qs.take g) with
      | .error x => s.engErr j1 x
      | .ok ws => s.putJob { j1 with out := some (0, cuts ws) }

/-- Replace an open row, or drop it once it is settled. -/
def Job.openPut (j : Job) (i : Nat) (t : RtThread) : Job :=
  { j with rt := { j.rt with opens := if t.row.isNone then j.rt.opens.eraseIdx i else j.rt.opens.set i t } }

/-- A step of open row i. -/
def State.openStep (s : State) (j : Job) (i : Nat) : State :=
  let r := s.rtThreadStep j (j.rt.opens.getD i {})
  match r.err with
  | some e => r.s.engErr r.j e
  | none => r.s.putJob (r.j.openPut i r.t)

/-- The first open row whose walk goes on. -/
def RtRun.busyOpen (r : RtRun) : Option Nat := r.opens.findIdx? (fun t => t.again.isSome || t.goes r)

/-- rt.emit ( abase astr rb -- ): the deferred choices are put to their targets in rounds; when none remains the open rows
are settled, and the pass ends (R315, R317). -/
def execRtEmit (s : State) : Host.Outcome State Fault Refusal :=
  s.rtWord 3 (fun _ o => canonical (o.getD 0 0) && opn o 0 % 64 == 0 && opn o 1 % 64 == 0 && 64 ≤ opn o 2 && opn o 2 ≤ 65536
      && opn o 2 % 64 == 0) (fun j o =>
    match j.ph with
    | .start => s.putJob (if j.rt.opens.isEmpty then j.done 3 else { j with rt := { j.rt with notifyAt := 0 }, ph := .active })
    | .active =>
      match j.rt.busyOpen with
      | some i =>
        s.openStep j i
      | none =>
        match j.rt.target j.rt.notifyAt, j.rt.target 0 with
        | some e, _ => s.emitTarget j e (opn o 0) (opn o 1) (opn o 2)
        | none, some e => s.emitTarget j e (opn o 0) (opn o 1) (opn o 2)
        | none, none =>
          if j.rt.opens.isEmpty then s.putJob { j with rt := { j.rt with notifyAt := 0, sweeps := j.rt.passes, passes := 0 }, ph := .draining }
          else s.openStep j 0
    | .claiming => s
    | .draining => s.rtPassEnd j 3)

/-- rt.stat ( dst -- ): the counters of the job so far (R318). -/
def execRtStat (s : State) : Host.Outcome State Fault Refusal :=
  s.onLaunch 4 1 (fun j o =>
    if !(canonical (o.getD 0 0) && opn o 0 % 64 == 0) then s.putJob (j.fail 13)
    else match j.out with
    | some _ => if s.jobTraffic j then s else s.putJob (j.done 1)
    | none =>
      let c (i : Nat) : Nat := j.rt.counts.getD i 0
      let ws := (List.range 7).map c ++ [c 7 % 2 ^ 32 + 2 ^ 32 * (c 8 % 2 ^ 32)]
      s.putJob { j with out := some (0, cut (.list none (opn o 0)) (ws.flatMap (fun w => toBytes 8 w))) })

end Sys2Proof.Machine
end

