-- ==== Sys2Proof/Machine/EvJob.lean ====
section
/-! DEFINITION. The events of jobs and their queues (13 R242-R253, 10 R215-R219, 14 R279). -/

namespace Sys2Proof.Machine

/-! ### Starting and ending (R219, R242, R249, R252) -/

/-- Jobs of a kind that the engines of a queue run at once (R241). -/
def engines (kind : Nat) : Nat := if kind = 3 then 2 else 1

/-- Whether a queued job goes before another (R242): priority, budget, the cyclic order of cores after the last one
started, submission. -/
def jobBefore (last : Nat) (a b : Job) : Bool :=
  let turn (j : Job) : Nat := (j.lin + 4096 - (last + 1) % 4096) % 4096
  if a.prio != b.prio then decide (a.prio < b.prio)
  else if a.budget != b.budget then decide (a.budget < b.budget)
  else if turn a != turn b then decide (turn a < turn b)
  else decide (a.order < b.order)

/-- The job that a queue starts next for a kind (R242). -/
def State.nextJob (s : State) (pq kind : Nat) : Option Job :=
  let last := s.jobPos.get 4095 (8 * pq + kind)
  (s.jobs.filter (fun j => j.pq == pq && j.kind == kind && j.st == .queued && !j.finished && !s.stopLin j.ctx j.lin)).foldl
    (fun best j => match best with
      | none => some j
      | some b => if jobBefore last j b then some j else some b) none

/-- Count a late job in its queue's status register (R243, R252). -/
def State.countLate (s : State) (pq : Nat) : State :=
  let up (x : Nat) : Nat := Nat.min (x + 1) 0xFFFFFFFF
  if pq < 512 then s.modHedge (pq / 2) (fun h => if pq % 2 = 0 then { h with jqlate0 := up h.jqlate0 } else { h with jqlate1 := up h.jqlate1 })
  else if pq < 768 then s.modHedge (pq - 512) (fun h => { h with jqlateH := up h.jqlateH })
  else s.modDie (pq - 768) (fun d => { d with jqlate := up d.jqlate })

/-- A job as its engine starts it (R252): stack and geometry cleared, parameters as the node gave them. -/
def Job.started (j : Job) : Job :=
  { j with st := .running, stack := [], ip := 0, usRun := 0, rests := false, ph := .start, unitIdx := 0, want := [], claims := [], locks := [], out := none, left := [], held := [],
           pins := [], mm := {}, gIdx := 0, stopped := false, plan := none, sched := 0, satMask := 0, dims := [], cvt := 0,
           idxs := [], rt := {}, cl := {}, gate := none, fetched := [], wake := [] }

/-- JOB_START: an idle engine of a queue starts its next eligible job of a kind; a late one is discarded (R242, R252). -/
def execJobStart (queue kind : Nat) (s : State) : Host.Outcome State Fault Refusal :=
  if engines kind ≤ (s.jobs.filter (fun j => j.pq == queue && j.kind == kind && j.st == .running)).length then .next s
  else match s.nextJob queue kind with
  | none => .next s
  | some j =>
    let s1 : State := { s with jobPos := s.jobPos.set (8 * queue + kind) j.lin }
    if j.budget = 0 then .next ((s1.countLate queue).endJob j .late) else .next (s1.putJob j.started)

/-- The state in which a finished job ends. -/
def endState (n : Nat) : JobSt := if n = 4 then .done else if n = 6 then .fault else .error

/-- JOB_COMPLETE: a job that has performed its end word, or that has ended early, reaches its terminal state once its
writes are acknowledged, its wake-up messages are sent and its last list is complete (R219, R245, R340). -/
def execJobComplete (id : Nat) (s : State) : Host.Outcome State Fault Refusal :=
  match s.jobNo id with
  | none => .next s
  | some j =>
    match j.pending with
    | some p =>
      if !j.finished || !j.holds || j.st == .held || s.jobTraffic j || !j.wake.isEmpty || !j.held.isEmpty then .next s
      else if j.cl.due then .next (s.clListEnd j)
      else .next (s.endJob j (endState p))
    | none => .next s

/-- JOB_SUCCESSOR_DECREMENT: a decrement on its way is performed at its queue (R249); one for a job that an image holds away
from the device waits for its restore (R117, R372; DEDUCED, log 71). -/
def execJobSuccessorDecrement (k : Nat) (s : State) : Host.Outcome State Fault Refusal :=
  match s.decs[k]? with
  | none => .next s
  | some d =>
    if s.saved.any (fun i => i.jobs.any (fun j => j.id == d.1 && j.ctx == d.2)) then .next s
    else .next ({ s with decs := s.decs.eraseIdx k }.jobDec d.1 d.2)

/-! ### Claims and range locks (R215, R216, R218) -/

/-- An access waits at the sector or range of a claim of this package, and could be performed now: it goes before the next
claim (R216). -/
def State.waitsFor (s : State) (c : ClaimKey) : Bool :=
  s.net.any (fun p => p.waiting && !s.stillWaits p
      && p.runs.any (fun r => match p.space with
        | .core m => c.loc && c.core == m && meets (64 * c.sector) 64 r.1 r.2
        | .dev => !c.loc && c.sector == r.1 / 64
        | _ => false))
    || (c.loc && (s.coreAt c.core).slots.any (fun x => match x.2.waitAt with
        | some a => meets (64 * c.sector) 64 a.1 a.2 && !s.lockedL c.core a.1 a.2
        | none => false))
    || (!c.loc && s.hostWait.contains c.sector && !s.homeClaimed .dev (64 * c.sector) 64 true)

/-- A claim is held by another job, of this package or another, or one asked for it earlier, at the moment when it held every
lower claim (R215). -/
def State.claimBusy (s : State) (j : Job) (c : ClaimKey) : Bool :=
  s.jobs.any (fun x => x.order != j.order
      && (x.claims.any (fun y => y.same c)
        || (!x.rests && x.st == .running && x.ph == .claiming && x.want.head?.any (fun y => y.same c) && decide (x.since < j.since))))
    || s.farClaims.any (fun x => (if c.loc then x.space == .core c.core else x.space == .dev) && x.addr == 64 * c.sector)

/-- The job holds its lowest claim and asks for the next, at a moment of its own; the last one lets its engine write
(R215). -/
def Job.granted (j : Job) (c : ClaimKey) (rest : List ClaimKey) (now : Nat) : Job :=
  { j with since := now, claims := if c.isIn j.claims then j.claims else j.claims ++ [c], want := rest, ph := if rest.isEmpty then .active else .claiming
           fetched := j.fetched.filter (fun f => f.1 != 9) }

/-- CLAIM_GRANT: the lowest claim that a job still asks for is granted where no other job holds it or asked earlier; at
another package it is asked for by a packet, and granted by its answer (R215). -/
def execClaimGrant (id : Nat) (s : State) : Host.Outcome State Fault Refusal :=
  match s.jobNo id with
  | none => .next s
  | some j =>
    let s1 : State := { s with nextId := s.nextId + 1 }
    match j.want with
    | [] => .next s
    | c :: rest =>
      if !j.live || j.ph != .claiming || (s.stopLin j.ctx j.lin && !j.mustGo) then .next s
      else if c.pkg = s.pkgNo then
        if s.claimBusy j c || s.waitsFor c then .next s else .next (s1.putJob (j.granted c rest s.nextId))
      else match j.fetched.find? (fun f => f.1 == 9) with
      | some f => .next (s1.putJob (if f.2.2 = 0 then { (j.granted c rest s.nextId) with claims := j.claims }
          else { (j.granted c rest s.nextId) with held := j.held ++ [c] }))
      | none =>
        match s.farPacket j c.pkg c.loc (BitVec.ofNat 64 c.va) 2 .claim with
        | .ok p => .next (s.engErr j (.ask { p with cls := 0 }))
        | .error (.ask p) => .next (s.engErr j (.ask p))
        | .error _ => .next (s1.putJob { (j.granted c rest s.nextId) with claims := j.claims })

/-- A claim at another package that the job has given up is released there once its writes to the sector are answered
(R215). -/
def State.releaseClaim (s : State) (order : Nat) : State :=
  match s.jobNo order with
  | none => s
  | some j =>
    match j.held.find? (fun c => (j.finished || !c.isIn j.claims) && !s.lineOpen j (.remote c.pkg) c.va) with
    | none => s
    | some c =>
      let j1 := { j with held := j.held.erase c, claims := c.off j.claims }
      match s.farPacket j c.pkg c.loc (BitVec.ofNat 64 c.va) 2 .unclaim with
      | .ok p => ((s.putJob j1).post { p with cls := 0 }).2
      | .error (.ask p) => s.engErr j (.ask p)
      | .error _ => s.putJob j1

/-- One unit of the launch word that a job is performing. -/
def State.launchUnit (s : State) (j : Job) : Host.Outcome State Fault Refusal :=
  let s0 : State := { s with job := j.order }
  match (j.prog.getD j.ip 0).toNat with
  | 0x040A => execMmRun s0
  | 0x040B => execMmRing s0
  | 0x040C => execMmGmm s0
  | 0x0807 => execBfStore s0
  | 0x0C01 => execCpGo s0
  | 0x0C02 => execCpFill s0
  | 0x0C03 => execCpGath s0
  | 0x0C04 => execCpScat s0
  | 0x1404 => execClGo s0
  | 0x1801 => execLgRun s0
  | _ => .next s

/-- A claim of a job on a sector or range at which an access waits (R216). -/
def State.recalls (s : State) (pkt : Nat) (c : ClaimKey) : Bool :=
  if pkt = 0 then c.pkg == s.pkgNo &&
    (if c.loc then (s.coreAt c.core).slots.any (fun x => match x.2.waitAt with
        | some a => meets (64 * c.sector) 64 a.1 a.2
        | none => false)
      else s.hostWait.contains c.sector)
  else match s.net.find? (fun p => p.id == pkt) with
  | none => false
  | some p => p.waiting && p.runs.any (fun r => match p.space with
    | .core m => c.loc && c.pkg == s.pkgNo && c.core == m && meets (64 * c.sector) 64 r.1 r.2
    | .dev => !c.loc && c.pkg == s.pkgNo && c.sector == r.1 / 64
    | _ => false)

/-- An access waits at a sector or range that a job claims (R216): a packet, or with packet 0 a thread of the core at its
own local memory, or the companion processor. -/
def State.recallsJob (s : State) (j : Job) (pkt : Nat) : Bool := j.claims.any (s.recalls pkt)

/-- The writes of a unit with those to recalled sectors first (R216). What P5 and P6 become at a write that moves is told by
the write that stood before it. -/
def forward (hit : OutPiece → Bool) (ps : List OutPiece) : List OutPiece :=
  let go (acc : List OutPiece × List OutPiece) (p : OutPiece) : List OutPiece × List OutPiece :=
    match p with
    | .bytes d bs a b f =>
      if !hit p then (acc.1, acc.2 ++ [p])
      else match acc.2.reverse with
        | .bytes d2 bs2 a2 b2 f2 :: r =>
          (acc.1 ++ [.bytes d bs none none f], r.reverse ++ [.bytes d2 bs2 (a <|> a2) (b <|> b2) f2])
        | _ => (acc.1 ++ [.bytes d bs a b f], acc.2)
    | x => if hit x then (acc.1 ++ [x], acc.2) else (acc.1, acc.2 ++ [x])
  let r := ps.foldl go ([], [])
  r.1 ++ r.2

/-- The engine writes recalled sectors ahead of its other destinations as soon as it has their data (R216). -/
def State.recalled (s : State) (j : Job) (hit : ClaimKey → Bool) : Job :=
  { j with out := j.out.map (fun o => (o.1, forward (fun p => (s.pieceKeys j p).any hit) o.2)) }

/-- RECALL: the engine writes the sector for which an access waits ahead of its other destinations, once it has its data; each
claim ends with the last write to its sector (R215, R216). -/
def execRecallClaim (id : Nat) (pkt : Nat) (s : State) : Host.Outcome State Fault Refusal :=
  match s.jobNo id with
  | some j =>
    if !j.live || j.ph != .active || !s.recallsJob j pkt then .next s
    else
      let j1 := s.recalled j (s.recalls pkt)
      (s.putJob j1).launchUnit j1
  | none => .next s

/-- The local ranges that a matrix launch has still to read: the block step in progress has read its own once its writes
are due. -/
def State.mmUnread (s : State) (j : Job) (kind : MmKind) : List (Nat × Nat × Nat) :=
  let cbs := Nat.max 1 ((j.mm.n + 7) / 8)
  let u := j.unitIdx + (if j.out.isSome then 1 else 0)
  s.mmRanges j kind j.gIdx (u / cbs) (u % cbs)

/-- The local ranges that a job has still to read (R218). -/
def State.locksLeft (s : State) (j : Job) : List (Nat × Nat × Nat) :=
  match (j.prog.getD j.ip 0).toNat with
  | 0x040A => if j.ph = .active then s.mmUnread j .run else j.locks
  | 0x040B => if j.ph = .active then s.mmUnread j .ring else j.locks
  | 0x040C => if j.ph = .active then s.mmUnread j .gmm else j.locks
  | 0x1404 => if j.ph = .active then
      s.rangesLocks j ((j.cl.now.ops.drop (j.cl.opIdx + (if j.unitIdx = 0 && j.out.isNone then 0 else 1))).map (fun o => o.srcRange j.cl.now.g))
      else j.locks
  | 0x1801 => if j.ph = .active then s.rangesLocks j (j.lgSources (j.stack.take 5).reverse (if j.out.isSome then 65536 else j.unitIdx))
      else j.locks
  | _ => j.locks

/-- RANGE_LOCK_RELEASE: ranges that the engine has finished reading are unlocked (R218). -/
def execRangeLockRelease (id : Nat) (s : State) : Host.Outcome State Fault Refusal :=
  match s.jobNo id with
  | none => .next s
  | some j =>
    let left := s.locksLeft j
    .next (s.putJob { j with locks := j.locks.filter (fun l => left.contains l) })

/-! ### Wake-up messages (R279) -/

/-- A wake-up message of a job: one payload word, the identifier; the budget is the job's remaining one. -/
def State.wakeUp (s : State) (j : Job) (w : Nat × Nat) : State :=
  let b := if j.budget = noBudget then 0xFFFF else Nat.min j.budget 0xFFFE
  let n := w.2 % 2 ^ 40
  let lin := if 2 ^ 40 ≤ w.2 then s.logical (hedgeOf j.core) j.ctx n else linOf (n % 64) (n / 64 % 64)
  let pk := if 2 ^ 40 ≤ w.2 then s.pkgNo else n / 4096 % 128
  let h := fld 57 pk ||| fld 51 (yOf lin) ||| fld 45 (xOf lin) ||| fld 37 w.1 ||| fld 33 1 ||| fld 17 b
  let p : Packet := { src := j.source s, kind := .msg [h, BitVec.ofNat 64 j.id] }
  if 2 ^ 40 ≤ w.2 then (s.post { p with home := .core n, space := .core n }).2
  else if pk = s.pkgNo then
    match s.place (hedgeOf j.core) j.ctx lin with
    | none => s
    | some m => (s.post { p with home := .core m, space := .core m }).2
  else (s.post { p with home := .remote pk, space := .remote pk }).2

/-- DRAIN_WAKEUP: once the writes of a launch are acknowledged its wake-up messages are sent (R279). -/
def execDrainWakeup (id : Nat) (s : State) : Host.Outcome State Fault Refusal :=
  match s.jobNo id with
  | none => .next s
  | some j =>
    if j.wake.isEmpty || s.jobTraffic j then .next s
    else .next (j.wake.foldl (fun s w => s.wakeUp j w) (s.putJob { j with wake := [] }))

end Sys2Proof.Machine
end

