-- ==== Sys2Proof/Machine/EvMem.lean ====
section
/-! DEFINITION. The events of translation, the cache and shootdown (08 R174-R189, 22 R406-R409), and the CSR writes with
behaviour of their own (08 R169, R178, 16 R302, 21 R388, R393, 22 R412). -/

namespace Sys2Proof.Machine

/-! ### Walks and sectors -/

/-- TRANSLATION_WALK: a walk unit walks for a hedge (R183, R185, R186): a leaf is installed, and the outcome
answers the accesses that merged with the miss, in their order of arrival. -/
def execTranslationWalk (hedge ctx : Nat) (va : Word) (s : State) : Host.Outcome State Fault Refusal :=
  if 256 ≤ hedge || !canonical va || s.inAperture va then .next s
  else
    let w := s.walk ctx va
    let done (h : Hedge) : Hedge := h.endMiss ctx (va.toNat / 2 ^ 16) w
    match w with
    | .ok e => .next (s.modHedge hedge (fun h => (done h).install e))
    | _ => .next (s.modHedge hedge done)

/-- SECTOR_FILL: a sector is filled from HBM under its masked words (R175). -/
def execSectorFill (sector : Nat) (s : State) : Host.Outcome State Fault Refusal :=
  if devTop ≤ 64 * sector then .next s else .next (s.fillSector sector (s.sector sector).pol)

/-- LINE_EVICTION: the modified and partial sectors of a line are written to HBM and the line is free (R175). -/
def execLineEviction (line : Nat) (s : State) : Host.Outcome State Fault Refusal :=
  .next (s.evictLine line)

/-! ### Shootdown (R187, R188, R409) -/

/-- The page size of a code of SDCTL. -/
def sdSize (w : Word) : Nat := 2 ^ (16 + 10 * bits w 60 59)

/-- Whether an address of a context lies in what a shootdown covers. -/
def sdCovers (ctl addr : Word) (ctx va len : Nat) : Bool :=
  match bits ctl 62 61 with
  | 0 => ctx == bits ctl 15 0 && meets (addr.toNat / sdSize ctl * sdSize ctl) (sdSize ctl) va len
  | 1 => ctx == bits ctl 15 0
  | 2 => true
  | _ => false

/-- Whether a shootdown drops a translation. -/
def sdDrops (ctl addr : Word) (e : TlbEntry) : Bool := sdCovers ctl addr e.ctx e.va e.size

/-- A shootdown of a kind begins (R187, R188, R409): every hedge is to answer, and with rem = 1 every known peer. -/
def State.sdStart (s : State) (kind : Nat) : State :=
  let w := s.pkg.sdctl
  if !w.getLsbD 63 || s.pkg.sdOn || bits w 62 61 != kind then s
  else
    let peers := if w.getLsbD 58 then (s.pkg.peers.filter (fun p => p.2.getLsbD 63 && p.1 != s.pkgNo)).map (fun p => p.1) else []
    let s1 := (List.range 256).foldl (fun s h => s.modHedge h (fun x => { x with sdPending := true })) s
    let s2 := s1.modPkg (fun p => { p with sdOn := true, sdWait := peers })
    peers.foldl (fun s j => s.egressPut j 3 5 [headWord 6 0 0 0 0 0, w, s.pkg.sdaddr]) s2

/-- SHOOTDOWN_PAGE: SDCTL kind 0. -/
def execShootdownPage (s : State) : Host.Outcome State Fault Refusal := .next (s.sdStart 0)
/-- SHOOTDOWN_CONTEXT: SDCTL kind 1. -/
def execShootdownContext (s : State) : Host.Outcome State Fault Refusal := .next (s.sdStart 1)
/-- SHOOTDOWN_ALL: SDCTL kind 2. -/
def execShootdownAll (s : State) : Host.Outcome State Fault Refusal := .next (s.sdStart 2)
/-- SHOOTDOWN_PLACEMENT_MAP: SDCTL kind 3. -/
def execShootdownPlacementMap (s : State) : Host.Outcome State Fault Refusal := .next (s.sdStart 3)

/-- The addresses of the accesses that an entry of a speculative buffer holds. -/
def BufEntry.vas (e : BufEntry) : List Word :=
  match e with
  | .line _ _ _ _ _ _ parts => parts.filterMap (fun x => x.1)
  | .amo p => [p.va]

/-- The accesses that a thread has translated and not yet sent: in its speculative buffer, and those its quantum has
collected (R126, R223, R227). -/
def State.heldVas (s : State) (t : Thread) : List Word :=
  t.buf.flatMap BufEntry.vas ++ (match s.ordOf t.uid with
    | some (_, o) => o.services.filterMap (fun a => match a with
      | .call p _ | .post p => some p.va
      | _ => none)
    | none => [])

/-- An access that used a translation in question is still under way (R188): of the hedge's threads or jobs, on its way or
held back by speculation, or one from another package through the die's cache (R406); of the placement map, any access to
a core. -/
def State.sdBusy (s : State) (h : Nat) (ctl addr : Word) : Bool :=
  let covers (ctx va : Nat) : Bool := if bits ctl 62 61 = 3 then ctx == bits ctl 15 0 else sdCovers ctl addr ctx va 1
  let hit (c : Source) (va : Nat) : Bool := (c.far || hedgeOf c.core == h) && covers c.ctx va
  s.net.any (fun p => (match p.kind with | .msg _ | .sysm _ => false | _ => true) && hit p.src p.va.toNat)
    || s.replies.any (fun r => !r.src.far && hit r.src r.va.toNat)
    || s.threads.any (fun t => hedgeOf t.home == h && (s.heldVas t).any (fun va => covers t.ctx va.toNat))

/-- SHOOTDOWN_INVALIDATION: a hedge, with its die's cache for accesses from outside, drops what matches and answers once
the accesses that used it are done (R188, R406). DESIGN CHOICE (log 73): SDADDR written while the shootdown is busy counts for
the hedges that have not yet invalidated. Number 256 + j is this package's holder for package j: it answers once neither an
access by a dropped entry nor a request or answer that would give one again is under way (R409). -/
def execShootdownInvalidation (hedge : Nat) (s : State) : Host.Outcome State Fault Refusal :=
  if hedge < 256 then
    if !(s.hedge hedge).sdPending then .next s
    else
      let w := s.pkg.sdctl
      let a := s.pkg.sdaddr
      let s1 := s.modHedge hedge (fun h => { h with
        tlb := h.tlb.filter (fun e => !sdDrops w a e)
        misses := h.misses.filter (fun m => !sdCovers w a m.ctx (65536 * m.page) 65536)
        pmaps := if bits w 62 61 = 3 then h.pmaps.del (bits w 15 0) else h.pmaps })
      let s2 := s1.modDie (dieOfHedge hedge) (fun d => { d with ttc := d.ttc.filter (fun e => !sdDrops w a e) })
      .next (if s2.sdBusy hedge w a then s2 else s2.modHedge hedge (fun h => { h with sdPending := false }))
  else
    match s.pkg.sdHeld.find? (fun x => x.1 == hedge - 256) with
    | none => .next s
    | some x =>
      let j := x.1
      let s1 := (List.range 4).foldl (fun s d => s.modDie d (fun y => { y with rtc := y.rtc.filter (fun e => !(e.pkg == j && sdDrops x.2.1 x.2.2 e)) })) s
      if s1.net.any (fun p => p.space == .remote j && (p.pol == 2 || p.kind == .xreq) && sdCovers x.2.1 x.2.2 p.src.ctx p.va.toNat 1)
          || s1.replies.any (fun r => match r.kind with | .leaf e => e.pkg == j && sdDrops x.2.1 x.2.2 e | _ => false) then .next s1
      else .next ((s1.modPkg (fun p => { p with sdHeld := p.sdHeld.erase x })).egressPut j 3 6 [headWord 7 0 0 0 0 0])

/-- SHOOTDOWN_ACK: the last answer clears SDCTL.busy (R188). -/
def execShootdownAck (s : State) : Host.Outcome State Fault Refusal :=
  if s.pkg.sdOn && s.pkg.sdWait.isEmpty && s.hedges.all (fun h => !h.2.sdPending) then
    .next (s.modPkg (fun p => { p with sdOn := false, sdctl := setBit p.sdctl 63 false }))
  else .next s

/-! ### Requests of other packages (R406-R408) -/

/-- A walk for another package through a die's translation cache (R406). -/
def State.farWalk (s : State) (die ctx : Nat) (va : Word) : Walk :=
  match (s.die die).ttc.find? (fun e => e.covers ctx va) with
  | some e => .ok e
  | none => s.walk ctx va

/-- Install a translation in the cache of 1,024 that serves accesses from outside (R406). -/
def State.farInstall (s : State) (die : Nat) (e : TlbEntry) : State :=
  s.modDie die (fun d => if d.ttc.contains e then d else { d with ttc := (e :: d.ttc).take 1024 })

/-- What a failed walk for another package answers (R407). -/
def farFault : Walk → RKind
  | .malformed => .remote 6 3
  | .dataErr _ => .remote 12 1
  | _ => .remote 6 2

/-- The error record of a walk for another package that meets an uncorrectable error (R370). -/
def State.farRecord (s : State) (die ctx : Nat) (va : Word) : State :=
  match s.farWalk die ctx va with
  | .dataErr pa => s.walkError pa ctx 0
  | _ => s

/-- The leaf of a translation answer as words, and back (log 24). -/
def leafWords (e : TlbEntry) : List Word :=
  [BitVec.ofNat 64 e.va, BitVec.ofNat 64 e.size, BitVec.ofNat 64 e.frame,
   fld 0 (boolWord e.x).toNat ||| fld 1 (boolWord e.usr).toNat ||| fld 2 (boolWord e.w).toNat ||| fld 4 e.pol]

/-- The answer to a translation request (R408) that arrives through a port of a die: the leaf, or the failure. -/
def State.translationAnswer (s : State) (die pkg ctx : Nat) (va : Word) : State :=
  match s.farWalk die ctx va with
  | .ok e => (s.farInstall die e).egressPut pkg 3 4 ([headWord 5 0 0 ctx 0 0, va] ++ leafWords e)
  | w => match farFault w with
    | .remote code info => (s.farRecord die ctx va).egressPut pkg 3 4 [headWord 5 1 0 ctx code info, va]
    | _ => s

/-- REMOTE_TRANSLATION_REQUEST: a known peer's request for an address is walked and answered (R408). The event names no port:
the die whose cache serves it is die pkg mod 4 (DESIGN CHOICE, log 24); a request in a frame is served by its port's die. -/
def execRemoteTranslationRequest (pkg inc ctx : Nat) (va : Word) (s : State) : Host.Outcome State Fault Refusal :=
  let p := s.pkg.peers.get 0 pkg
  if !p.getLsbD 63 || bits p 47 32 != inc || pkg == s.pkgNo then .next s else .next (s.translationAnswer (pkg % 4) pkg ctx va)

/-! ### CSR writes with behaviour of their own -/

/-- SCCFG_WRITE (R169). -/
def execSccfgWrite (core : Nat) (v : Word) (s : State) : Host.Outcome State Fault Refusal :=
  if 4096 ≤ core then .next s else .next (s.modCore core (fun c => c.writeSccfg v))
/-- MBCFG_WRITE (R302). -/
def execMbcfgWrite (core : Nat) (v : Word) (s : State) : Host.Outcome State Fault Refusal :=
  if 4096 ≤ core then .next s else .next (s.modCore core (fun c => c.writeMbcfg v))
/-- LLCPART_WRITE (R178): it waits while the relay ways hold traffic. -/
def execLlcpartWrite (v : Word) (s : State) : Host.Outcome State Fault Refusal :=
  .next (if s.csrBusy 0x20B then s else s.writeLlcpart v)
/-- CALCFG_WRITE (R388). -/
def execCalcfgWrite (v : Word) (s : State) : Host.Outcome State Fault Refusal := .next (s.writeCalcfg v)
/-- OPTPORT_WRITE (R393). -/
def execOptportWrite (p : Nat) (v : Word) (s : State) : Host.Outcome State Fault Refusal :=
  if 16 ≤ p then .next s else .next (s.writeOptport p v)
/-- PEER_CLEAR: a system write of v = 0 to PEERj (R412). -/
def execPeerClear (j : Nat) (s : State) : Host.Outcome State Fault Refusal :=
  if 128 ≤ j then .next s else .next (s.clearPeer j)

end Sys2Proof.Machine
end

