-- ==== Sys2Proof/Machine/EvNet.lean ====
section
/-! DEFINITION. The events of accesses at their homes and their answers, migration, the baton, dependence records and
waits (06 R116-R129, 07 R152-R154, 08 R167-R168, 09 R191-R193, 10 R208, 22 R407). -/

namespace Sys2Proof.Machine

/-- HOME_ACCESS: an access that no earlier one of its source, home and class precedes, and before which no access is due
at its home, is checked once, on its arrival, and performed, or waits on a claim or range lock (R167, R208, R210, R216,
R218). -/
def execHomeAccess (pkt : Nat) (s : State) : Host.Outcome State Fault Refusal :=
  match s.net.find? (fun p => p.id == pkt) with
  | none => .next s
  | some p =>
    if s.behind p || s.dueBefore p then .next s
    else match p.kind, p.space with
    | .sysm ws, _ => .next (s.systemRecord p ws)
    | .tdec _, _ | .mig _, _ | .msg _, _ | .score .., _ | .xreq, _ | .watch _, _ | .woken _, _ => .next s
    | _, .remote _ => .next s
    | k, .core n =>
      if k == .deq && p.waiting && p.waited != 0 then .next s
      else if !p.waiting && !s.admits p n then .next (s.refuse p n)
      else if s.waitsAt p then .next (s.waitHere p)
      else .next (s.performAt p)
    | k, _ =>
      if k == .deq && p.waiting && p.waited != 0 then .next s
      else if s.waitsAt p then .next (s.waitHere p)
      else if p.space == .host && decide (1 < p.wordList.length) then .next (s.hostWord p)
      else .next (s.performAt p)

/-- WAITW_WAKE: a waitw that a value has satisfied is answered with that value (R152): one that a write has shown, or the one
that stands there, which no claim covers, when its turn at the home has come (R208, R216). -/
def execWaitwWake (pkt : Nat) (s : State) : Host.Outcome State Fault Refusal :=
  match s.net.find? (fun p => p.id == pkt) with
  | none => .next s
  | some p =>
    match p.kind with
    | .woken v => .next (s.answer p (.value (BitVec.ofNat 512 v.toNat) {}))
    | .watch _ =>
      let v := s.homeNum p.space p.loc 8
      if !s.stillWaits p && !s.dueBefore p then .next (s.answer p (.value (BitVec.ofNat 512 v) {})) else .next s
    | _ => .next s

/-- DEQ_SERVE: the first deq waiting at a header takes the next item; a late item is discarded and the wait goes on
(R154, R365). -/
def execDeqServe (pkt : Nat) (s : State) : Host.Outcome State Fault Refusal :=
  match s.net.find? (fun p => p.id == pkt) with
  | none => .next s
  | some p =>
    if p.kind == .deq && p.waiting && !s.homeClaimed p.space p.loc 64 true && !s.dueBefore p then .next (s.performAt p) else .next s

/-- DEP_DECREMENT: a tdec, or a job's decrement of a record, at the record's home core (R116, R144). -/
def execDepDecrement (pkt : Nat) (s : State) : Host.Outcome State Fault Refusal :=
  match s.net.find? (fun p => p.id == pkt) with
  | none => .next s
  | some p =>
    match p.kind, p.space with
    | .tdec k, .core n =>
      if s.behind p || s.dueBefore p then .next s
      else if s.noCore n then .next (s.refuse p n)
      else if s.lockedL n p.loc 64 then .next (s.waitHere p)
      else if s.isBad 0 n p.loc 8 then .next ((s.homeError p).answer p .dataErr)
      else .next (((s.decrement n p.loc k p.src.ctx (!p.src.sys)).wrote p.src.actor (.core n) (p.loc / 64 * 64)).answer p .ack)
    | _, _ => .next s

/-! ### Answers at the source -/

/-- The value of a load as a speculating thread sees it: its own buffered bytes over what the home returned (R126, R223). -/
def Thread.overlay (t : Thread) (p : Option Packet) (v : Vec) : Vec :=
  match p with
  | some p =>
    match p.kind with
    | .load n =>
      if t.buf.isEmpty || !t.spec || t.privLine p.space (p.loc / 64 * 64) then v
      else BitVec.ofNat 512 (vecNum (bufOver t.buf p.space (p.loc / 64 * 64) (vecAt (p.loc % 64) v.toNat)) (p.loc % 64) n)
    | _ => v
  | none => v

/-- A refused group is left unperformed, the words it held stay in their queues, and the thread takes the trap when it next
issues (R168, R193, R369). -/
def State.refuseHold (s : State) (n k : Nat) (t : TrapInfo) : State :=
  (s.dropHold n k).modTh n k (fun x => { x with trapNext := some t })

/-- The group that waits finds what it waits for absent: it is left unperformed and retried in a later round (R227, R228). -/
def State.retryLater (s : State) (n k : Nat) : State := (s.dropHold n k).cutQuantum n k true

/-- An answer removed. -/
def State.dropReply (s : State) (rid : Nat) : State := { s with replies := s.replies.filter (fun r => r.id != rid) }

/-- The service of a committing quantum that waits for an answer (R227). -/
def State.serviceReply (s : State) (uid rid : Nat) : Option Dst :=
  match s.ordOf uid with
  | some (_, t) => (match t.services with
    | .call p dst :: _ => if p.id = rid then some dst else none
    | _ => none)
  | none => none

/-- The first service of a committing quantum has been performed. -/
def State.serviceDone (s : State) (uid : Nat) : State := s.modOrd uid (fun t => { t with services := t.services.tail })

/-- What an answer other than a value does to a waiting group: the trap it takes (R168, R369, R407). -/
def Reply.trap (r : Reply) : Option TrapInfo :=
  match r.kind with
  | .nack => some { code := 8, acc := r.acc, addr := r.va }
  | .dataErr => some { code := 12, acc := r.acc, addr := r.va }
  | .remote code info => some { code := code, info := info, acc := r.acc, addr := r.va }
  | _ => none

/-- The answer to a fetch from host memory (R414): the syllable stands ready for the group, or the group takes the data-error
trap when it next issues (R369). -/
def State.settleFetch (s : State) (n k : Nat) (r : Reply) : State :=
  let s1 := s.modSlot n k (fun x => { x with hold := none, code := match r.kind with
    | .value v _ => (r.cnt, v.setWidth 32) :: x.code
    | _ => x.code })
  match r.trap with
  | some i => s1.modTh n k (fun t => { t with trapNext := some { i with acc := 4 } })
  | none => s1

/-- An answer to a group that waits for it (R193): the whole group is performed, or none of it. -/
def State.settleReply (s0 : State) (r : Reply) : State :=
  let s := s0.dropReply r.id
  match s.whereIs r.src.uid with
  | none => s
  | some (n, k) =>
    match s.serviceReply r.src.uid r.id with
    | some dst =>
      let s0 := match r.home, r.kind with
        | .remote p, .value v _ => if v.extractLsb' 0 64 = 0 then s.noteWritten r.src.uid (.remote p) (bits v 127 70 * 64) else s
        | _, _ => s
      let s1 := s0.serviceDone r.src.uid
      (match r.kind, dst with
      | .value v _, .reg d .. => s1.wrD n k d (v.extractLsb' 0 64)
      | _, _ => match r.trap with
        | some i => s1.modTh n k (fun t => { t with trapNext := some i })
        | none => s1)
    | none =>
      match (s.slotAt n k).hold with
      | some (.fetch rid, _) => if rid = r.id then s.settleFetch n k r else s
      | some (.reply rid, fx) =>
        if rid != r.id then s
        else match r.kind with
        | .value v0 fl =>
          let v := (s.thAt n k).overlay fx.req v0
          (match fx.probe with
          | some b => if b.toNat ≤ v.toNat % 2 ^ 64 then s.completeHold n k v fl else s.retryLater n k
          | none => s.completeHold n k v fl)
        | .empty => s.retryLater n k
        | _ => match r.trap with
          | some i => s.refuseHold n k i
          | none => s
      | _ => s

/-- LOAD_REPLY: the answer to a load, returning atomic, waitw, enq or deq (R193, R168, R369). -/
def execLoadReply (rid : Nat) (s : State) : Host.Outcome State Fault Refusal :=
  match s.replies.find? (fun r => r.id == rid) with
  | none => .next s
  | some r =>
    match r.kind with
    | .remote .. => .next s
    | _ => if r.posted || r.sc.isSome || r.src.far then .next s
      else if r.src.job != 0 then .next (s.engineReply r)
      else .next (s.settleReply r)

/-- An answer to a posted access: its counter falls, a refusal fills or counts in the deferred record (R124, R168, R363). -/
def State.settlePosted (s0 : State) (r : Reply) : State :=
  let s := s0.dropReply r.id
  match s.thOf r.src.uid with
  | none => s
  | some t =>
    let s1 := match r.sc with
      | some k => s.scAdd t k (-(r.cnt : Int))
      | none => s
    match r.trap with
    | some i => if r.posted then s1.modUid t.uid (fun t => t.refuse i.code i.acc i.addr i.info) else s1
    | none => s1

/-- STORE_ACK: the acknowledgement or refusal of a posted access (R191, R168). -/
def execStoreAck (rid : Nat) (s : State) : Host.Outcome State Fault Refusal :=
  match s.replies.find? (fun r => r.id == rid) with
  | none => .next s
  | some r =>
    match r.kind with
    | .remote .. => .next s
    | _ => if !(r.posted || r.sc.isSome) || r.src.far then .next s
      else if r.src.job != 0 then .next (s.engineReply r)
      else .next (s.settlePosted r)

/-- REMOTE_FAULT_REPLY: the target package refused the access (R407): a precise trap or the deferred record; a job ends
with fault code 10 or 11, or in state error. -/
def execRemoteFaultReply (rid : Nat) (s : State) : Host.Outcome State Fault Refusal :=
  match s.replies.find? (fun r => r.id == rid) with
  | none => .next s
  | some r =>
    match r.kind with
    | .remote .. =>
      if r.src.far then .next s
      else if r.src.job != 0 then .next (s.engineReply r)
      else if r.posted || r.sc.isSome then .next (s.settlePosted r)
      else .next (s.settleReply r)
    | _ => .next s

/-! ### Migration (R128, R129, R196) -/

/-- A free slot of a core. -/
def Core.freeSlot? (c : Core) : Option Nat := (List.range 4).find? (fun k => (c.slotAt k).st == .free)

/-- A thread leaves its slot to migrate (R128): PC, SW and w1..w15 travel, the home workspace stays bound, the group's
effects and the words it holds wait for the load; a guest's workspace is given back. -/
def State.depart (s : State) (n k : Nat) (fx : Fx) (pkt : Nat) : State :=
  let s0 := s.flushPend n k
  let t := s0.thAt n k
  let c := s0.coreAt n
  let regs := (List.range 15).map (fun i => c.reg t.wp (i + 1))
  let m : Migrant := { pkt := pkt, th := t, regs := regs, fx := fx, core := n, slot := k }
  let s1 := (if (s0.slotAt n k).st == .guest then s0.modCore n (fun c => c.setFree t.wp true) else s0).leaveSlot n k
  { s1.modCore n (fun x => { x with rx0 := c.rx0, rx1 := c.rx1, heldWords := c.heldWords }) with migrants := s1.migrants ++ [m] }

/-- The words that a migrating group pops leave their queues at the core it left. -/
def State.popAt (s : State) (m : Migrant) : State :=
  s.modCore m.core (fun c => m.fx.pops.foldl (fun c p => c.portPop m.th m.slot p) (c.popHeld m.th.uid))

/-- The thread of a migrating group goes on at home (R128): with the value, the words that its group pops leave their queues
and the whole group is performed as the thread enters a slot; or a trap waits for its next issue. It stands ahead of the
tasks of its priority, as a returning guest does (DESIGN CHOICE, log 62). -/
def State.migrantHome (s : State) (m : Migrant) (v : Option Vec) (trap : Option TrapInfo) : State :=
  let h := m.th.home
  let t := { m.th with wp := m.th.homeWp }
  let s0 : State := { s with migrants := s.migrants.filter (fun x => x.pkt != m.pkt) }
  let s1 := (s0.poke h (wsBase t.homeWp + 8) (m.regs.flatMap (fun w => toBytes 8 w.toNat))).savePcSw h t
  match v with
  | none => (s1.modCore m.core (fun c => c.giveBack t.uid)).requeue { t with trapNext := trap } true
  | some v => ((s1.popAt m).requeue t true).modCore h (fun c => { c with
      rq := mapIf (fun e => e.th.uid == t.uid) (fun e => { e with held := some ({ m.fx with pops := [] }, v) }) c.rq })

/-- The remote read of a thread that found no slot (R128), whose window was asked on arrival (R167): the value or the trap
waits for a run-queue entry at the thread's home. -/
def State.migrantRead (s : State) (m : Migrant) (p : Packet) (n : Nat) : State :=
  let s0 : State := { s with net := s.net.filter (fun q => q.id != p.id) }
  let back (s : State) (r : Option Vec × Option TrapInfo) : State :=
    { s with migrants := mapIf (fun x => x.pkt == m.pkt) (fun x => { x with back := some r }) s.migrants }
  match p.kind with
  | .mig k =>
    if s.isBad 0 n p.loc k then back (s0.homeError p) (none, some { code := 12, acc := 1, addr := p.va })
    else back s0 (some (BitVec.ofNat 512 (ofBytes (s.loadL n p.loc k))), none)
  | _ => s

/-- A thread that has left its slot takes a free slot of the target as a guest, and its load is performed there as an ldl
(R128). -/
def State.settleGuest (s : State) (m : Migrant) (p : Packet) (n k sl ws : Nat) : State :=
  let v := BitVec.ofNat 512 (ofBytes (s.loadL n p.loc k))
  let h := m.th.home
  let s1 : State := { s with migrants := s.migrants.filter (fun x => x.pkt != m.pkt), net := s.net.filter (fun q => q.id != p.id) }
  let s2 := s1.modCore n (fun c => (c.setFree ws false).setSlot sl { c.slotAt sl with
    st := .guest, th := { m.th with wp := ws }, hold := none, pend := [], stalled := false })
  let s3 := s2.poke n (wsBase ws + 8) (m.regs.flatMap (fun w => toBytes 8 w.toNat))
  let s4 := (s3.poke n (wsBase ws + 848) ((s.coreAt h).lmem.bytes (wsBase m.th.homeWp + 848) 16)).popAt m
  let fx := m.fx.withReply v {}
  let far (r : Nat) : Bool := decide (15 < r) && decide (r < 28)
  let s5 := (fx.wr.filter (fun w => far w.1)).foldl (fun s (w : Nat × Word) => s.setReg h m.th.homeWp w.1 w.2) s4
  let s6 := fx.vwr.foldl (fun s (w : Nat × Vec) => s.setVreg h m.th.homeWp w.1 w.2) s5
  s6.perform n sl { fx with pops := [], vwr := [], wr := fx.wr.filter (fun w => !far w.1) } false

/-- A thread that may migrate leaves its slot and takes a free slot of the target as a guest, or waits for one (R128). -/
def State.migrate (s : State) (p : Packet) (n k : Nat) : State :=
  match s.whereIs p.src.uid with
  | none => s
  | some (n0, k0) =>
    match (s.slotAt n0 k0).hold with
    | some (.reply _, fx) =>
      let s1 := s.depart n0 k0 fx p.id
      let s2 : State := { s1 with migrants := mapIf (fun x => x.pkt == p.id) (fun x => { x with age := (s1.coreAt n).cycles + 1 }) s1.migrants }
      (match s2.migrants.find? (fun m => m.pkt == p.id), (s2.coreAt n).freeSlot?, (s2.coreAt n).lowFree with
      | some m, some sl, some ws => s2.settleGuest m p n k sl ws
      | _, _, _ => s2)
    | _ => s

/-- MIGRATION_ARRIVAL: the window's verdict is given once, on arrival (R167). Where it grants migration the thread leaves its
slot and takes a free slot of the target as a guest, or waits for one; else the load is a plain ldr for the thread in its
slot (R196). A thread that waited for a slot loads as an ldl does when it gets one: a claim holds it, and an uncorrectable
error is its trap (R216, R369). The context of a thread may be stopped at the target (R372): then the load is a plain one. -/
def execMigrationArrival (pkt : Nat) (s : State) : Host.Outcome State Fault Refusal :=
  match s.net.find? (fun p => p.id == pkt) with
  | none => .next s
  | some p =>
    match p.kind, p.space with
    | .mig k, .core n =>
      let q := { p with kind := .load k }
      match s.migrants.find? (fun m => m.pkt == pkt) with
      | some m =>
        (match (s.coreAt n).freeSlot?, (s.coreAt n).lowFree with
        | some sl, some ws =>
          if decide (m.age + 256 ≤ (s.coreAt n).cycles + 1) || s.thStopped n m.th || m.back.isSome then .next s
          else if s.claimedL n p.loc k then .next (s.waitHere p)
          else if s.isBad 0 n p.loc k then .next (s.migrantRead m p n)
          else .next (s.settleGuest m p n k sl ws)
        | _, _ => .next s)
      | none =>
        if s.behind p || s.dueBefore p then .next s
        else if !p.waiting && !s.windowOk n p.src 6 p.loc k || s.noCore n then
          let s1 : State := { s with net := mapIf (fun x => x.id == pkt) (fun _ => q) s.net }
          .next (if !s.admits q n then s.refuse q n else if s.claimedL n p.loc k then s1.waitHere q else s.performAt q)
        else if s.claimedL n p.loc k then .next (s.waitHere p)
        else if s.isBad 0 n p.loc k || (match s.thOf p.src.uid with
            | some t => s.thStopped n t || s.thStopped p.src.core t
            | none => true) then .next (s.performAt q)
        else .next (s.migrate p n k)
    | _, _ => .next s

/-- MIGRATION_TIMEOUT: no slot for 256 cycles of the target: an ordinary remote read, whose value goes home with the thread
once the run queue there has an entry free (R128). -/
def execMigrationTimeout (pkt : Nat) (s : State) : Host.Outcome State Fault Refusal :=
  match s.migrants.find? (fun m => m.pkt == pkt) with
  | none => .next s
  | some m =>
    match m.back with
    | some r => if (s.coreAt m.th.home).rqFree then .next (s.migrantHome m r.1 r.2) else .next s
    | none =>
      match s.net.find? (fun p => p.id == pkt) with
      | none => .next s
      | some p => match p.space with
        | .core n => if decide ((s.coreAt n).cycles + 1 < m.age + 256) && !s.thStopped n m.th then .next s
          else if p.runs.any (fun r => s.claimedL n r.1 r.2) then .next (s.waitHere p)
          else .next (s.migrantRead m p n)
        | _ => .next s

/-! ### The speculative buffer drains (R127, R224) -/

/-- The bytes of the thread's own core that an entry of its buffer writes: those entries are performed at once, in their
order, when the buffer drains. -/
def BufEntry.ownRuns (e : BufEntry) (n : Nat) : List (Nat × Nat) :=
  match e with
  | .line sp ln _ m .. => if sp == .core n then (maskRuns m).map (fun r => (ln + r.1, r.2)) else []
  | .amo p => if p.space == .core n then p.runs else []

/-- An entry for the own core meets a range lock or a claim. -/
def State.drainWaits (s : State) (n : Nat) (buf : List BufEntry) : Bool :=
  buf.any (fun e => (e.ownRuns n).any (fun r => s.lockedL n r.1 r.2))

/-- A posted access to the own core as its home performs it when it arrives (R167, R208). -/
def State.postOwn (s : State) (n : Nat) (p : Packet) : State :=
  let r := s.post p
  let q := { p with id := r.1 }
  if r.2.admits q n then r.2.performAt q else r.2.refuse q n

/-- One store of a buffered line of the own core is performed (R127, R224): a local store needs no window (R167); one by the
aperture is an access of its own, with its own address for the deferred record (R227). -/
def State.drainPart (s : State) (t : Thread) (p : Packet) (x : Option Word × Vec × BitVec 64) : State :=
  match x.1 with
  | some va => s.postOwn t.home { p with va := va, kind := .store x.2.1 x.2.2 }
  | none =>
    let a := p.loc + ((maskRuns x.2.2).headD (0, 0)).1
    if s.homeMergeBad p.space p.loc x.2.2 then
      (s.localError t.home a t).modUid t.uid (fun t => t.refuse 12 2 (BitVec.ofNat 64 a) 0)
    else (s.homeStore p.space p.loc x.2.1 x.2.2 p.pol).wrote t.uid p.space p.loc

/-- Drain one entry of a thread's buffer (R126, R127, R224): the stores of a line of the own core are performed at once, in
program order; a line of another home is one access on its way there. -/
def State.drainEntry (s : State) (t : Thread) (e : BufEntry) : State :=
  match e with
  | .amo p => if p.space == .core t.home then s.postOwn t.home p else (s.post p).2
  | .line sp ln d m pol cnt parts =>
    let home : Home := match sp with
      | .core n => .core n
      | .dev => .slice (72 * (ln / (3 * 2 ^ 36)) + ln % (3 * 2 ^ 36) / 256 % 72)
      | .host => .host
      | .remote p => .remote p
    let p : Packet := { src := { pkg := s.pkgNo, core := t.home, lin := t.lin, uid := t.uid, ctx := t.ctx }, home := home, space := sp,
                        va := (parts.findSome? (fun x => x.1)).getD 0, loc := ln, pol := pol, kind := .store d m, sc := some 0, cnt := cnt }
    if sp == .core t.home then parts.foldl (fun s x => s.drainPart t { p with cnt := 1 } x) s else (s.post p).2

/-- Drain a thread's buffer in the order of first write and empty its read set (R127, R224). -/
def State.drainBuf (s : State) (t : Thread) : State :=
  (t.buf.foldl (fun s e => s.drainEntry t e) s).modUid t.uid (fun t => { t with buf := [], reads := [] })

/-- The head of a chain waits in a baton instruction. -/
def State.atBaton (s : State) (u : Nat) : Option (Nat × Nat) :=
  match s.whereIs u with
  | some (n, k) => (match (s.slotAt n k).hold with
    | some (.baton, _) => some (n, k)
    | _ => none)
  | none => none

/-- The holder of a chain that waits in a baton instruction passes the baton on (R156) once what it has written is
performed, so that every line it drained is compared with the younger iterations' reads (R127). -/
def State.passBaton (s : State) (u : Nat) : State :=
  match s.atBaton u with
  | some (n, k) => if s.unacked u n 5 then s else s.completeHold n k 0
  | none => s

/-- SW.ra of a thread falls (R127): in its slot, or in the workspace from which it will go on (R20). -/
def State.clearRa (s : State) (t : Thread) : State :=
  let s1 := s.modUid t.uid (fun t => { t with sw := setBit t.sw 61 false })
  if (s.coreAt t.home).rq.any (fun e => e.th.uid == t.uid && !e.fresh) then
    s1.pokeW t.home (wsBase t.homeWp + 776) (setBit ((s.coreAt t.home).word (wsBase t.homeWp + 776)) 61 false)
  else s1

/-- BATON_RECEIVE: the oldest iteration of a chain receives the baton (R126, R127): SW.ra falls and its buffer drains. The
writes of a holder that was killed are awaited first. -/
def execBatonReceive (chain : Nat) (s : State) : Host.Outcome State Fault Refusal :=
  let c := s.chains.get {} chain
  match c.iters with
  | [] => .next { s with chains := s.chains.del chain }
  | u :: _ =>
    if c.baton then .next (s.passBaton u)
    else if c.past.any (fun x => s.unacked x 0 5) then .next s
    else
    match s.thOf u with
    | none => .next s
    | some t =>
      if s.drainWaits t.home t.buf then .next s
      else
        let s1 := s.clearRa t
        let s2 : State := { s1 with chains := s1.chains.set chain { c with baton := true, past := [] } }
        .next ((s2.drainBuf t).passBaton u)

/-- SCORE_MESSAGE_INSERT: a score message is inserted into its mailbox row (R302, R304). -/
def execScoreMessageInsert (pkt : Nat) (s : State) : Host.Outcome State Fault Refusal :=
  match s.net.find? (fun p => p.id == pkt) with
  | none => .next s
  | some p =>
    match p.kind, p.space with
    | .score row es job, .core n =>
      let s1 : State := if p.src.far then s.answer p .ack else { s with net := s.net.filter (fun q => q.id != pkt) }
      if s.behind p then .next s
      else if s.noCore n then .next (s.refuse p n)
      else .next (s1.scoreArrive n row es (if p.src.far then none else some job))
    | _, _ => .next s

end Sys2Proof.Machine
end

