-- ==== Sys2Proof/Machine/EvFab.lean ====
section
/-! DEFINITION. The optical fabric and the peers (21 R385-R402, 22 R405-R412): marks, frames, numbering, relaying, hellos,
and what arrives from other packages. -/

namespace Sys2Proof.Machine

/-! ### The calendar (R388-R395) -/

/-- log2 of the domain size. -/
def State.lgn (s : State) : Nat := bits s.pkg.calcfg 10 8
/-- The peer of a port in a slot (R389); none where the port is fallow. -/
def State.peerOf (s : State) (a p slot : Nat) : Option Nat :=
  let k := (8 * p + slot) % 2 ^ s.lgn
  if k = 0 then none else some (a ^^^ k)
/-- The state field of a port (R393). -/
def State.portSt (s : State) (p : Nat) : Nat := bits (s.pkg.optport.get 0 p) 62 61
/-- A port. -/
def State.port (s : State) (p : Nat) : Port := s.ports.get {} p
/-- Change a port. -/
def State.modPort (s : State) (p : Nat) (f : Port → Port) : State := { s with ports := s.ports.set p (f (s.port p)) }
/-- Set the state field of a port. -/
def State.setPortSt (s : State) (p st : Nat) : State :=
  s.modPkg (fun q => { q with optport := q.optport.set p (setSt (q.optport.get 0 p) st) })
/-- Add to a 16-bit count of OPTPORTp at a bit, saturating (R393). -/
def State.countPort (s : State) (p lo : Nat) : State :=
  s.modPkg (fun q => let w := q.optport.get 0 p
    { q with optport := q.optport.set p (merge w (fld lo (Nat.min 65535 (bits w (lo + 15) lo + 1))) (lo + 15) lo) })

/-- link(a, s): the packages that a's ports name in a slot (R394). -/
def State.link (s : State) (a slot : Nat) : List Nat := (List.range 16).filterMap (fun p => s.peerOf a p slot)
/-- linkown(i, s): those that this package's ports in service name (R394). -/
def State.linkOwn (s : State) (slot : Nat) : List Nat :=
  (List.range 16).filterMap (fun p => if s.portSt p = 2 then s.peerOf s.pkgNo p slot else none)
/-- The distance in slots from slot T to the next that meets a condition, 1 to 8 (R394). -/
def nextSlot (t : Nat) (f : Nat → Bool) : Option Nat := ((List.range 8).map (fun d => d + 1)).find? (fun d => f ((t + d) % 8))
/-- dnext(a, b, T) - T. -/
def State.dnext (s : State) (a b t : Nat) : Option Nat := nextSlot t (fun x => (s.link a x).contains b)
/-- downx(i, j, T) - T. -/
def State.downx (s : State) (j t : Nat) : Option Nat := nextSlot t (fun x => (s.linkOwn x).contains j)

/-- A relay offer to package r for destination j is allowed in a slot (R395). -/
def State.mayRelay (s : State) (r j t : Nat) : Bool :=
  s.pkg.relaycfg.getLsbD 63 && j != r && !(s.linkOwn (t % 8)).contains j
    && (match s.dnext r j t, s.downx j t with
      | some d, some x => decide (d < x)
      | some _, none => true
      | none, _ => false)

/-! ### Frame marks (R391-R393) -/

/-- What a slot boundary makes of a port in service (R391-R393): out of service where svc is clear, lost after eight failed
linked slots, acquiring again after the marks of four slots in a row are missed. -/
def State.portSettle (s : State) (p : Nat) : State :=
  if s.portSt p ≠ 2 then s
  else if !(s.pkg.optport.get 0 p).getLsbD 63 then s.setPortSt p 0
  else if 8 ≤ (s.port p).badRun then s.setPortSt p 3
  else if 4 ≤ (s.port p).missed then (s.setPortSt p 1).modPort p (fun x => { x with marks := 0 })
  else s

/-- What a port keeps when a slot ends and skip more have passed (R391, R392, R397): whether its mark came, whether every frame
of a linked slot failed; reservations of the peer of that slot end, the grants made in it come into force. -/
def State.portTurn (s : State) (p old skip : Nat) : State :=
  State.portSettle (s.modPort p (fun x =>
    let roll (t : Tbl Nat) : Tbl Nat := match s.peerOf s.pkgNo p old with
      | some r => (t.set r (t.get 0 (128 + r))).set (128 + r) 0
      | none => t
    { x with badRun := if x.seen then (if x.good then 0 else x.badRun + 1) else x.badRun, seen := false, good := false
             missed := (if x.marked then 0 else x.missed + 1) + skip, marked := false
             flits := 0, offered := 0, bulkLast := false, done := false, waited := false, relayed := 0
             grants := roll x.grants, given := roll x.given })) p

/-! ### Sending (R385, R394-R397) -/

/-- Flits of a packet on the wire. -/
def wireFlits (ws : List Word) : Nat := (8 * ws.length + 63) / 64
/-- Flits of a packet on the wire. -/
def EPkt.flits (e : EPkt) : Nat := wireFlits e.words
/-- The flits of a transmit window (R385). -/
def windowFlits : Nat := 2619 * 64
/-- A packet that may be sent: request and reply packets only once numbered (R400). -/
def EPkt.ready (e : EPkt) : Bool := e.relay || decide (2 ≤ e.cls) || e.seq.isSome

/-- The heads of the own queues for a destination, by class (R394). -/
def State.heads (s : State) (dst : Nat) : List (Nat × EPkt) :=
  [0, 1, 2, 3].filterMap (fun c =>
    match (s.egress.zipIdx.find? (fun e => e.1.dst == dst && e.1.cls == c && !e.1.relay && !e.1.again)) with
    | some e => if e.1.ready then some (e.2, e.1) else none
    | none => none)

/-- The budget of a head (R396): a message's finite one; whatever has none comes after it. -/
def EPkt.budget (e : EPkt) : Nat := if wireIsMsg e.words then bits (e.words.getD 7 0) 32 17 else 0xFFFF

/-- The head that a port takes next for a peer (R396 row 3): bulk, unless the frame before was bulk and others wait; of these
the late ones last, the lower budget first, of equal budgets reply, system, request (DEDUCED, log 42); one that has waited out
its threshold comes first (R366). -/
def pickHead (bulkLast : Bool) (hs : List (Nat × EPkt)) : Option (Nat × EPkt) :=
  let rank (e : EPkt) : Nat := if e.due then 0
    else 1 + 4 * (if e.late then 0x10000 else e.budget) + (match e.cls with | 1 => 0 | 3 => 1 | _ => 2)
  let others := (hs.filter (fun h => h.2.cls != 2)).foldl (fun (b : Option (Nat × EPkt)) h => match b with
    | none => some h
    | some x => if rank h.2 < rank x.2 then some h else some x) none
  let bulk := hs.find? (fun h => h.2.cls == 2)
  match bulk, others with
  | none, o => o
  | b, none => b
  | b, o => if bulkLast then o else b

/-- The relay offers of a port in a slot (R395, R396 row 4): by the slot in which the relay reaches the destination, then
by destination; copies that are sent again first (R401), then each queue from its head. -/
def State.offers (s : State) (r t : Nat) : List (Nat × EPkt) :=
  let dsts := (List.range (2 ^ s.lgn)).filter (fun j => j != s.pkgNo && s.mayRelay r j t)
  let key (j : Nat) : Nat := 256 * (s.dnext r j t).getD 9 + j
  let sorted := dsts.foldl (fun acc j => acc.takeWhile (fun x => decide (key x < key j)) ++ [j] ++ acc.dropWhile (fun x => decide (key x < key j))) []
  sorted.flatMap (fun j => (s.egress.zipIdx.filter (fun e => e.1.dst == j && e.1.again)).map (fun e => (e.2, e.1)) ++ s.heads j)

/-- The packet that a port would send now, with whether it is a relay offer (R396): a frame that has begun goes on with bulk or
with the others, as it began. -/
def State.pick (s : State) (p r : Nat) : Option (Nat × EPkt × Bool) :=
  let x := s.port p
  let fits (e : EPkt) : Bool := decide (x.flits + e.flits ≤ windowFlits)
  let bulkWas := if x.flits % 64 = 0 then x.bulkLast else !x.bulkLast
  let q := s.egress.zipIdx.map (fun e => (e.2, e.1))
  match q.find? (fun e => e.2.dst == r && e.2.again && fits e.2) with
  | some e => some (e.1, e.2, false)
  | none =>
    match q.find? (fun e => e.2.dst == r && e.2.relay && fits e.2) with
    | some e => some (e.1, e.2, false)
    | none =>
      match pickHead bulkWas ((s.heads r).filter (fun h => fits h.2)) with
      | some e => some (e.1, e.2, false)
      | none =>
        ((s.offers r s.calT).find? (fun e => fits e.2 && decide (x.offered + e.2.flits ≤ 64 * x.grants.get 0 r))).map (fun e => (e.1, e.2, true))

/-- The port to which the next packet of a queue falls (R396): the ports that link the peer take turns in ascending cyclic
order, those with no room left out. -/
def State.duePort (s : State) (r : Nat) (e : EPkt) : Nat :=
  let slot := s.calT % 8
  let ports := (List.range 16).filter (fun p => s.portSt p == 2 && s.peerOf s.pkgNo p slot == some r && !(s.port p).done
    && decide ((s.port p).flits + e.flits ≤ windowFlits))
  let last := s.turns.get 0 (4 * e.dst + e.cls)
  (ports.find? (fun p => decide (last ≤ p))).getD (ports.headD 0)

/-- The header of a frame (R386). -/
def State.frameHeader (s : State) (p r grant index : Nat) : Word :=
  fld 57 s.pkgNo ||| fld 50 r ||| fld 47 s.lgn ||| fld 44 (s.calT % 8) ||| fld 40 p ||| fld 16 grant ||| fld 0 index

/-- The last frame of a port, changed. -/
def onLast (p : Nat) (f : Word × List (List Word) → Word × List (List Word)) :
    List (Nat × Word × List (List Word)) → List (Nat × Word × List (List Word))
  | [] => []
  | x :: l => if x.1 == p && !l.any (fun y => y.1 == p) then (p, f x.2) :: l else x :: onLast p f l

/-- A packet goes into the frames of a port's window (R385): into the frame that has room, or a new one, and on into the
frames that its flits fill. -/
def State.framed (s : State) (p r : Nat) (e : EPkt) : List (Nat × Word × List (List Word)) :=
  let n := (s.port p).flits
  let l := if n % 64 ≠ 0 && s.sent.any (fun y => y.1 == p) then onLast p (fun x => (x.1, x.2 ++ [e.words])) s.sent
    else s.sent ++ [(p, s.frameHeader p r 0 (n / 64), [e.words])]
  l ++ (List.range ((n + e.flits - 1) / 64 - n / 64)).map (fun i => (p, s.frameHeader p r 0 (n / 64 + 1 + i), []))

/-- Frames of the relay buffer (R178, R397) that are neither used nor reserved. -/
def State.relayFree (s : State) : Nat :=
  8192 * bits s.pkg.llcpart 11 8 - (((s.egress.filter (fun e => e.relay)).map (fun e => (e.flits + 63) / 64)).sum
    + (s.ports.map (fun p => (p.2.given.map (fun g => g.2)).sum - p.2.relayed / 64)).sum)

/-- The relay grant that this package sends (R397). -/
def State.grantOut (s : State) : Nat :=
  if s.pkg.relaycfg.getLsbD 63 then Nat.min (bits s.pkg.relaycfg 11 0) s.relayFree else 0

/-- A packet leaves: a copy is kept until it is acknowledged, a relayed one is counted (R398, R401). -/
def State.leaves (s : State) (i : Nat) (e : EPkt) : State :=
  let s1 : State := { s with egress := s.egress.eraseIdx i }
  if e.relay then s1.modPkg (fun p => { p with relayFwd := Nat.min (p.relayFwd + 1) 0xFFFFFFFF })
  else match e.seq with
  | none => s1
  | some n =>
    let k := 2 * e.dst + e.cls
    let pr := s1.pairs.get {} k
    { s1 with pairs := s1.pairs.set k { pr with copies := mapIf (fun c => c.1 == n) (fun c => (c.1, c.2.1, s.homeUs + 1)) pr.copies } }

/-- A port's window ends (R397, R398): the last frame, or where there is none a grant frame, carries the grant; a relay offer
that found no grant counts its slot. -/
def State.closeWindow (s : State) (p r : Nat) : State :=
  let g := s.grantOut
  let s1 := s.modPort p (fun x => { x with done := true, given := x.given.set (128 + r) g })
  let s2 : State := { s1 with sent := if 0 < (s.port p).flits then onLast p (fun x => (merge x.1 (fld 16 g) 27 16, x.2)) s.sent
                                      else if g = 0 then s.sent else s.sent ++ [(p, s.frameHeader p r g 0, [])] }
  let lacks := !(s.offers r s.calT).isEmpty && (s.port p).grants.get 0 r == 0 && (s.ports.all (fun q => !q.2.waited))
  if lacks then (s2.modPort p (fun x => { x with waited := true })).modPkg (fun q => { q with relayWait := Nat.min (q.relayWait + 1) 0xFFFFFFFF })
  else s2

/-- A new slot begins for the package (R390): each window that stands open ends with its grant (R397), and all ports step
together; a completed cycle ages the hellos of peers. -/
def State.newSlot (s : State) (slot : Nat) : State :=
  let old := s.calSlot.getD slot
  let t := match s.calSlot with
    | some _ => s.calT + 1 + (slot + 8 - (s.calT + 1) % 8) % 8
    | none => slot
  let s0 := if s.calSlot.isNone then s else (List.range 16).foldl (fun s p => match s.peerOf s.pkgNo p old with
    | some r => if s.portSt p = 2 && !(s.port p).done then s.closeWindow p r else s
    | none => s) s
  let s1 := (List.range 16).foldl (fun s p => s.portTurn p old (if s.calSlot.isSome then t - s.calT - 1 else 0)) s0
  let aged := if s.calSlot.isSome && decide (s.calT / 8 < t / 8) then
      (List.range (2 ^ s.lgn)).foldl (fun (h : Tbl Nat) j => if j = s.pkgNo then h else h.set j (h.get 0 j + 1)) s1.helloAge
    else s1.helloAge
  { s1 with calSlot := some slot, calT := t, calBase := if s.calSlot.isNone then t else s.calBase, turns := []
            helloAge := aged, helloSent := if s.calSlot.isNone then [] else s1.helloSent }

/-- No port in service: no slot is current (R391). -/
def State.calendarLost (s : State) : State :=
  if (List.range 16).any (fun p => s.portSt p == 2) then s else { s with calSlot := none }

/-- A mark reaches a port in service: it starts its slot for the package, unless another port's mark has. -/
def State.markIn (s : State) (port slot : Nat) : State :=
  let s1 := if s.calSlot = some slot then s else s.newSlot slot
  s1.modPort port (fun x => { x with last := slot, marked := true, missed := 0, markUs := s.homeUs })

/-- FRAME_MARK: a port receives the mark of a slot: it acquires after 8 consecutive ones; the mark starts the slot; a port
whose svc is clear leaves service (R391, R393). -/
def execFrameMark (port slot : Nat) (s : State) : Host.Outcome State Fault Refusal :=
  if 16 ≤ port || 8 ≤ slot || !s.pkg.calcfg.getLsbD 63 then .next s
  else if !(s.pkg.optport.get 0 port).getLsbD 63 then .next (s.setPortSt port 0).calendarLost
  else
    let x := s.port port
    match s.portSt port with
    | 1 =>
      let m := if 0 < x.marks && slot == (x.last + 1) % 8 then x.marks + 1 else 1
      let s1 := s.modPort port (fun x => { x with marks := m, last := slot })
      if m < 8 then .next s1
      else .next (((s1.modPort port (fun x => { x with marked := true, missed := 0, badRun := 0 })).markIn port slot).setPortSt port 2)
    | 2 => .next ((s.modPort port (fun x => { x with missed := 0, marked := true })).markIn port slot).calendarLost
    | _ => .next s

/-- A port in service has missed the marks of four slots in a row (R391): slots that other ports have begun, or, where it hears
no mark at all, four slots of 3.2 µs by the reference counter. -/
def State.missedFour (s : State) (p : Nat) : Bool := decide (4 ≤ (s.port p).missed) || decide ((s.port p).markUs + 14 ≤ s.homeUs)

/-- MARKS_MISSED: a port in service that misses the marks of 4 consecutive slots returns to acquiring (R391), or is off where
svc is clear (R393). -/
def execMarksMissed (port : Nat) (s : State) : Host.Outcome State Fault Refusal :=
  if 16 ≤ port || s.portSt port != 2 || !s.missedFour port then .next s
  else .next ((s.setPortSt port (if (s.pkg.optport.get 0 port).getLsbD 63 then 1 else 0)).modPort port (fun x => { x with marks := 0 })).calendarLost

/-- PORT_LOST: after 8 consecutive linked slots whose every frame failed to match, the port is lost (R392). -/
def execPortLost (port : Nat) (s : State) : Host.Outcome State Fault Refusal :=
  if 16 ≤ port || s.portSt port != 2 || decide ((s.port port).badRun < 8) then .next s
  else .next (s.setPortSt port 3).calendarLost

/-- FRAME_TRANSMIT: in its window a port sends its next packet, or ends its window (R385, R395-R397). -/
def execFrameTransmit (port : Nat) (s : State) : Host.Outcome State Fault Refusal :=
  if 16 ≤ port || s.portSt port != 2 || s.calSlot.isNone || (s.port port).done then .next s
  else match s.peerOf s.pkgNo port (s.calT % 8) with
  | none => .next s
  | some r =>
    match s.pick port r with
    | none => .next (s.closeWindow port r)
    | some (i, e, offer) =>
      if s.duePort r e != port then .next s
      else
        let s1 : State := { s with sent := s.framed port r e, turns := s.turns.set (4 * e.dst + e.cls) (port + 1) }
        let s2 := s1.modPort port (fun x => { x with flits := x.flits + e.flits, bulkLast := e.cls == 2,
                                                     offered := if offer then x.offered + e.flits else x.offered })
        .next ((if e.late then s2.passLate ((dieRoute e.die (port / 4)).filter (fun d => !e.dies.contains d)) else s2).leaves i e)

/-! ### Peers (R410-R412) -/

/-- PEER_TIMEOUT: no hello of package j for 8 calendar cycles while a port is in service: peer reset, v cleared and the epoch
advanced (R412). The eight cycles are counted anew after that (DEDUCED, log 42). -/
def execPeerTimeout (j : Nat) (s : State) : Host.Outcome State Fault Refusal :=
  if j = s.pkgNo || decide (2 ^ s.lgn ≤ j) || decide (s.helloAge.get 0 j < 8) || !(List.range 16).any (fun p => s.portSt p == 2) then .next s
  else
    let s1 := s.clearPeer j
    .next { s1 with helloAge := s1.helloAge.set j 0 }

/-- What a hello does to PEERj (R412): its three cases in order. -/
def State.hello (s : State) (j : Nat) (inc ep : Nat) : State :=
  let w := s.pkg.peers.get 0 j
  let put (s : State) (f : Word → Word) : State := s.modPkg (fun p => { p with peers := p.peers.set j (f (p.peers.get 0 j)) })
  let d := (ep + 256 - bits w 55 48) % 256
  let s1 :=
    if bits w 47 32 = 0 ∨ inc ≠ bits w 47 32 then
      put (s.peerReset j) (fun w => merge w (fld 63 1 ||| fld 48 ep ||| fld 32 inc) 63 32)
    else if 1 ≤ d ∧ d ≤ 127 then
      put (if w.getLsbD 63 then s.peerReset j else s) (fun w => merge (setBit w 63 true) (fld 48 ep) 55 48)
    else put s (fun w => setBit w 63 true)
  { s1 with helloAge := s1.helloAge.set j 0 }

/-- HELLO_RECEIVE: a hello of another package of the domain (R412). -/
def execHelloReceive (j : Nat) (inc : BitVec 16) (ep : BitVec 8) (s : State) : Host.Outcome State Fault Refusal :=
  if j = s.pkgNo || decide (2 ^ s.lgn ≤ j) || !s.pkg.calcfg.getLsbD 63 then .next s else .next (s.hello j inc.toNat ep.toNat)

/-- A hello is due to package j (R412): in the first slot of a cycle that links the two, once. -/
def State.helloDue (s : State) (j : Nat) : Bool :=
  j != s.pkgNo && decide (j < 2 ^ s.lgn) && s.pkg.calcfg.getLsbD 63 && s.calSlot.isSome && (s.linkOwn (s.calT % 8)).contains j
    && (List.range (s.calT % 8)).all (fun x => !(s.link s.pkgNo x).contains j) && s.helloSent.get 0 j != s.calT / 8 + 1

/-- HELLO_SEND: once per cycle, in its first linked slot with a package, a hello goes to it (R412). -/
def execHelloSend (j : Nat) (s : State) : Host.Outcome State Fault Refusal :=
  if s.helloDue j then .next ({ s with helloSent := s.helloSent.set j (s.calT / 8 + 1) }.egressPut j 3 1 []) else .next s

/-- An acknowledgement is due (R401): 64 packets have been delivered since the last one, or none has gone in this calendar cycle
and there is one to tell of: held, delivered, or come again, which tells that its sender has no acknowledgement (DEDUCED,
log 42). -/
def State.ackDue (s : State) (pkg cls : Nat) : Bool :=
  let p := s.pairs.get {} (2 * pkg + cls)
  decide (64 ≤ p.sinceAck) || ((p.sinceAck != 0 || !p.heldPk.isEmpty || p.again) && p.ackAt != s.calT / 8 + 1)

/-- SEQUENCE_ACK: the number expected next from a package in a class is sent to it when it is due (R401). -/
def execSequenceAck (pkg cls : Nat) (s : State) : Host.Outcome State Fault Refusal :=
  let k := 2 * pkg + cls
  let p := s.pairs.get {} k
  if 2 ≤ cls || !(s.pkg.peers.get 0 pkg).getLsbD 63 || !s.ackDue pkg cls then .next s
  else .next ({ s with pairs := s.pairs.set k { p with sinceAck := 0, again := false, ackAt := s.calT / 8 + 1 } }.egressPut pkg 3 2 [headWord 7 cls 0 0 0 0, BitVec.ofNat 64 p.rxNext])

/-- RETRANSMIT_TIMEOUT: a copy unacknowledged 102.4 µs after it was sent is sent again (R401). -/
def execRetransmitTimeout (pkg cls seq : Nat) (s : State) : Host.Outcome State Fault Refusal :=
  let p := s.pairs.get {} (2 * pkg + cls)
  match p.copies.find? (fun c => c.1 == seq) with
  | none => .next s
  | some c =>
    if 2 ≤ cls || c.2.2 == 0 || decide (s.homeUs + 1 < c.2.2 + 103) || s.egress.any (fun e => e.again && e.dst == pkg && e.cls == cls && e.seq == some seq) then .next s
    else .next { s with egress := s.egress ++ [{ dst := pkg, cls := cls, words := c.2.1, seq := some seq, again := true, die := pkg % 4 }] }

/-- LATE_PACKET_AGING: a late packet that has waited 65,536 cycles at its queue is served next (R366). -/
def execLatePacketAging (pkt : Nat) (s : State) : Host.Outcome State Fault Refusal :=
  .next { s with egress := s.egress.zipIdx.map (fun e => if e.2 = pkt ∧ e.1.late ∧ 65536 ≤ e.1.age then { e.1 with due := true } else e.1) }

/-! ### What arrives (R400, R402, R405-R411) -/

/-- A refusal to another package's access (R407). -/
def State.farRefuse (s : State) (p : Packet) (k : RKind) : State :=
  let r : Reply := { id := 0, src := p.src, posted := p.posted, cnt := p.cnt, va := p.va, acc := p.kind.acc, kind := k }
  s.egressPut p.src.pkg 1 0 r.payload

/-- The place of an access that arrives from another package (R405, R406, R408): by coordinates, by a physical address with
the policy of its leaf (R176), or translated here with the source's mode, served as a UC load where the engine asks for that
(R271), in the ways of R178. A physical address tells of no region: its lines allocate in general ways (DESIGN CHOICE,
log 73). -/
def State.farPlace (s : State) (die : Nat) (p : Packet) : Except RKind (Place × State) :=
  let coords := match p.kind with
    | .tdec _ | .score .. => true
    | _ => p.pol == 1
  if coords then
    let o := bits p.va 35 0
    .ok (.loc (s.place (hedgePos (64 * die)) p.src.ctx (linOf (o / 2 ^ 17 % 64) (o / 2 ^ 23 % 64))) (o % 2 ^ 17), s)
  else if p.pol = 2 then .ok (.dev p.va.toNat p.leaf, s)
  else match s.farWalk die p.src.ctx p.va with
  | .ok e =>
    if e.pol = 3 || !permits e p.src.sys (if 9 ≤ p.kind.acc then 2 else p.kind.acc) then .error (.remote 7 1)
    else
      let pl := match e.place p.va, p.pol with
        | .dev pa _, 3 => .dev pa 2
        | x, _ => x
      .ok (s.inWays p.src.ctx p.va pl, s.farInstall die e)
  | w => .error (farFault w)

/-- A recall from another package (R216): the job that claims the sector there writes it ahead of its other destinations. -/
def State.recallArrive (s : State) (p : Packet) : State :=
  s.modJob p.src.job p.src.ctx (fun j => if j.live then
    s.recalled j (fun c => c.pkg == p.src.pkg && (c.va == p.va.toNat / 64 * 64 || 64 * c.sector == p.va.toNat / 64 * 64)) else j)

/-- An access or message of another package enters the network of this one (R402, R405). -/
def State.farArrive (s : State) (die : Nat) (p : Packet) : State :=
  match p.kind with
  | .msg (h :: _) =>
    match s.place (hedgePos (64 * die)) p.src.ctx (linOf (bits h 50 45) (bits h 56 51)) with
    | some m => (s.post { p with home := .core m, space := .core m, mc := die }).2
    | none => s
  | .recall => s.recallArrive p
  | _ =>
    match s.farPlace die p with
    | .error k => (if k = .remote 12 1 then s.farRecord die p.src.ctx p.va else s).farRefuse p k
    | .ok (pl, s1) =>
      let loc := match p.kind, pl with
        | .store _ _, .loc _ o => o / 64 * 64
        | .store _ _, .dev pa _ => pa / 64 * 64
        | _, _ => pl.addr p.va
      (s1.post { p with home := pl.home, space := pl.space, loc := loc, pol := pl.pol }).2

/-- The answer of another package: the access that waits for it is answered (R193, R407). That a bulk packet is lost may be told
by the package that relayed it (R387). -/
def State.farAnswer (s : State) (org : Nat) (ws : List Word) : State :=
  let from_ (h : Space) : Bool := match h with
    | .remote j => j == org || replyKind ws == .dataErr
    | _ => false
  match s.net.find? (fun p => from_ p.space && p.id == (ws.getD 1 0).toNat) with
  | none => s
  | some p => s.answer p (replyKind ws)

/-- The answer to a translation request (R408): the waiting engines get the leaf or the failure. -/
def State.farLeaf (s : State) (org : Nat) (ws : List Word) : State :=
  let h := ws.getD 0 0
  let ctx := bits h 31 16
  let va := ws.getD 1 0
  let w (i : Nat) : Nat := (ws.getD (2 + i) 0).toNat
  let e : TlbEntry := { ctx := ctx, va := w 0, size := w 1, frame := w 2, x := w 3 % 2 == 1, usr := w 3 / 2 % 2 == 1,
                        w := w 3 / 4 % 2 == 1, pol := w 3 / 16 % 4, pkg := org, inc := bits (s.pkg.peers.get 0 org) 47 32 }
  let k : RKind := if bits h 7 4 = 0 then .leaf e else .remote (bits h 47 32) (bits h 63 48)
  (s.net.filter (fun p => p.space == .remote org && p.kind == .xreq && p.src.ctx == ctx && p.va == va)).foldl (fun s p => s.answer p k) s

/-- Step data of a collective exchange are lost (R387): the members that sent and that await them end in state error. -/
def State.clLost (s : State) (m : ClMsg) : State :=
  { s with jobs := mapIf (fun j => j.live && j.cl.went && j.ctx == m.ctx && (m.dst == s.pkgNo + 128 * dieOf j.lin || m.src == s.pkgNo + 128 * dieOf j.lin)
      && (match j.cl.lists[m.list]? with | some l => l.hasGrp && l.gid == m.gid | none => false)) Job.inError s.jobs }

/-- A packet of kind 0 is delivered (R402). -/
def State.farDeliver (s : State) (die org cls : Nat) (ws : List Word) : State :=
  match bits (ws.getD 0 0) 3 0 with
  | 0 | 1 => s.farArrive die (packetOf org cls ws)
  | 2 => s.farAnswer org ws
  | 3 => if (clOf ws).kind = 3 then s.clLost (clOf ws) else { s with clMsgs := s.clMsgs ++ [clOf ws] }
  | _ => s

/-- Deliver the held packets that follow one delivered, each on the die of its port (R400, R406). -/
def State.farDrain (s : State) (org cls : Nat) : Nat → State
  | 0 => s
  | fuel + 1 =>
    let k := 2 * org + cls
    let p := s.pairs.get {} k
    match p.heldPk.find? (fun h => h.1 == p.rxNext) with
    | none => s
    | some h =>
      let s1 : State := { s with pairs := s.pairs.set k { p with heldPk := p.heldPk.filter (fun x => x.1 != h.1), rxNext := (p.rxNext + 1) % 2 ^ 32, sinceAck := p.sinceAck + 1 } }
      State.farDrain (s1.farDeliver h.2.1 org cls (h.2.2.drop 2)) org cls fuel

/-- The receive stage for a numbered packet (R400). -/
def State.farNumbered (s : State) (die org cls n : Nat) (ws : List Word) : State :=
  let k := 2 * org + cls
  let p := s.pairs.get {} k
  let d := (n + 2 ^ 32 - p.rxNext) % 2 ^ 32
  if d = 0 then
    let s1 : State := { s with pairs := s.pairs.set k { p with rxNext := (p.rxNext + 1) % 2 ^ 32, sinceAck := p.sinceAck + 1 } }
    (s1.farDeliver die org cls (ws.drop 2)).farDrain org cls 256
  else if d ≤ 255 then
    if p.heldPk.any (fun h => h.1 == n) then { s with pairs := s.pairs.set k { p with again := true } }
    else { s with pairs := s.pairs.set k { p with heldPk := p.heldPk ++ [(n, die, ws)] } }
  else if 2 ^ 31 ≤ d then { s with pairs := s.pairs.set k { p with again := true } }
  else s.peerDrop org 1

/-- A sequence acknowledgement (R401): copies before the number are done with, waiting packets may be numbered. -/
def State.farAck (s : State) (org : Nat) (ws : List Word) : State :=
  let cls := bits (ws.getD 0 0) 7 4 % 2
  let x := (ws.getD 1 0).toNat % 2 ^ 32
  let k := 2 * org + cls
  let p := s.pairs.get {} k
  let before (n : Nat) : Bool := decide (2 ^ 31 ≤ (n + 2 ^ 32 - x) % 2 ^ 32)
  let gone := p.copies.filter (fun c => before c.1)
  State.number { s with
    pairs := s.pairs.set k { p with copies := p.copies.filter (fun c => !before c.1), txAcked := p.txAcked + gone.length }
    egress := s.egress.filter (fun e => !(e.again && e.dst == org && e.cls == cls && (match e.seq with | some n => before n | none => false))) } org cls

/-- A packet of the optical core at its final package (R411): a hello, or accepted by incarnations and epoch, or dropped. -/
def State.farPacketIn (s : State) (die : Nat) (ws : List Word) : State :=
  let e0 := ws.getD 0 0
  let e1 := ws.getD 1 0
  let org := bits e1 63 57
  let cls := bits e1 49 48
  let body := ws.drop 2
  let p := s.pkg.peers.get 0 org
  if bits e1 47 44 = 1 then (if org = s.pkgNo then s else s.hello org (bits e0 63 48) (bits e1 43 36))
  else if !(p.getLsbD 63 && bits e0 63 48 == bits p 47 32 && bits e0 47 32 == s.pkg.incarn && bits e1 43 36 == bits p 55 48
      && decide (bits e1 47 44 < 7)) then s.peerDrop org 1
  else match bits e1 47 44 with
  | 2 => s.farAck org body
  | 3 => s.translationAnswer die org (bits (body.getD 1 0) 15 0) (body.getD 4 0)
  | 4 => s.farLeaf org body
  | 5 => s.modPkg (fun q => { q with sdHeld := q.sdHeld ++ [(org, body.getD 1 0, body.getD 2 0)] })
  | 6 => s.modPkg (fun q => { q with sdWait := q.sdWait.filter (fun x => x != org) })
  | _ => if cls < 2 then s.farNumbered die org cls (bits e0 31 0) ws else s.farDeliver die org cls body

/-- A packet of a received frame: for this package, or held as relay for another (R395, R397). -/
def State.frameItem (s : State) (die : Nat) (ws : List Word) : State :=
  let fin := bits (ws.getD 1 0) 56 50
  if fin = s.pkgNo then s.farPacketIn die ws
  else
    let late := wireIsMsg ws && bits (ws.getD 7 0) 32 17 == 0
    { s with egress := s.egress ++ [{ dst := fin, cls := bits (ws.getD 1 0) 49 48, words := ws, relay := true, late := late, die := die }] }

/-- Bulk packets of a discarded frame are data errors of the jobs that sent them and of those that await them (R387): a job of
another package learns it by an answer to its access, or by a message of its exchange, also where this package only relays. -/
def State.bulkLost (s : State) (ws : List Word) : State :=
  let m := clOf (ws.drop 2)
  let org := bits (ws.getD 1 0) 63 57
  let fin := bits (ws.getD 1 0) 56 50
  if bits (ws.getD 1 0) 49 48 ≠ 2 then s
  else match bits (ws.getD 2 0) 3 0 with
  | 1 => s.farRefuse (packetOf org 2 (ws.drop 2)) .dataErr
  | 2 =>
    if fin ≠ s.pkgNo then s.egressPut fin 1 0 (Reply.payload { kind := .dataErr, cnt := (ws.getD 3 0).toNat })
    else (match s.net.find? (fun p => p.space == .remote org && p.id == (ws.getD 3 0).toNat) with
      | some p => s.answer p .dataErr
      | none => s)
  | 3 => [org, fin].eraseDups.foldl (fun s k => if k = s.pkgNo then s.clLost m else s.egressPut k 1 0 { m with kind := 3, data := [] }.payload) s
  | _ => s

/-- A packet of a frame that is for another package is taken in against this slot's grant, or not at all (R397). -/
def State.relayIn (s : State) (port r : Nat) (ws : List Word) : State :=
  let x := s.port port
  if bits (ws.getD 1 0) 56 50 = s.pkgNo then s.frameItem (port / 4) ws
  else if 64 * x.given.get 0 r < x.relayed + wireFlits ws then s
  else (s.modPort port (fun x => { x with relayed := x.relayed + wireFlits ws })).frameItem (port / 4) ws

/-- FRAME_RECEIVE: a frame arrives at a port: corrected or discarded, checked against the calendar, its grant kept, its packets
passed on, those to be relayed as far as this package has granted room (R387, R392, R397, R400, R411). -/
def execFrameReceive (port : Nat) (ok : Bool) (hdr : Word) (pkts : List (List Word)) (s : State) : Host.Outcome State Fault Refusal :=
  if 16 ≤ port || s.portSt port != 2 || s.calSlot.isNone then .next s
  else if !ok then .next ((pkts.foldl State.bulkLost (s.countPort port 0)).postError (errRecord 5 0 0 0 0 0))
  else
    match s.peerOf s.pkgNo port (s.calT % 8) with
    | none => .next (s.countPort port 16)
    | some r =>
      let s1 := s.modPort port (fun x => { x with seen := true })
      if !(bits hdr 63 57 == r && bits hdr 56 50 == s.pkgNo && bits hdr 49 47 == s.lgn && bits hdr 46 44 == s.calT % 8) then .next (s1.countPort port 16)
      else
        let s2 := s1.modPort port (fun x => { x with good := true, grants := if bits hdr 27 16 = 0 then x.grants else x.grants.set (128 + r) (bits hdr 27 16) })
        .next (pkts.foldl (fun s ws => s.relayIn port r ws) s2)

/-! ### Leaving the package -/

/-- An earlier packet of the same source, destination and class has not yet left (R210). -/
def State.behindOut (s : State) (p : Packet) : Bool :=
  (s.net.takeWhile (fun q => q.id != p.id)).any (fun q =>
    !q.waiting && q.src.same p.src && q.cls == p.cls && q.space == p.space && q.cls != 2 && q.cls != 3)

/-- A packet, or an answer to another package, enters the egress queue (R394), which lies on die j mod 4 (R384): a message is
gone from the package, an access stays known until it is answered. -/
def State.injectFar (s : State) (id : Nat) : State :=
  match s.replies.find? (fun r => r.id == id && r.src.far) with
  | some r => (s.dropReply id).egressPut r.src.pkg r.cls 0 r.payload
  | none =>
    match s.net.find? (fun p => p.id == id && !p.waiting) with
    | none => s
    | some p =>
      match p.space with
      | .remote j =>
        if s.behindOut p then s
        else
          let dies := if p.isLate then dieRoute (dieOf p.src.core) (j % 4) else []
          let out (s : State) : State := (s.passLate dies).egressPut j p.cls (if p.kind = .xreq then 3 else 0) p.payload p.isLate dies
          (match p.kind with
          | .msg _ | .recall => out { s with net := s.net.filter (fun q => q.id != id) }
          | _ => out { s with net := mapIf (fun q => q.id == id) (fun q => { q with waiting := true }) s.net })
      | _ => s

end Sys2Proof.Machine
end

