-- ==== Sys2Proof/Machine/EvSvc.lean ====
section
/-! DEFINITION. Starts, quotes, adaptive control and live service (24 R419-R427). -/

namespace Sys2Proof.Machine

/-! ### Starting (R419-R422) -/

/-- BOOTSTAT from its fields (R421). -/
def bootWord (kind wfail step cause : Nat) (safe done : Bool) : Word :=
  fld 62 kind ||| fld 61 (boolWord safe).toNat ||| fld 59 wfail ||| fld 48 step ||| fld 40 cause ||| fld 0 (boolWord done).toNat

/-- The incarnation after v (R422). -/
def incAfter (v : Nat) : Nat := if v < 65535 then v + 1 else 1

/-- The first incarnation from n on that no failed start has consumed (R422). -/
def incSkip (used : List Nat) : Nat → Nat → Nat
  | 0, n => n
  | fuel + 1, n => if used.contains n then incSkip used fuel (incAfter n) else n

/-- The incarnation that step 9 issues next (R422): none where neither copy reads. A number that a failed start has written to
a copy since lost is consumed, and is passed over (DEDUCED, log 8). -/
def Pkg.nextInc (p : Pkg) : Option Nat :=
  (match p.inc0, p.inc1 with
  | none, none => none
  | some a, none => some a
  | none, some b => some b
  | some a, some b => some (Nat.max a b)).map (fun v => incSkip p.incUsed p.incUsed.length (incAfter v))

/-! ### Starts (R420-R422) -/

/-- The images that a start measures, in order (R423). -/
def State.images8 (s : State) : List Measured :=
  [.firmware s.nextId, .routines s.nextId, .record s.pkg.recCal s.pkg.recAdv s.pkg.recPeers]

/-- Every image of a start passes its signature check (R423). -/
def State.signed (s : State) : Bool := s.images8.all (fun m => Config.imageOk m.bytes)

/-- The step at which a start fails, with its cause (R420, R421): which one, if any, is open and taken from the choices
(log 4); the signature check of step 8 and the incarnation store of step 9 decide for themselves. -/
def State.startFails (s : State) (cold : Bool) : Option (Nat × Nat) :=
  let c := s.choice 8
  if cold && c == 3 then some (3, 1)
  else if cold && c == 4 then some (4, 2)
  else if cold && c == 5 then some (5, 3)
  else if !s.signed then some (8, 4)
  else if s.pkg.nextInc.isNone then some (9, 5)
  else if c = 1 || c = 2 || c = 6 then some (9, 5)
  else none

/-- The incarnation copies after step 9 (R422): a copy whose write does not read back is unreadable; the number is consumed. -/
def State.writeInc (s : State) : State :=
  let c := s.choice 8
  match s.pkg.nextInc with
  | none => s
  | some n => s.modPkg (fun p => { p with
      inc0 := if c = 1 || c = 6 then none else some n
      inc1 := if c = 2 || c = 6 then none else some n
      incUsed := n :: p.incUsed })

/-- What a failed start leaves (R421): a failed warm start is tried again, the third failure makes the next attempt cold;
after a failed cold start only the I/O die runs. -/
def State.startFailed (s : State) (cold keep : Bool) (step cause : Nat) : State :=
  let w := if cold then 0 else Nat.min 3 (bits s.pkg.bootstat 60 59 + 1)
  s.modPkg (fun p => { p with
    bootstat := bootWord (if cold then 1 else 2) w step cause cold false
    safe := cold
    startReq := if cold then none else if 3 ≤ w then some (false, false) else some (true, keep) })

/-- The package registers after a start (R420): reset values but for the start record, INCARN, MEAS and BOOTSTAT. -/
def Pkg.restarted (p : Pkg) (n kind : Nat) (ms : List Measured) : Pkg :=
  { calcfg := p.recCal, optport := p.recAdv, peers := p.recPeers, recCal := p.recCal, recAdv := p.recAdv, recPeers := p.recPeers
    incarn := n, inc0 := p.inc0, inc1 := p.inc1, measured := ms, imgSeq := p.imgSeq
    bootstat := bootWord kind 0 10 0 false true }

/-- The device after every step of a start has succeeded (R420): work in flight is lost, what engines keep is cleared,
local memories hold zero after a cold start, device memory is kept or holds nothing known (log 1, log 3). -/
def State.started (s : State) (cold keep : Bool) : State :=
  let s1 := if keep then (s.llc.map (fun e => e.1)).foldl (fun s k => s.evictSector k) s else s
  let n := s.pkg.incarn
  { pkg := s.pkg.restarted (s.pkg.inc0.getD (s.pkg.inc1.getD n)) (if cold then 1 else 2) s.images8
    hbm := if keep then s1.hbm else []
    bad := if cold then [] else s1.bad.filter (fun g => g.kind == 0 || g.kind == 1)
    hostMem := s.hostMem, images := s.images, hostOut := s.hostOut, readOut := s.readOut, homeUs := s.homeUs
    nextId := s.nextId + 1, sched := s.sched, choices := s.choices.tail }

/-- A start (R420): it fails at a step, or runs to its end. -/
def State.start (s : State) (cold keep : Bool) : State :=
  match s.startFails cold with
  | some (step, cause) =>
    let s1 := if step = 9 then s.writeInc else s
    let s2 : State := { s1.startFailed cold keep step cause with choices := s.choices.tail, nextId := s.nextId + 1 }
    s2
  | none => s.writeInc.started cold keep

/-- POWER_ON (R419): as a write of STARTREQ with go = 1 and kind = 0. -/
def execPowerOn (s : State) : Host.Outcome State Fault Refusal :=
  if s.pkg.off then .next (s.modPkg (fun p => { p with off := false, startReq := some (false, false) })) else .next s

/-- COLD_START (R420). -/
def execColdStart (s : State) : Host.Outcome State Fault Refusal :=
  match s.pkg.startReq with
  | some (false, _) => .next (s.start true false)
  | _ => .next s

/-- WARM_START (R420), with HBM kept or not. -/
def execWarmStart (keep : Bool) (s : State) : Host.Outcome State Fault Refusal :=
  match s.pkg.startReq with
  | some (true, k) => if k = keep then .next (s.start false keep) else .next s
  | _ => .next s

/-- POWER_LOSS (R422): everything stops and volatile state is lost. In a start, the writes of step 9 may have come to one
of four points: 1 copy 0 torn, 2 copy 0 written and copy 1 torn, 3 copy 0 written, 4 both written. -/
def execPowerLoss (copies : Nat) (s : State) : Host.Outcome State Fault Refusal :=
  let p := s.pkg
  let n := p.nextInc
  let q : Option Nat × Option Nat :=
    if p.startReq.isNone || n.isNone then (p.inc0, p.inc1)
    else match copies with
      | 1 => (none, p.inc1)
      | 2 => (n, none)
      | 3 => (n, p.inc1)
      | 4 => (n, n)
      | _ => (p.inc0, p.inc1)
  .next { pkg := { off := true, incarn := 0, bootstat := 0, inc0 := q.1, inc1 := q.2, recCal := p.recCal, recAdv := p.recAdv
                   recPeers := p.recPeers, measured := []
                   incUsed := if q = (p.inc0, p.inc1) then p.incUsed else n.toList ++ p.incUsed }
          hostMem := s.hostMem, hostOut := s.hostOut, readOut := s.readOut, nextId := s.nextId, sched := s.sched, choices := s.choices }

/-- Nothing but the I/O die runs (R419, R421): power is off, a start is under way, or the package is in safe mode. -/
def State.halted (s : State) : Bool := s.pkg.off || s.pkg.safe || s.pkg.startReq.isSome

/-- The device's blocks that serve an event are powered: what the I/O die does by itself goes on in safe mode. -/
def onIoDie (i : Instr) : Bool :=
  match i with
  | .powerOn | .coldStart | .warmStart _ | .powerLoss _ | .quote | .readoutRead .. | .hostRead .. | .hostWrite .. | .hostAtomic ..
  | .hostEnqueue .. | .hostCsrrd .. | .hostCsrwr .. => true
  | _ => false

/-! ### Quotes (R423) -/

/-- QUOTE: ATTSIG receives the signature of the nonce, the measurements and INCARN (R423). -/
def execQuote (s : State) : Host.Outcome State Fault Refusal :=
  if s.pkg.attbusy then .next (s.modPkg (fun p => { p with attbusy := false, sig := some ((List.range 4).map (fun i => p.attnonce.get 0 i), p.measured, p.incarn) })) else .next s

/-! ### Adaptive control (R424) -/

/-- DROOP_LOOP: the clock ratio of a hedge moves by at most one within 32..64. -/
def execDroopLoop (hedge : Nat) (up : Bool) (s : State) : Host.Outcome State Fault Refusal :=
  if 256 ≤ hedge then .next s
  else .next (s.modHedge hedge (fun h => { h with hclk := if up then Nat.min 64 (h.hclk + 1) else Nat.max 32 (h.hclk - 1) }))

/-- OPTICAL_EQUALISATION: trims lanes and never delays a frame: no state of the model changes. -/
def execOpticalEqualisation (_port : Nat) (s : State) : Host.Outcome State Fault Refusal := .next s

/-- HBM_RECALIBRATION: accesses of a stack are held for at most 2 µs and keep their order: no state of the model changes. -/
def execHbmRecalibration (_stack : Nat) (s : State) : Host.Outcome State Fault Refusal := .next s

/-- LOOKAHEAD_THRESHOLD: each 1,024 lg.pf of a die LGTHR follows LGSTAT. -/
def execLookaheadThreshold (die : Nat) (s : State) : Host.Outcome State Fault Refusal :=
  let d := s.die die
  if decide (4 ≤ die) || decide (d.lgPfCount < 1024) then .next s
  else
    let t := if 2 * d.lgHit < d.lgPf then Nat.min (d.lgthr + 1) 0xFFFFFFFF
      else if 3 * d.lgPf < 4 * d.lgHit then Nat.max 1 (d.lgthr - 1) else d.lgthr
    .next (s.modDie die (fun y => { y with lgthr := t, lgPfCount := y.lgPfCount - 1024 }))

/-- An expert's bins filled most often, and its fill count. -/
def Pkg.fullest (p : Pkg) (expert fill : Nat) : Bool :=
  decide (expert < 65535) && fill == p.fills.get 0 expert && p.fills.all (fun x => decide (x.2 ≤ fill))

/-- REPLICA_HINT: each 1,024 rt.run an item of kind 3 goes to HINTQ, naming an expert whose bins filled most often and its fill
count; the counts begin anew (R424; which of equal experts is named is open, and the event's operand). -/
def execReplicaHint (expert fill : Nat) (s : State) : Host.Outcome State Fault Refusal :=
  if s.pkg.rtRuns < 1024 || !s.pkg.fullest expert fill then .next s
  else
    let s1 := s.modPkg (fun p => { p with rtRuns := p.rtRuns - 1024, fills := [] })
    if s.pkg.hintq = 0 then .next s1
    else .next (s1.post { cls := 3, src := { sys := true }, home := .slice 0, space := .dev, va := s.pkg.hintq,
                          kind := .sysm [fld 44 noBudget ||| fld 32 3, BitVec.ofNat 64 expert, BitVec.ofNat 64 fill, 0, 0, 0, 0, 0] }).2

/-! ### Live service (R425) -/

/-- SVCCTL asks for an operation. -/
def State.svcAsks (s : State) (op : Nat) : Bool := s.pkg.svcctl.getLsbD 63 && bits s.pkg.svcctl 62 60 == op

/-- The unit of SVCCTL. -/
def State.svcUnit (s : State) : Nat := bits s.pkg.svcctl 7 0

/-- The operation ends with a result. -/
def State.svcDone (s : State) (res : Nat) : State :=
  s.modPkg (fun p => { p with svcctl := merge (setBit p.svcctl 63 false) (fld 56 res) 59 56 })

/-- The cores of a hedge. -/
def hedgeCores (h : Nat) : List Nat := (List.range 16).map (fun p => coreIn h p)

/-- A hedge that no placement map names and that holds no work (R425). -/
def State.hedgeIdle (s : State) (h : Nat) : Bool :=
  let cs := hedgeCores h
  !(List.range (bits s.pkg.ctxbase 63 48)).any (fun ctx => (List.range 256).any (fun lh => mapped' (s.pmapEntry 256 ctx lh) (physHedge h)))
    && cs.all (fun n =>
      let c := s.coreAt n
      c.slots.all (fun x => x.2.st == .free) && c.rq.isEmpty && c.park.isEmpty && c.ready.isEmpty && c.rx0.isEmpty && c.rx1.isEmpty)
    && !s.jobs.any (fun j => j.holds && cs.contains j.core)
    && !s.net.any (fun p => cs.contains p.src.core && !p.src.far && (match p.kind with | .sysm _ => false | _ => true)
      || (match p.space with | .core n => cs.contains n | _ => false))
    && !s.migrants.any (fun m => cs.contains m.th.home)
where
  /-- A placement entry is valid and names a physical hedge. -/
  mapped' (e p : Nat) : Bool := e / 32768 == 1 && e / 256 % 128 == 0 && e % 256 == p

/-- DRAIN_HEDGE (R425). -/
def execDrainHedge (s : State) : Host.Outcome State Fault Refusal :=
  if !s.svcAsks 0 then .next s
  else
    let h := hedgePos s.svcUnit
    if s.hedgeIdle h then .next ((s.modHedge h (fun x => { x with drained := true })).svcDone 0) else .next (s.svcDone 1)

/-- RELOAD_HEDGE (R425): its local memories are zero, its registers at reset, and it rejoins. -/
def execReloadHedge (s : State) : Host.Outcome State Fault Refusal :=
  if !s.svcAsks 1 then .next s
  else
    let h := hedgePos s.svcUnit
    if !(s.hedge h).drained then .next (s.svcDone 3)
    else
      let cs := hedgeCores h
      let s1 : State := { s with
        cores := s.cores.filter (fun c => !cs.contains c.1)
        hedges := s.hedges.del h
        thickets := (s.thickets.del (2 * h)).del (2 * h + 1)
        bad := s.bad.filter (fun g => !(g.kind == 0 && cs.contains g.u)) }
      .next (s1.svcDone 0)

/-- RETIRE_STACK (R425): the lines of the stack are written back and emptied; accesses to it fail from now on. -/
def execRetireStack (s : State) : Host.Outcome State Fault Refusal :=
  if !s.svcAsks 2 then .next s
  else
    let k := s.svcUnit
    let s1 := ((s.llc.map (fun e => e.1)).filter (fun e => 64 * e / 2 ^ 36 == k)).foldl (fun s e => s.evictSector e) s
    .next ((s1.modPkg (fun p => { p with retired := if p.retired.contains k || decide (12 ≤ k) then p.retired else k :: p.retired })).svcDone 0)

/-- RETURN_STACK (R425): the stack is trained and zeroed and serves again; one that is not retired is not drained. -/
def execReturnStack (s : State) : Host.Outcome State Fault Refusal :=
  if !s.svcAsks 3 then .next s
  else
    let k := s.svcUnit
    if !s.pkg.retired.contains k then .next (s.svcDone 3)
    else
      let m := s.hbm.clear (2 ^ 36 * k) (2 ^ 36)
      let s1 : State := { s with hbm := m, bad := s.bad.filter (fun g => !(g.kind == 1 && g.addr / 2 ^ 36 == k)) }
      .next ((s1.modPkg (fun p => { p with retired := p.retired.filter (fun x => x != k) })).svcDone 0)

/-- RECALIBRATE_PORT (R425): retraining takes place in the port's fallow slots, and its st stays as it is. -/
def execRecalibratePort (s : State) : Host.Outcome State Fault Refusal :=
  if s.svcAsks 4 then .next (s.svcDone 0) else .next s

/-- REPLACE_FIRMWARE (R425): an image whose signature checks is taken and MEAS is chained with it. -/
def execReplaceFirmware (s : State) : Host.Outcome State Fault Refusal :=
  if !s.svcAsks 5 then .next s
  else
    let s1 : State := { s with nextId := s.nextId + 1 }
    let m := Measured.replaced s.nextId s.pkg.svcaddr
    if Config.imageOk m.bytes then .next ((s1.modPkg (fun p => { p with measured := p.measured ++ [m] })).svcDone 0)
    else .next (s1.svcDone 2)

end Sys2Proof.Machine
end

