-- ==== Sys2Proof/Machine/EvHost.lean ====
section
/-! DEFINITION. The companion processor's transactions and the Igtal Link (22 R413-R415), and the state read-out port
(24 R426). An answer to the companion processor is a list of words: 0 and the data, or 1 for an error response. -/

namespace Sys2Proof.Machine

/-- An answer to the companion processor. -/
def State.hostAnswer (s : State) (ws : List Word) : State := { s with hostOut := s.hostOut ++ [ws] }

/-- An error response. -/
def State.hostError (s : State) : State := s.hostAnswer [1]

/-- The error record of an uncorrectable error that the companion processor meets (R370): no consumer on the device. -/
def State.hostBad (s : State) (pa : Nat) : State :=
  (s.postError (errRecord (s.devKind pa) 0 pa 0 (stackUnit pa) 0)).hostError

/-- A range of device memory that the companion processor may name: aligned, and the stacks are powered. -/
def State.hostRange (s : State) (pa n : Nat) : Bool := !s.halted && pa % n == 0 && decide (pa + n ≤ devTop)

/-- A sector is claimed by a running job (R216), or an access whose wait at its home has ended goes first (R208): the access
waits. -/
def State.hostWaits (s : State) (pa : Nat) : Bool := s.homeClaimed .dev (pa / 64 * 64) 64 true || s.dueAt (Place.dev pa 0).home

/-- An access of the companion processor waits at its home; the recall that it sends names the sector (R216). -/
def State.hostBlock (s : State) (pa : Nat) : State :=
  if s.hostWait.contains (pa / 64) then s
  else State.recallFar { s with hostWait := s.hostWait ++ [pa / 64] } .dev (pa / 64 * 64) 64

/-- It is performed. -/
def State.hostGo (s : State) (pa : Nat) : State := { s with hostWait := s.hostWait.filter (fun x => x != pa / 64) }

/-- HOST_READ: 64 or 256 aligned bytes; each sector is one access at its home, at a moment of its own, and the last one
answers (R415). -/
def execHostRead (pa size : Nat) (s : State) : Host.Outcome State Fault Refusal :=
  if !(size == 64 || size == 256) || !s.hostRange pa size then .next s.hostError
  else
    let got := s.hostGot.get [] pa
    let left := (List.range (size / 64)).filter (fun i => !got.any (fun g => g.1 == i))
    let i := left.getD (s.choice left.length) 0
    let at_ := pa + 64 * i
    let s0 := s.dropChoice
    if s0.hostWaits at_ then .next (s0.hostBlock at_)
    else
      let s1 := s0.hostGo at_
      if s1.devBad at_ 64 then .next (({ s1 with hostGot := s1.hostGot.del pa } : State).hostBad at_)
      else
        let all := (i, s1.homeWords .dev at_ 8) :: got
        let s2 := s1.devLoad at_ 64 0
        if left.length ≤ 1 then
          .next (({ s2 with hostGot := s2.hostGot.del pa } : State).hostAnswer
            (0 :: (List.range (size / 64)).flatMap (fun k => ((all.find? (fun g => g.1 == k)).map (fun g => g.2)).getD [])))
        else .next { s2 with hostGot := s2.hostGot.set pa all }

/-- HOST_WRITE: the enabled bytes of a sector, as one indivisible access at its home (R175). -/
def execHostWrite (pa : Nat) (data : Vec) (mask : Word) (s0 : State) : Host.Outcome State Fault Refusal :=
  let s := s0.hostGo pa
  if !s.hostRange pa 64 then .next s.hostError
  else if s.hostWaits pa then .next (s.hostBlock pa)
  else if s.devMergeBad (pa / 64) mask then .next (s.hostBad pa)
  else .next (((s.devStore (pa / 64) data mask 0).wrote 0 .dev pa).hostAnswer [0])

/-- The atomics that the Igtal Link carries: add, and, or, xor, swap and cas on words and doublewords (R413). -/
def linkAtomic (op size : Nat) : Bool := (decide (op ≤ 3) || op == 8 || op == 9) && decide (size ≤ 1)

/-- HOST_ATOMIC: performed at the home slice (R198); the old value is returned. -/
def execHostAtomic (op size : BitVec 4) (pa : Nat) (b d : Word) (s0 : State) : Host.Outcome State Fault Refusal :=
  let s := s0.hostGo pa
  let n := 4 * 2 ^ size.toNat
  if !linkAtomic op.toNat size.toNat || !s.hostRange pa n then .next s.hostError
  else if s.hostWaits pa then .next (s.hostBlock pa)
  else if s.devBad pa n then .next (s.hostBad pa)
  else
    let s1 := s.homeFill .dev pa 0
    let m := s1.devNum pa n
    let r := amoResult op.toNat n m (b.toNat % 2 ^ (8 * n)) (d.toNat % 2 ^ (8 * n))
    .next (((s1.homePut .dev pa n r.1 0).wrote 0 .dev (pa / 64 * 64)).hostAnswer [0, BitVec.ofNat 64 m])

/-- HOST_ENQUEUE: as enq (R153), the ring translated in the context given, with system rights; answers 0..3. -/
def execHostEnqueue (pa ctx : Nat) (item : Vec) (s0 : State) : Host.Outcome State Fault Refusal :=
  let s := s0.hostGo pa
  if !s.hostRange pa 64 then .next s.hostError
  else if s.hostWaits pa then .next (s.hostBlock pa)
  else if s.devBad pa 64 then .next (s.hostBad pa)
  else
    let ws := (List.range 8).map (fun i => item.extractLsb' (64 * i) 64)
    let src : Source := { pkg := s.pkgNo, ctx := ctx, sys := true }
    let r := (s.devLoad pa 64 0).enqueue src .dev pa 0 ws
    if r.1 = 9 then .next (r.2.hostBad (s.ringPa src (s.homeWords .dev pa 8))) else
    .next (r.2.hostAnswer [0, BitVec.ofNat 64 r.1])

/-- A register that the companion processor reaches: in safe mode only the package bank is powered (R421). -/
def State.hostCsr (s : State) (u n : Nat) : Bool := csrKnown n && decide (u < 16384) && (!s.halted || decide (0x200 ≤ n)) && !s.pkg.off

/-- HOST_CSRRD: any CSR; u is 4 · core + slot. -/
def execHostCsrrd (u : Nat) (n : BitVec 10) (s : State) : Host.Outcome State Fault Refusal :=
  if s.hostCsr u n.toNat then .next (s.hostAnswer [0, s.csrRead (u / 4) (u % 4) n.toNat]) else .next s.hostError

/-- HOST_CSRWR: refused with an error response while HOSTCFG.mw is 0; a write that must wait leaves no trace. -/
def execHostCsrwr (u : Nat) (n : BitVec 10) (v : Word) (s : State) : Host.Outcome State Fault Refusal :=
  if !s.hostCsr u n.toNat || !s.pkg.hostcfg.getLsbD 63 then .next s.hostError
  else if s.csrBusy n.toNat then .next s
  else .next ((s.csrSet (u / 4) (u % 4) n.toNat v).hostAnswer [0])

/-- LINK_FLIT_FAILURE (R414): a device request to host memory takes the path of a data error; a request of the companion
processor, which no packet of the device is, receives an error response. -/
def execLinkFlitFailure (pkt : Nat) (s : State) : Host.Outcome State Fault Refusal :=
  match s.net.find? (fun p => p.id == pkt) with
  | none => .next s.hostError
  | some p => if p.home = .host then .next (s.answer p .dataErr) else .next s

/-! ### The read-out port (R426) -/

/-- An entry of the expert region table as its eight words (R320). -/
def Region.words (x : Region) : List Word :=
  [BitVec.ofNat 64 x.base,
   fld 0 x.size ||| fld 32 x.ctx ||| fld 48 x.pol ||| fld 50 x.state ||| fld 52 (boolWord x.pred).toNat,
   fld 0 x.pins, 0] ++ (List.range 4).map (fun i => BitVec.ofNat 64 (x.reps.get 0 i))

/-- An entry of a run queue as words (R107, R121). -/
def RqEntry.words (e : RqEntry) : List Word :=
  [e.th.tid, e.th.pc, e.th.sw, e.arg, BitVec.ofNat 64 e.budget, BitVec.ofNat 64 e.waited,
   fld 0 e.prio ||| fld 2 (boolWord e.ahead).toNat ||| fld 3 (boolWord e.fresh).toNat ||| fld 16 e.th.ctx ||| fld 32 e.th.homeWp]

/-- An entry of a park list as words (R359). -/
def Parked.words (p : Parked) : List Word :=
  [p.key.setWidth 64, p.th.tid, p.th.pc, p.th.sw, fld 16 p.th.ctx ||| fld 32 p.th.homeWp]

/-- An entry of a job queue as words (R243, R245): status, what it is and where it stands, its budget, and P0..P7. -/
def Job.words (j : Job) : List Word :=
  [j.status, fld 0 j.ctx ||| fld 16 j.kind ||| fld 20 j.prio ||| fld 32 j.ip ||| fld 48 j.npred, BitVec.ofNat 64 j.budget, 0]
    ++ (List.range 8).map (fun i => j.params.get 0 i)

/-- An entry of a translation cache as words (R186, R406, R408). -/
def TlbEntry.words (e : TlbEntry) : List Word := (fld 0 e.ctx ||| fld 16 e.pkg ||| fld 32 e.inc) :: leafWords e

/-- The word that the read-out port returns. what: 0 a CSR (unit 4 · core + slot), 1 local memory (workspaces, mailbox
rows), 2 a run-queue entry, 3 a park-list entry, 4 a job by queue and place, 5 a region entry, 6 a mailbox status word, 7 an
entry of a hedge's translation cache, 8 the calendar position, 9 the cycle counter of a core, 10 syllables and 11 groups
retired by a slot, 12 an entry of a core's tag table (R170), 13 a core's reference counter, 14 an entry of a die's translation
cache for other packages, 15 of its cache of their translations, 16 a hedge's copy of a placement map. An entry of 2, 3, 4, 5, 7,
14 and 15 is named by addr / 16 and its word by addr mod 16; of 16, the context by addr / 256 and the hedge by addr mod 256. -/
def State.readout (s : State) (what unit addr : Nat) : Word :=
  let c := s.coreAt unit
  let i := addr / 16
  let word (ws : Option (List Word)) : Word := (ws.getD []).getD (addr % 16) 0
  match what with
  | 0 => s.csrRead (unit / 4) (unit % 4) addr
  | 1 => c.word addr
  | 2 => word (c.rq[i]?.map RqEntry.words)
  | 3 => word (c.park[i]?.map Parked.words)
  | 4 => word (((s.jobs.filter (fun j => j.pq == unit))[i]?).map Job.words)
  | 5 => word (some (s.regions.get {} i).words)
  | 6 => c.rows.get 0 addr
  | 7 => word ((s.hedge unit).tlb[i]?.map TlbEntry.words)
  | 8 => s.calstat
  | 9 => BitVec.ofNat 64 c.cycles
  | 10 => BitVec.ofNat 64 (s.thAt (unit / 4) (unit % 4)).synret
  | 11 => BitVec.ofNat 64 (s.thAt (unit / 4) (unit % 4)).grpret
  | 12 => c.tags.get 0 addr
  | 13 => BitVec.ofNat 64 c.usec
  | 14 => word ((s.die unit).ttc[i]?.map TlbEntry.words)
  | 15 => word ((s.die unit).rtc[i]?.map TlbEntry.words)
  | 16 => BitVec.ofNat 64 (((s.hedge unit).pmaps.get [] (addr / 256)).getD (addr % 256) 0)
  | _ => 0

/-- READOUT_READ: one word of state leaves through the port; nothing else changes. -/
def execReadoutRead (what : Nat) (unit addr : Nat) (s : State) : Host.Outcome State Fault Refusal :=
  .next { s with readOut := s.readOut ++ [s.readout what unit addr] }

end Sys2Proof.Machine
end

