-- ==== Sys2Proof/Machine/Global.lean ====
section
/-! DEFINITION. Global and coordinate-addressed loads and stores, fences, prefetch and the software cache (09 of the
spec). -/

namespace Sys2Proof.Machine

/-! ### Loads and stores (R190-R194) -/

/-- ldg (R190, R191, R194). -/
def execLdg (f : BitVec 3) (o : BitVec 1) (d a : Reg) (off : BitVec 11) (s : State) : Host.Outcome State Fault Refusal :=
  let ea : Int := (s.val a).toNat + sOff off
  let n := ldlSize f
  let fx := s.putLater d .none (s.use a (s.illegal (f == 7) s.fx0))
  let fx1 := s.loadFrom (s.global ea n 1) (ofInt ea) n (.reg d.toNat (8 * n) (ldlSigned f)) fx
  s.finish (if o = 1 then fx1.onBaton else fx1)

/-- vldg (R190, R191). -/
def execVldg (o : BitVec 1) (d a : Reg) (off : BitVec 11) (s : State) : Host.Outcome State Fault Refusal :=
  let ea : Int := (s.val a).toNat + sOff off
  let fx := s.use a s.fx0
  let fx1 := s.loadFrom (s.global ea 64 1) (ofInt ea) 64 (.vec d.toNat)
    { fx with stall := fx.stall || s.pendV d.toNat, home := fx.home || s.isGuest }
  s.finish (if o = 1 then fx1.onBaton else fx1)

/-- stg (R190, R191, R194). -/
def execStg (f : BitVec 2) (o : BitVec 1) (d a : Reg) (off : BitVec 11) (s : State) : Host.Outcome State Fault Refusal :=
  let ea : Int := (s.val a).toNat + sOff off
  let n := 2 ^ f.toNat
  s.finish (s.storeTo (s.global ea n 2) (ofInt ea) n (s.val d).toNat (o == 1) (s.use d (s.use a s.fx0)))

/-- vstg (R190, R191). -/
def execVstg (o : BitVec 1) (d a : Reg) (off : BitVec 11) (s : State) : Host.Outcome State Fault Refusal :=
  let ea : Int := (s.val a).toNat + sOff off
  s.finish (s.storeTo (s.global ea 64 2) (ofInt ea) 64 (s.vval d).toNat (o == 1) (s.useV d (s.use a s.fx0)))

/-! ### Coordinate-addressed access (R195, R196) -/

/-- The address that a trap of ldr or str reports (R195). -/
def coordAddr (a : Word) (off : BitVec 11) : Word := a + off.signExtend 64

/-- The checks of R195. -/
def State.coord (s : State) (a : Word) (off : BitVec 11) (n acc : Nat) : Res :=
  let t : Int := bits a 16 0 + sOff off
  let va := coordAddr a off
  if decide (t < 0) || decide ((localBytes : Int) < t + n) then .trap { code := 4, acc := acc, addr := va }
  else if t % n != 0 then .trap { code := 5, acc := acc, addr := va }
  else if !s.reachable (bits a 35 29) then .trap { code := 4, acc := acc, addr := va }
  else .ok (s.coordPlace va) []

/-- ldr (R195). -/
def execLdr (f : BitVec 2) (d a : Reg) (off : BitVec 11) (s : State) : Host.Outcome State Fault Refusal :=
  let n := 2 ^ f.toNat
  let va := coordAddr (s.val a) off
  s.finish (s.loadFrom (s.coord (s.val a) off n 1) va n (.reg d.toNat (8 * n) false) (s.putLater d .none (s.use a s.fx0)))

/-- str (R195). -/
def execStr (f : BitVec 2) (d a : Reg) (off : BitVec 11) (s : State) : Host.Outcome State Fault Refusal :=
  let n := 2 ^ f.toNat
  let va := coordAddr (s.val a) off
  s.finish (s.storeTo (s.coord (s.val a) off n 2) va n (s.val d).toNat false (s.use d (s.use a s.fx0)))

/-- An unread bound message or a partly composed one keeps a thread from migrating (R129). -/
def State.migRefused (s : State) : Bool :=
  let x := s.slotAt s.core s.slot
  let h := s.coreAt s.th.home
  !x.th.comp0.isEmpty || !x.th.comp1.isEmpty || (h.rx0 ++ h.rx1).any (fun m => m.owner == .task s.th.uid)

/-- ldr.x.mig (R128, R196, R211): where the source allows it, once its posted accesses are acknowledged, the load asks to
migrate, and the window's verdict on arrival decides whether the thread moves; else a plain ldr. -/
def execLdrMig (f : BitVec 2) (d a : Reg) (off : BitVec 11) (s : State) : Host.Outcome State Fault Refusal :=
  let n := 2 ^ f.toNat
  let va := coordAddr (s.val a) off
  let spec := s.ordered || s.ahead
  let fx := s.putLater d .none (s.use a s.fx0)
  let r := s.coord (s.val a) off n 1
  let away := match r.place? with
    | some (.remote ..) => true
    | _ => false
  let fx1 := s.loadFrom r va n (.reg d.toNat (8 * n) false) (if spec && !away then fx.warnWith (warnBit 26 true) else fx)
  let other := match r.place? with
    | some (.loc (some m) _) => m != s.core
    | _ => false
  if s.th.sys || spec || decide (15 < d.toNat) || decide (15 < a.toNat) || !other then s.finish fx1
  else
    let fx2 := s.trapFx fx1 s.migRefused 15 1 va
    s.finish { fx2 with
      req := fx2.req.map (fun p => { p with kind := .mig n })
      full := fx2.full || s.unacked s.th.uid s.core 5 }

/-! ### Fences and prefetch (R202-R205) -/

/-- A wait that has ended takes a pending deferred trap instead (R157, R203, R363). -/
def State.waitThenTrap (s : State) (waits : Bool) (fx : Fx) : Fx :=
  if waits then { fx with wait := true }
  else match s.th.deferred with
    | none => fx
    | some d => fx.trapIf true d.trap

/-- The wait of a fence (R203): in ordered mode it is no event that ends a quantum (R222), so the group only stalls. -/
def State.fenceWait (s : State) (k : Nat) (fx : Fx) : Fx :=
  if s.ordered && s.fenceOpen k then { fx with full := true } else s.waitThenTrap (s.fenceOpen k) fx

/-- fence of a scope (R203). -/
def execFence (scope : BitVec 3) (s : State) : Host.Outcome State Fault Refusal :=
  s.finish (s.fenceWait scope.toNat (s.illegal (decide (5 < scope.toNat)) s.fx0)).onBaton

/-- fence.i (R204). -/
def execFenceI (s : State) : Host.Outcome State Fault Refusal :=
  let fx := (s.fenceWait 5 s.fx0).onBaton
  s.finish { fx with acts := fx.acts ++ [.fenceI] }

/-- pf (R205): never traps; dropped at issue it counts nothing. -/
def execPf (sc a : Reg) (s : State) : Host.Outcome State Fault Refusal :=
  let va := s.val a
  let fx := s.useSc (s.use a (s.illegal (decide (7 < sc.toNat)) s.fx0))
  let fx1 := { fx with full := fx.full || s.scFull sc.toNat }
  match s.global va.toNat 1 1 with
  | .ok p tl =>
    (match p with
    | .dev _ pol => s.finish (if pol % 4 = 2 then fx1 else { fx1 with
        tlb := fx1.tlb ++ tl, acts := fx1.acts ++ [.post { s.packet p va .pf with sc := some sc.toNat }] })
    | .remote .. => s.finish { fx1 with acts := fx1.acts ++ [.post { s.packet p va .pf with sc := some sc.toNat }] }
    | _ => s.finish fx1)
  | r => s.finish (match r with
    | .wait _ => r.stage fx1
    | _ => fx1)

/-! ### The software cache (R169-R171, R206-R207) -/

/-- The valid bit of a tag-table entry (R170). -/
def tagV (e : Word) : Bool := e.getLsbD 7
/-- The reference bit of a tag-table entry (R170). -/
def tagRef (e : Word) : Bool := e.getLsbD 6

/-- The victim hint and the table after it (R170). -/
def victim (tags : Tbl Word) (n ptr : Nat) : Nat × Tbl Word :=
  match (List.range n).find? (fun i => !tagV (tags.get 0 i)) with
  | some i => (i, tags)
  | none =>
    match ((List.range n).map (fun i => (ptr + i) % n)).find? (fun i => !tagRef (tags.get 0 i)) with
    | some i => (i, tags)
    | none => (ptr, tags.map (fun e => (e.1, setBit e.2 6 false)))

/-- tlook (R207). -/
def execTlook (d a : Reg) (s : State) : Host.Outcome State Fault Refusal :=
  let fx := (s.use a s.fx0).onBaton
  let c := s.cor
  let t := bits (s.val a) 63 8
  if c.nslot = 0 then s.finish (s.put d (BitVec.allOnes 64) fx)
  else match (List.range c.nslot).find? (fun i => tagV (c.tags.get 0 i) && bits (c.tags.get 0 i) 63 8 == t) with
    | some i =>
      let e := c.tags.get 0 i
      s.finish (s.put d (fld 40 (bits e 5 5) ||| fld 0 i)
        { fx with acts := fx.acts ++ [.tags (c.tags.set i (setBit e 6 true)) c.scptr] })
    | none =>
      let v := victim c.tags c.nslot c.scptr
      let e := c.tags.get 0 v.1
      s.finish (s.put d (fld 41 (bits e 5 5) ||| fld 40 (bits e 7 7) ||| fld 32 v.1 ||| 0xFFFFFFFF)
        { fx with acts := fx.acts ++ [.tags v.2 ((v.1 + 1) % c.nslot)] })

/-- tfill (R207). -/
def execTfill (d a b : Reg) (s : State) : Host.Outcome State Fault Refusal :=
  let fx := (s.use b (s.use a s.fx0)).onBaton
  let c := s.cor
  let i := bits (s.val b) 7 0
  let t := bits (s.val a) 63 8
  if c.nslot ≤ i then s.finish (s.put d (BitVec.allOnes 64) fx)
  else
    let cleared : Tbl Word := c.tags.map (fun e => (e.1, if e.1 != i && bits e.2 63 8 == t then setBit e.2 7 false else e.2))
    let e := fld 8 t ||| fld 7 1 ||| fld 6 1 ||| fld 5 (bits (s.val b) 8 8)
    s.finish (s.put d (c.tags.get 0 i) { fx with acts := fx.acts ++ [.tags (cleared.set i e) c.scptr] })

/-- tinv (R207). -/
def execTinv (d a : Reg) (s : State) : Host.Outcome State Fault Refusal :=
  let fx := (s.use a s.fx0).onBaton
  let c := s.cor
  let i := bits (s.val a) 7 0
  if (s.val a).getLsbD 9 then
    s.finish (s.put d 0 { fx with acts := fx.acts ++ [.tags (c.tags.map (fun e => (e.1, setBit e.2 7 false))) 0] })
  else if c.nslot ≤ i then s.finish (s.put d (BitVec.allOnes 64) fx)
  else
    let e := c.tags.get 0 i
    s.finish (s.put d e { fx with acts := fx.acts ++ [.tags (c.tags.set i (setBit (setBit e 7 false) 6 false)) c.scptr] })

end Sys2Proof.Machine
end

