-- ==== Sys2Proof/Machine/TaskIns.lean ====
section
/-! DEFINITION. Tasks, launches, joins, barriers, waits, work queues and run-ahead iterations (07 R143-R157). -/

namespace Sys2Proof.Machine

/-- Words of the own local memory as the thread reads them. -/
def State.localWords (s : State) (a n : Nat) : List Word :=
  (List.range n).map (fun i => BitVec.ofNat 64 (s.localNum s.core s.th (a + 8 * i) 8))

/-- In ordered mode the syllable's group ends the quantum and is performed at its commit (R222, R226, R227). -/
def State.endsQ (s : State) (fx : Fx) : Fx := if s.ordered then { fx with holdOn := some .commit } else fx

/-- A task may be inserted into the own run queue (R116, R143). -/
def State.rqRoom (s : State) (n : Nat) : Bool := (s.coreAt n).rqFree && (s.coreAt n).ready.isEmpty

/-- tcreate (R143). -/
def execTcreate (d a : Reg) (s : State) : Host.Outcome State Fault Refusal :=
  let x := (s.val a).toNat
  let fx := s.putLater d (.reg d.toNat 64 false) (s.loadCheck x 32 32 (s.use a s.fx0)).onBaton
  s.finish (s.endsQ { fx with
    full := fx.full || (!s.ordered && !s.rqRoom s.core)
    acts := fx.acts ++ [.tcreate d.toNat (s.localWords x 4)] })

/-- tdec (R144): the record's address in the layout of an aperture offset. TADDR of the address trap for a package that cannot be
reached is A, as for the align trap, for which alone R144 gives it (DESIGN CHOICE, log 75). -/
def execTdec (sc a b : Reg) (s : State) : Host.Outcome State Fault Refusal :=
  let x := s.val a
  let fx := s.useSc (s.use b (s.use a (s.illegal (decide (7 < sc.toNat)) s.fx0)))
  let fx1 := s.trapFx fx (bits x 5 0 != 0) 5 3 x
  let fx2 := (s.trapFx fx1 (!s.reachable (bits x 35 29)) 4 3 x).onBaton
  let p := s.packet (s.coordPlace x) x (.tdec (bits (s.val b) 31 0))
  s.finish { fx2 with full := fx2.full || s.scFull sc.toNat, acts := fx2.acts ++ [.post { p with sc := some sc.toNat }] }

/-- A scoreboard counter of a task's workspace is not zero (R145). -/
def Core.anySc (c : Core) (wp : Nat) : Bool := (List.range 8).any (fun k => c.sc wp k != 0)

/-- texit (R145, R361): waits for the scoreboards, takes a pending deferred trap, then ends the task. In system mode the frame
is read as rft reads it. An ordered task
waits at the commit of its quantum (R222), or goes on as its next iteration (R155). -/
def execTexit (s : State) : Host.Outcome State Fault Refusal :=
  let fx := s.fxC.onBaton
  let t := s.th
  if t.sys then
    let wp := bits (s.cor.word (wsBase s.th.wp + 824)) 16 10
    let fx1 := s.frameFx fx
    s.finish { fx1 with wait := fx1.wait || s.cor.anySc wp, ctl := some (.texitAs wp) }
  else
    let fx1 :=
      if s.ordered then (if t.respawn.isSome then fx else s.endsQ (s.waitThenTrap false fx))
      else s.waitThenTrap ((s.coreAt t.home).anySc t.homeWp) fx
    s.finish { fx1 with ctl := some .texit }

/-- yield (R146); a guest goes home first (DEDUCED, log 26). -/
def execYield (s : State) : Host.Outcome State Fault Refusal :=
  let fx := s.fxC.onBaton
  s.finish { fx with ctl := some .yield, home := fx.home || s.isGuest }

/-- launch (R149, R181). -/
def execLaunch (d a : Reg) (s : State) : Host.Outcome State Fault Refusal :=
  let x := (s.val a).toNat
  let ws := s.localWords x 4
  let desc := LaunchDesc.of ws s.th.ctx (!s.th.sys)
  let fx := (s.loadCheck x 32 32 (s.use a s.fx0)).onBaton
  let fx1 := s.trapFx fx (!s.th.sys && bits (ws.getD 3 0) 15 0 != 0) 3 0 s.syllAddr
  let fx2 := s.trapFx fx1 (!desc.rectOk) 4 0 (s.val a)
  let fx3 := s.trapFx fx2 (fx2.trap.isNone && !s.mapOk s.hg desc.ctx desc.x0 desc.y0 desc.wx desc.wy) 4 0 (s.val a)
  let fx4 := s.putLater d (.reg d.toNat 64 false) fx3
  s.finish (s.endsQ { fx4 with
    full := fx4.full || (!s.ordered && fx4.trap.isNone && s.launchWaits s.hg desc)
    acts := fx4.acts ++ [.launch d.toNat x ws] })

/-- The status that the join of an ordered thread on a launch received while it waited (R150, R228). -/
def State.joinGot (s : State) (id : Nat) : Option Word :=
  if !s.ordered then none
  else match s.ordOf s.th.uid with
    | some (_, o) => (o.got.filter (fun g => g.1 == id)).map (fun g => g.2)
    | none => none

/-- join (R150, R228). -/
def execJoin (d a : Reg) (s : State) : Host.Outcome State Fault Refusal :=
  let id := (s.val a).toNat
  let fx := (s.use a s.fx0).onBaton
  let twice : Bool := match s.ordOf s.th.uid with
    | some (_, o) => s.ordered && o.services.contains (.joinDone id)
    | none => false
  match (if twice then none else s.joinGot id), (if twice then none else s.launches.find? (fun l => l.1 == id)) with
  | some st, _ => s.finish (s.put d st { fx with acts := fx.acts ++ [.joinDone id] })
  | none, none => s.finish (s.put d (fld 62 1) fx)
  | none, some (_, l) =>
    if s.ordered then
      if l.counter = 0 then s.finish (s.put d l.status { fx with acts := fx.acts ++ [.joinDone id] })
      else s.finish { fx with wait := true, acts := fx.acts ++ [.joinWait id] }
    else s.finish { s.putLater d (.reg d.toNat 64 false) fx with holdOn := some (.join id) }

/-- bar (R151, R228). -/
def execBar (d a : Reg) (s : State) : Host.Outcome State Fault Refusal :=
  let x := s.val a
  let t := s.th
  let fx := (s.use a s.fx0).onBaton
  match s.launchOf t with
  | none => s.finish (s.trapFx fx true 4 0 x)
  | some l =>
    let b : Barrier := { id := 0, launch := t.launch.getD 0, rx := bits x 5 0, ry := bits x 11 6, lw := bits x 14 12, lh := bits x 17 15 }
    let bx := l.x0 + b.rx
    let by0 := l.y0 + b.ry
    let holds := decide (bx ≤ xOf t.lin) && decide (xOf t.lin < bx + 2 ^ b.lw) && decide (by0 ≤ yOf t.lin)
      && decide (yOf t.lin < by0 + 2 ^ b.lh)
    if !l.legal bx by0 b.lw b.lh || !holds then s.finish (s.trapFx fx true 4 0 x)
    else if s.ordered then
      let went : Bool := match s.ordOf t.uid with
        | some (_, o) => o.services.contains (.barPass b t.lin t.k)
        | none => false
      match s.barriers.find? (fun y => y.same b && y.done.isSome && !went && !y.passed.contains (t.lin, t.k) && y.arrived.contains (t.lin, t.k)) with
      | some y => s.finish (s.put d (BitVec.ofNat 64 (y.done.getD 0)) { fx with acts := fx.acts ++ [.barPass b t.lin t.k] })
      | none => s.finish { fx with wait := true, acts := fx.acts ++ [.barArrive b t.lin t.k] }
    else
      let fx1 := s.putLater d (.reg d.toNat 64 false) fx
      s.finish { fx1 with full := fx1.full || s.barFull s.hg l b, holdOn := some (.bar b.key), acts := fx1.acts ++ [.barArrive b t.lin t.k] }

/-- waitw (R152): the home compares at issue and after each write. In ordered mode it looks at what the home and the
thread's own buffer hold now, or what a load from another package brings, and waits for a later round (R222, R228). -/
def execWaitw (d a b : Reg) (s : State) : Host.Outcome State Fault Refusal :=
  let va := s.val a
  let r := s.global va.toNat 8 1
  let fx := (s.use b (s.use a s.fx0)).onBaton
  match r.place? with
  | none => s.finish (s.putLater d .none (r.stage fx))
  | some p =>
    let fx1 := s.noteRead p va 8 (r.stage fx)
    let here := s.peek p va 8
    match s.ordered, here with
    | true, some v => if (s.val b).toNat ≤ v then s.finish (s.put d (BitVec.ofNat 64 v) fx1) else s.finish { fx1 with wait := true }
    | true, none => s.finish { s.putLater d (.reg d.toNat 64 false) fx1 with
        req := some (s.packet p va (.load 8)), probe := some (s.val b) }
    | false, _ => s.finish { s.putLater d (.reg d.toNat 64 false) fx1 with req := some (s.packet p va (.waitw (s.val b))) }

/-- The checks of enq and deq in the order of R350: both addresses and alignments first, then A's other checks, then
the local block's. -/
def State.queueChecks (s : State) (va b : Word) (stores : Bool) (fx : Fx) : Fx :=
  let r := s.global va.toNat 64 2
  let fx1 := if !spanOk va.toNat 64 || va.toNat % 64 != 0 then r.stage fx else fx
  let fx2 := s.localCheck b.toNat 64 64 (if stores then 2 else 1) fx1
  let fx3 := r.stage fx2
  if stores then s.storeCheck b.toNat 64 64 fx3 else s.loadCheck b.toNat 64 64 fx3

/-- enq (R153, R227). -/
def execEnq (d a b : Reg) (s : State) : Host.Outcome State Fault Refusal :=
  let va := s.val a
  let fx := (s.queueChecks va (s.val b) false (s.use b (s.use a s.fx0))).onBaton
  let dst : Dst := .reg d.toNat 64 false
  let fx1 := s.putLater d dst fx
  match (s.global va.toNat 64 2).place? with
  | none => s.finish fx1
  | some p =>
    let pkt := s.packet p va (.enq (s.localWords (s.val b).toNat 8))
    if s.ordered then s.finish { fx1 with acts := fx1.acts ++ [.call pkt dst] } else s.finish { fx1 with req := some pkt }

/-- deq (R154, R222, R227): in ordered mode an empty queue ends the quantum before the group. -/
def execDeq (d a b : Reg) (s : State) : Host.Outcome State Fault Refusal :=
  let va := s.val a
  let fx := (s.queueChecks va (s.val b) true (s.use b (s.use a s.fx0))).onBaton
  let dst : Dst := .item d.toNat (s.val b).toNat
  let fx1 := s.putLater d dst fx
  match (s.global va.toNat 64 2).place? with
  | none => s.finish fx1
  | some p =>
    let pkt : Packet := { s.packet p va .deq with sslot := if s.ordered then 1 else 0 }
    if s.ordered then
      let empty := match s.peek p va 64 with
        | some h => h / 2 ^ 128 % 2 ^ 64 == h / 2 ^ 192 % 2 ^ 64
        | none => false
      if empty then s.finish { fx1 with wait := true }
      else s.finish (s.endsQ { fx1 with req := some pkt })
    else s.finish { fx1 with req := some pkt }

/-- The registers that a run-ahead child receives, by workspace offset (R155). -/
def State.spawnRegs (s : State) : Memory :=
  let b := wsBase s.th.wp
  ((s.cor.lmem.slice (b + 8) 216) ++ (s.cor.lmem.slice (b + 256) 512)).map (fun e => (e.1 - b, e.2))

/-- spawna (R155): once per iteration; in ordered mode the thread's next texit continues at A, and a second spawna of the
iteration, which writes 0, sets no warning bit (DESIGN CHOICE, log 63). The spawner stalls while the child's core has no
run-queue entry or a ready list (DESIGN CHOICE, log 64). A guest goes home and a pending register write is awaited, since
the child's registers are read. -/
def execSpawna (d a : Reg) (s : State) : Host.Outcome State Fault Refusal :=
  let t := s.th
  let fx := s.use a s.fx0
  if t.spawned then s.finish (s.put d 0 fx)
  else
    let fx1 := s.putLater d (.reg d.toNat 64 false) { fx with
      stall := fx.stall || !(s.slotAt s.core s.slot).pend.isEmpty, home := fx.home || s.isGuest }
    if s.ordered then
      s.finish { fx1.warnWith (warnBit 25 true) with acts := fx1.acts ++ [.respawn d.toNat (s.val a)] }
    else
      let held := match t.chain with
        | some c => decide (8 ≤ (s.chains.get {} c).iters.length)
        | none => false
      let child := coreOfSlice (thicketOf s.core) ((sliceOf s.core + 1) % 8)
      s.finish { fx1 with
        full := fx1.full || held || !s.rqRoom child
        acts := fx1.acts ++ [.spawna d.toNat (s.val a) s.spawnRegs] }

/-- baton (R156). -/
def execBaton (s : State) : Host.Outcome State Fault Refusal :=
  let fx := s.fx0
  if s.ahead then s.finish { fx with holdOn := some .baton, acts := fx.acts ++ [.baton] }
  else s.finish (fx.warnWith (warnBit 27 true))

/-- scwait (R157). -/
def execScwait (sc a : Reg) (s : State) : Host.Outcome State Fault Refusal :=
  let fx := s.useSc (s.use a (s.illegal (decide (7 < sc.toNat)) s.fx0))
  s.finish (s.waitThenTrap (decide ((s.val a).toNat < (s.coreAt s.th.home).sc s.th.homeWp sc.toNat)) fx)

end Sys2Proof.Machine
end

