-- ==== Sys2Proof/Machine/EvRound.lean ====
section
/-! DEFINITION. The rounds of an ordered launch: start, squash and commit (11 R222-R229). -/

namespace Sys2Proof.Machine

/-- Change an ordered launch. -/
def State.modLaunch (s : State) (id : Nat) (f : OrdLaunch → OrdLaunch) : State :=
  { s with ords := s.ords.set id (f (s.ords.get {} id)) }

/-- The slot of a task of an ordered launch that waits at a round boundary. -/
def State.atBoundary (s : State) (t : OrdTask) : Bool :=
  match s.whereIs t.uid with
  | some (n, k) => (match (s.slotAt n k).hold with
    | some (.commit, _) => !(s.thAt n k).sys
    | _ => false)
  | none => false

/-- Accesses, messages to the launch's cores and answers of a thread that are still under way (R229). -/
def State.pendingOf (s : State) (o : OrdLaunch) (uid : Nat) : Bool :=
  let own (c : Source) : Bool := c.uid == uid && c.job == 0 && !c.far
  s.replies.any (fun r => own r.src)
    || s.net.any (fun p => own p.src && (match p.kind, p.space with
      | .msg _, .core n => o.tasks.any (fun t => t.core == n)
      | .msg _, _ => false
      | _, _ => true))

/-- The thread of an ordered task is stopped (R372). -/
def State.ordStopped (s : State) (t : OrdTask) : Bool :=
  match s.thOf t.uid with
  | some th => s.thStopped t.core th
  | none => false

/-- The conditions under which a round begins (R229). -/
def State.roundReady (s : State) (id : Nat) : Bool :=
  let o := s.ords.get {} id
  let live := o.tasks.filter (fun t => t.st != .gone)
  s.ords.has id && !live.isEmpty && !o.committing
    && (match s.launches.find? (fun l => l.1 == id) with | some l => l.2.todo.isEmpty | none => true)
    && live.all (fun t => t.st == .idle && s.atBoundary t && !s.ordStopped t)
    && o.tasks.all (fun t => !s.pendingOf o t.uid && !s.jobs.any (fun j => j.uid == t.uid && j.holds))
    && live.all (fun t => match t.joins with
      | none => true
      | some l => (match s.launches.find? (fun x => x.1 == l) with | some x => x.2.counter == 0 | none => true))

/-- A thread begins its quantum: its state is kept for a squash (R222, R225). A join it waits in has completed and keeps its
status (R150). -/
def State.beginQuantum (s : State) (t : OrdTask) : State :=
  match s.whereIs t.uid with
  | none => s
  | some (n, k) =>
    let th := { s.thAt n k with buf := [], reads := [] }
    let ws := (s.coreAt th.home).lmem.slice (wsBase th.homeWp + 8) 760
    let got : Option (Nat × Word) := match t.joins.bind (fun id => s.launches.find? (fun l => l.1 == id)) with
      | some (id, l) => some (id, l.status)
      | none => t.got
    let s1 := s.modSlot n k (fun x => { x with hold := none, stalled := false, th := { x.th with buf := [], reads := [] } })
    s1.modOrd t.uid (fun o => { o with
      st := .running, snap := some (th, ws), count := 0, regionOld := [], kept := [], kept23 := [], services := [], undo := [],
      joins := none, got := if t.joins.isSome then got else none, live := !o.waits, waits := false })

/-- Insert a notice into a list in the order of its job's submission, then of its row (R227). -/
def insertNotice (x : Nat × Nat × Nat × Nat × Word) : List (Nat × Nat × Nat × Nat × Word) → List (Nat × Nat × Nat × Nat × Word)
  | [] => [x]
  | y :: r => if x.1 < y.1 ∨ (x.1 = y.1 ∧ x.2.1 < y.2.1) then x :: y :: r else y :: insertNotice x r

/-- ROUND_START: once every condition of R229 holds, every live thread begins its quantum; the notices of the last
round's jobs are delivered first, in the order of submission and of rows, and the barriers that are complete open (R224, R227, R228). -/
def execRoundStart (id : Nat) (s : State) : Host.Outcome State Fault Refusal :=
  if !s.roundReady id then .next s
  else
    let o := s.ords.get {} id
    let s1 := (s.modLaunch id (fun o => { o with notices := [], written := [] }))
    let s2 := (o.notices.foldl (fun l x => insertNotice x l) []).foldl (fun s x => s.notify x.2.2.1 x.2.2.2.1 x.2.2.2.2) s1
    let s3 := (s2.barriers.filter (fun b => b.launch == id && b.done.isNone)).foldl (fun s b => s.settleBar b) s2
    .next ((o.tasks.filter (fun t => t.st != .gone)).foldl (fun s t => s.beginQuantum t) s3)

/-- The words of a message that a quantum popped stand again in its queue (R225). -/
def restoreRx (q : List RxMsg) (m : RxMsg) : List RxMsg :=
  if q.any (fun x => x.id == m.id) then q.map (fun x => if x.id == m.id then m else x)
  else q.filter (fun x => decide (x.id < m.id)) ++ m :: q.filter (fun x => decide (m.id < x.id))

/-- What a quantum changed at its core beside memory is put back (R225). -/
def State.undo1 (s : State) (n : Nat) (u : Undo) : State :=
  match u with
  | .tagen w => s.modCore n (fun c => { c with tagen := w })
  | .row r st a bs => (s.modCore n (fun c => { c with rows := c.rows.set r st })).poke n a bs
  | .tags t ptr => s.modCore n (fun c => { c with tags := t, scptr := ptr })

/-- A quantum is taken back (R225): everything that it changed is restored, and it runs again from its start. -/
def State.rewind (s : State) (t : OrdTask) (st : OrdSt) : State :=
  match s.whereIs t.uid, t.snap with
  | some (n, k), some (th0, ws) =>
    let now := s.thAt n k
    let b := wsBase th0.homeWp
    let s1 := (t.undo.foldl (fun s u => s.undo1 n u) s).modCore th0.home (fun c => { c with lmem := (c.lmem.replace (b + 8) 760 ws).setNum (b + 832) 16 0, dirty := addDirty c.dirty (b + 8) 840 })
    let s2 := t.regionOld.foldl (fun s (r : Nat × Vec) => s.poke n r.1 (toBytes 64 r.2.toNat)) s1
    let s3 := t.kept.foldl (fun s (m : Nat × RxMsg) => s.modCore n (fun c => c.setRx m.1 (restoreRx (c.rx m.1) m.2))) s2
    let back (p : Nat) : List Word := (t.kept23.filter (fun x => x.1 == p)).map (fun x => x.2)
    let s4 := s3.modCore n (fun c => { c with rx2 := back 2 ++ c.rx2, rx3 := back 3 ++ c.rx3 })
    let th := { th0 with deadline := now.deadline, budgetDone := now.budgetDone, trapNext := none }
    let s5 := (s4.dropHold n k).modSlot n k (fun x => { x with th := th, pend := [], stalled := false })
    s5.modOrd t.uid (fun o => { o with st := st, count := 0, regionOld := [], kept := [], kept23 := [], services := [],
                                       undo := [], joins := none, waits := false })
  | _, _ => s

/-- Tasks of an ordered launch, highest ordinal first. -/
def highFirst (ts : List OrdTask) : List OrdTask :=
  ts.foldl (fun l x => l.takeWhile (fun y => decide (x.ordinal < y.ordinal)) ++ x
    :: l.dropWhile (fun y => decide (x.ordinal < y.ordinal))) []

/-- The quanta of higher ordinals on the same core that used what its threads share, or wait, highest first: the squashed
quantum used it before them (R224, R232). -/
def OrdLaunch.after (o : OrdLaunch) (t : OrdTask) : List OrdTask :=
  let used (x : OrdTask) : Bool := x.core == t.core && decide (t.ordinal < x.ordinal) && x.st == .ended
    && (!x.kept.isEmpty || !x.kept23.isEmpty || !x.undo.isEmpty || x.waits)
  highFirst (o.tasks.filter used)

/-- A squash (R225): the quantum is taken back and runs again. The quanta of higher ordinals that used what the core's
threads share run again too, uncounted, since they come after it (R224; DEDUCED, log 76). -/
def State.squash (s : State) (o : OrdLaunch) (t : OrdTask) : State :=
  let s1 := (o.after t).foldl (fun s x => s.rewind x .running) s
  (s1.rewind t .rerun).modOrd t.uid (fun o => { o with squashes := o.squashes + 1 })

/-- The commit of a quantum begins (R224), once its thread stands at its end and nothing it sent is under way: a quantum that read what the round has written is squashed, else its buffer
drains; the lines enter the written set. -/
def State.commitBegin (s : State) (id : Nat) (t : OrdTask) : State :=
  let o := s.ords.get {} id
  match s.whereIs t.uid with
  | none => s
  | some (n, k) =>
    let th := s.thAt n k
    if !s.atBoundary t || s.pendingOf o t.uid then s
    else if !(s.slotAt n k).pend.isEmpty then s.flushPend n k
    else if t.st == .ended && th.reads.any (fun r => o.written.contains r) then s.squash o t
    else if s.drainWaits th.home th.buf then s
    else
      let lines := th.buf.map (fun e => match e with
        | .line sp ln .. => (sp, ln)
        | .amo p => (p.space, p.loc / 64 * 64)) ++ t.undo.flatMap (fun u => match u with
        | .row _ _ a _ => (List.range 4).map (fun i => (Space.core n, a + 64 * i))
        | _ => [])
      let s1 := s.modLaunch id (fun o => { o with committing := true, written := lines ++ o.written })
      (s1.modOrd t.uid (fun o => { o with st := .committing })).drainBuf th

/-- Whether a quantum-end group finds room for its effects (R227): run queue, launch table, job queue. -/
def State.roomFor (s : State) (n k : Nat) (fx : Fx) : Bool :=
  fx.acts.all (fun a => match a with
    | .tcreate .. => s.rqRoom n
    | .launch _ _ desc => !s.launchWaits (hedgeOf n) (LaunchDesc.of desc (s.thAt n k).ctx false)
    | .job _ kind .. => !s.queueFull (queueAt kind n)
    | _ => true)

/-- The next service of a committing quantum (R227): performed when its resource has room. A tdec or pf has been counted at
issue (R124). An arrival that finds a hedge with 16 open barriers does not count, and its thread tries again in a later
round (R151, R228; DEDUCED, log 65). -/
def State.commitService (s : State) (n k : Nat) (t : OrdTask) (a : Act) : State :=
  match a with
  | .send p ws _ =>
    if 32 ≤ s.outgoing n p then s
    else (s.act n k false (.send p ws false)).serviceDone t.uid
  | .call p dst =>
    if p.id != 0 then s
    else
      let r := (s.noteWritten t.uid p.space (p.loc / 64 * 64)).post p
      r.2.modOrd t.uid (fun o => { o with services := .call { p with id := r.1 } dst :: o.services.tail })
  | .post p => ((if p.kind == .pf then s else s.noteWritten t.uid p.space (p.loc / 64 * 64)).post p).2.serviceDone t.uid
  | .barArrive b _ _ =>
    let room (x : Nat × Launch) : Bool := x.1 == b.launch && !s.barFull (hedgeOf n) x.2 b
    (if s.launches.any room then s.act n k false a else s).serviceDone t.uid
  | .joinDone _ => ((s.act n k false a).modOrd t.uid (fun o => { o with got := none })).serviceDone t.uid
  | a => (s.act n k false a).serviceDone t.uid

/-- The quantum of a thread has been committed. -/
def State.commitEnd (s : State) (uid : Nat) : State :=
  s.modOrd uid (fun o => if o.st == .committing then { o with st := .committed } else o)

/-- The held group of a committing quantum (R222, R226, R227): its access is sent, or it is performed once there is room;
a texit with a full deferred record is left unperformed. -/
def State.commitGroup (s : State) (id n k : Nat) (t : OrdTask) (fx : Fx) : State :=
  match fx.req with
  | some p =>
    let r := s.post p
    let s1 := r.2.modLaunch id (fun o => { o with written := (p.space, p.loc / 64 * 64) :: o.written })
    s1.modSlot n k (fun x => { x with hold := some (.reply r.1, { fx with holdOn := none }) })
  | none =>
    let th := s.thAt n k
    if fx.ctl == some .texit && (th.deferred.isSome || (s.coreAt th.home).anySc th.homeWp) then
      (s.dropHold n k).modSlot n k (fun x => { x with hold := some (.commit, {}) })
    else if !s.roomFor n k fx then s
    else
      let s1 := (s.modSlot n k (fun x => { x with hold := none })).modCore n (fun c => c.popHeld t.uid)
      (s1.perform n k { fx with holdOn := none } false).commitEnd t.uid

/-- The next piece of the commit of a quantum (R224, R226, R227). -/
def State.commitPiece (s : State) (id : Nat) (t : OrdTask) : State :=
  let o := s.ords.get {} id
  match s.whereIs t.uid with
  | none => s
  | some (n, k) =>
    if s.pendingOf o t.uid then s
    else match t.services with
    | a :: _ => s.commitService n k t a
    | [] =>
      match (s.slotAt n k).hold with
      | some (.commit, fx) => if fx.sylls = 0 then s.commitEnd t.uid else s.commitGroup id n k t fx
      | _ => s

/-- The task of least ordinal that meets a test. -/
def lowestOrd (ts : List OrdTask) (p : OrdTask → Bool) : Option OrdTask :=
  (ts.filter p).foldl (fun best t => match best with
    | none => some t
    | some (b : OrdTask) => if t.ordinal < b.ordinal then some t else some b) none

/-- ROUND_COMMIT: when every quantum of the round has ended, the arbiter commits them one piece at a time in ascending
ordinal; a squashed quantum runs again first; then the round is over (R224-R227). It counts where a thread was live at its
start or performed a group (R228, R231). -/
def execRoundCommit (id : Nat) (s : State) : Host.Outcome State Fault Refusal :=
  let o := s.ords.get {} id
  if !s.ords.has id || o.tasks.any (fun t => t.st == .running || t.st == .rerun) then .next s
  else match lowestOrd o.tasks (fun t => t.st == .committing) with
  | some t => .next (s.commitPiece id t)
  | none =>
    match lowestOrd o.tasks (fun t => t.st == .ended || t.st == .reended) with
    | some t => .next (if s.ordStopped t then s else s.commitBegin id t)
    | none =>
      if o.tasks.all (fun t => t.st == .gone)
          && (match s.launches.find? (fun l => l.1 == id) with | some l => l.2.counter == 0 | none => true) then
        .next { s with ords := s.ords.del id }
      else if o.tasks.any (fun t => t.st == .committed) || o.committing then
        let worked := o.tasks.any (fun t => t.live || decide (0 < t.count))
        .next (s.modLaunch id (fun o => { o with
          round := if worked then o.round + 1 else o.round
          committing := false
          written := []
          tasks := o.tasks.map (fun t => { t with
            st := if t.st == .committed then .idle else t.st, count := 0, live := false }) }))
      else .next s

end Sys2Proof.Machine
end

