-- ==== Sys2Proof/Machine/EvPre.lean ====
section
/-! DEFINITION. Pre-emption (19 R371-R376): stopping a context on a rectangle, saving, restoring and killing it. An
operation is one event that is repeated until PRECTL.busy falls: each time it takes what can be taken. -/

namespace Sys2Proof.Machine

/-! ### Jobs at their resume points (R373) -/

/-- Give the claims of a job back to what it asks for, and drop what it has read and not yet used (R219, R373); an atomic
that has been answered stays. -/
def Job.unclaim (j : Job) : Job :=
  let w := j.claims.foldl (fun l c => claimInsert c l) j.want
  { j with claims := [], want := w, fetched := j.fetched.filter (fun f => f.1 == 1)
           ph := if j.ph = .start then .start else if w.isEmpty then .active else .claiming }

/-- The words at which a job can stop within a launch: block steps, chunks, steps and rows. -/
def stopsInside (w : Nat) : Bool := [0x040A, 0x040B, 0x040C, 0x0C01, 0x0C02, 0x0C03, 0x0C04, 0x1404].contains w

/-- A running job as it stands stopped at its resume point, or none while it has to go on (R373): the writes of a unit are
made, a butterfly word is completed, a row in progress is settled, a collective step is ended. -/
def Job.rest (j : Job) : Option Job :=
  let w := (j.prog.getD j.ip 0).toNat
  let stop (b : Bool) : Option Job := if b then some j.unclaim else none
  if j.pending.isSome then none
  else match j.out with
  | some (_, _ :: _) => none
  | _ =>
    if w = 0x1801 then (if j.out.isSome then none else some { j with ph := .start, unitIdx := 0, claims := [], want := [], fetched := [] })
    else match j.ph with
    | .start => stop true
    | .claiming => stop (w != 0x0807)
    | .active =>
      if w = 0x1404 then stop j.clResting
      else if stopsInside w then stop j.out.isNone
      else if w = 0x1003 then stop (j.rt.threads.all (fun t => t.row.isNone))
      else if w = 0x1004 then stop (j.rt.busyOpen.isNone && j.out.isNone)
      else none
    | .draining => if w = 0x1C02 then some j else none

/-- A job of a context that a stop covers. -/
def State.jobStopped (s : State) (j : Job) : Bool := s.stopLin j.ctx j.lin

/-! ### Stopping (R372 steps 1-5) -/

/-- A slot of a stopped context gives up a waiting group; a guest goes home. -/
def State.stopSlot (s : State) (n k : Nat) : State :=
  let x := s.slotAt n k
  if x.st == .guest && x.hold.isNone then s.modSlot n k (fun x => { x with hold := some (.goHome, {}) }) else s.abandonWait n k

/-- The slots that hold threads of stopped contexts. -/
def State.stoppedSlots (s : State) (ctx : Nat) : List (Nat × Nat) :=
  s.cores.flatMap (fun c => c.2.slots.filterMap (fun e =>
    if e.2.st != .free && e.2.th.ctx == ctx && s.thStopped c.1 e.2.th then some (c.1, e.1) else none))

/-- The quanta of a stopped ordered launch are squashed once no commit is in progress (R225, R372): they run again in
their round after the restore. -/
def State.stopOrd (s : State) (id : Nat) (o : OrdLaunch) : State :=
  if o.tasks.any (fun t => t.st == .committing) then s
  else
    let out := o.tasks.filter (fun t => s.ordStopped t && (t.st == .running || t.st == .ended || t.st == .rerun || t.st == .reended)
      && (t.count != 0 || t.st != .running))
    if out.isEmpty then s
    else
      let s1 := (highFirst out).foldl (fun s t => s.rewind t .running) s
      s1.modLaunch id (fun o => { o with written := [] })

/-- Younger run-ahead iterations of a stopped chain are kept as their spawn snapshots (R372): the oldest that has started
stands again at its spawn point, and those it had created are created again by it. -/
def State.stopChain (s : State) (cid : Nat) (ch : Chain) : State :=
  let halted (u : Nat) : Bool := match s.whereIs u with
    | some (n, k) => s.stopLin (s.thAt n k).ctx (s.thAt n k).lin
    | none => false
  if !ch.baton then s
  else match ch.iters.tail.find? halted with
    | none => s
    | some u => s.restartChain cid ch u

/-- Steps 1 and 2: what can be stopped now is stopped; jobs at their resume points release their claims. -/
def State.stopWork (s : State) (ctx : Nat) : State :=
  let s1 := s.ords.foldl (fun (s : State) (o : Nat × OrdLaunch) => s.stopOrd o.1 o.2) s
  let s2 := s1.chains.foldl (fun (s : State) (c : Nat × Chain) => s.stopChain c.1 c.2) s1
  let s3 := (s2.stoppedSlots ctx).foldl (fun s x => s.stopSlot x.1 x.2) s2
  let may (j : Job) : Bool := j.ctx == ctx && j.st == .running && s3.jobStopped j && !s3.jobTraffic j
  { s3 with jobs := mapIf may (fun j => (j.rest.map (fun x => { x with rests := true })).getD j) s3.jobs }

/-- A thread of the context whose home is stopped. -/
def State.homeStopped (s : State) (ctx : Nat) (t : Thread) : Bool := t.ctx == ctx && s.stopLin ctx t.lin

/-- The baton of a chain with an iteration of the context at a stopped core is still on its way. -/
def State.chainBusy (s : State) (ctx : Nat) (ch : Chain) : Bool :=
  !ch.baton && ch.iters.any (fun u => match s.thOf u with
    | some t => s.homeStopped ctx t
    | none => false)

/-- Steps 2 to 5 are done: every thread stands at a group boundary with its counters zero, guests are home, jobs rest,
commits are finished, and everything that was sent has been performed or delivered. -/
def State.stopped (s : State) (ctx : Nat) : Bool :=
  let slots := s.stoppedSlots ctx
  slots.all (fun x =>
    let y := s.slotAt x.1 x.2
    y.st == .running && (match y.hold with
      | none => true
      | some (.commit, fx) => fx.sylls == 0
      | _ => false)
      && !(s.coreAt y.th.home).anySc y.th.homeWp)
    && s.cores.all (fun c => (c.2.rq.filter (fun e => !e.fresh && s.homeStopped ctx e.th)).all (fun e => !c.2.anySc e.th.homeWp)
      && (c.2.park.filter (fun p => s.homeStopped ctx p.th)).all (fun p => !c.2.anySc p.th.homeWp))
    && !s.migrants.any (fun m => s.homeStopped ctx m.th)
    && !s.decs.any (fun d => d.2 == ctx && s.jobs.any (fun j => j.id == d.1 && j.ctx == ctx && j.holds && s.jobStopped j))
    && !s.ords.any (fun o => o.2.tasks.any (fun t => t.st == .committing && s.ordStopped t))
    && !s.chains.any (fun c => s.chainBusy ctx c.2)
    && s.jobs.all (fun j => !(j.ctx == ctx && j.st == .running && s.jobStopped j) || (j.rest == some j && j.held.isEmpty))
    && !s.net.any (fun p => !p.src.far && p.src.ctx == ctx && s.stoppedAt p.src.core ctx && !(p.kind == .pf) && (match p.kind with | .sysm _ => false | _ => true))
    && !s.replies.any (fun r => !r.src.far && r.src.ctx == ctx && s.stoppedAt r.src.core ctx)

/-- Pending register writes of stopped threads are performed, and PC and SW, with a pending prefix, go to their
workspaces (R372 step 6, R20, R36). -/
def State.flushStopped (s : State) (ctx : Nat) : State :=
  (s.stoppedSlots ctx).foldl (fun s x => (s.flushPend x.1 x.2).savePcSw x.1 (s.thAt x.1 x.2)) s

/-- The operation of PRECTL ends with a result. -/
def State.preDone (s : State) (res : Nat) : State :=
  s.modPkg (fun p => { p with preOn := false, prectl := merge (setBit p.prectl 63 false) (fld 56 res) 59 56 })

/-- PRECTL asks for an operation. -/
def State.preAsks (s : State) (op : Nat) : Bool := s.pkg.prectl.getLsbD 63 && bits s.pkg.prectl 62 61 == op

/-- The context of PRECTL. -/
def State.preCtx (s : State) : Nat := bits s.pkg.prectl 15 0

/-- The stop of the operation is in force (R372 step 1). -/
def State.preBegin (s : State) : State :=
  let x := (s.preCtx, s.pkg.prerect)
  if s.pkg.preOn then s else s.modPkg (fun p => { p with preOn := true, stops := if p.stops.contains x then p.stops else p.stops ++ [x] })

/-! ### The image (R374) -/

/-- The logical cores of PRERECT in linear order. -/
def rectCores (r : Word) : List Nat :=
  (List.range (Nat.min (bits r 44 38) (64 - bits r 57 52))).flatMap (fun j =>
    (List.range (Nat.min (bits r 51 45) (64 - bits r 63 58))).map (fun i => linOf (bits r 63 58 + i) (bits r 57 52 + j)))

/-- A message that an image takes along: held for a tag of the context, bound to one of its tasks, or claimed by one of
its slots. -/
def Core.savesMsg (c : Core) (ctx : Nat) (slots : Tbl Slot) (m : RxMsg) : Bool :=
  match m.owner with
  | .held => (let e := c.tagattr.get 0 (bits m.hdr 42 37); e.getLsbD 63 && bits e 15 0 == ctx)
  | .task u => slots.any (fun x => x.2.th.uid == u) || c.rq.any (fun e => e.th.uid == u && e.th.ctx == ctx)
      || c.park.any (fun e => e.th.uid == u && e.th.ctx == ctx)
  | .slot k => slots.any (fun x => x.1 == k)
  | .direct => false

/-- The tags of a context at a core. -/
def Core.tagsOf (c : Core) (ctx : Nat) : List Nat :=
  (List.range 64).filter (fun t => (c.tagattr.get 0 t).getLsbD 63 && bits (c.tagattr.get 0 t) 15 0 == ctx)

/-- The workspaces of handlers from one on: of a handler that was itself trapped, the frame names the workspace of the
handler outside it (R352, R372). -/
def Core.handlerWs (c : Core) : Nat → Nat → List Nat
  | 0, _ => []
  | f + 1, w => w :: (if swMode (c.word (wsBase w + 792)) then c.handlerWs f (bits (c.word (wsBase w + 824)) 16 10) else [])

/-- Where the mailbox rows of a core lie, if it has them (R302). -/
def Core.rowsAt (c : Core) : Option Nat := if c.mben then some (c.entryAt 0 0) else none

/-- The section of a core (R374): lines lo..hi, or of them only the dirty ones. The workspaces of handlers are those that SWP,
WP and the frames there name (DESIGN CHOICE, log 71). -/
def State.saveCore (s : State) (ctx lin n : Nat) (lo hi : Nat) (inc : Bool) : CoreImage :=
  let c := s.coreAt n
  let slots := c.slots.filter (fun x => x.2.st != .free && x.2.th.ctx == ctx)
  let mine (t : Thread) : Bool := t.ctx == ctx
  let waits := c.rq.filter (fun e => !e.fresh && mine e.th)
  let own := slots.map (fun x => x.2.th.homeWp) ++ waits.map (fun e => e.th.homeWp)
    ++ (c.park.filter (fun p => mine p.th)).map (fun p => p.th.homeWp)
  let ws := (own ++ (slots.filter (fun x => x.2.th.sys)).flatMap (fun x => c.handlerWs 128 x.2.swp ++ c.handlerWs 128 x.2.th.wp)
    ++ (waits.filter (fun e => e.th.sys)).flatMap (fun e => c.handlerWs 128 e.th.wp)).eraseDups
  let aged (e : RqEntry) : RqEntry := { e with aged := e.aged + (c.cycles - e.waited), waited := c.cycles }
  let lines := ((List.range (hi - lo)).map (fun i => lo + i)).filter (fun l => !inc || c.dirty.contains l)
  let tags := c.tagsOf ctx
  { lin := lin, slots := slots, rq := (c.rq.filter (fun e => mine e.th)).map aged, park := c.park.filter (fun p => mine p.th),
    ready := c.ready.filter (fun r => r.ctx == ctx), rx0 := c.rx0.filter (c.savesMsg ctx slots), rx1 := c.rx1.filter (c.savesMsg ctx slots),
    ws := ws, own := own.eraseDups, wsMem := c.lmem.filter (fun e => ws.contains (e.1 / 1024)), lines := lines
    lineMem := c.lmem.filter (fun e => lines.contains (e.1 / 256))
    tagpc := tags.map (fun t => (t, c.tagpc.get 0 t)), tagattr := tags.map (fun t => (t, c.tagattr.get 0 t))
    tagen := tags.foldl (fun w t => if c.tagen.getLsbD t then w ||| fld t 1 else w) 0
    rows := c.rows, rowBase := c.rowsAt, rowMem := (c.rowsAt.map (fun a => c.lmem.slice a 16384)).getD [] }

/-- A launch of the context whose rectangle lies in PRERECT. -/
def Launch.inside (l : Launch) (ctx : Nat) (r : Word) : Bool :=
  l.ctx == ctx && decide (0 < l.wx) && inRect r (linOf l.x0 l.y0) && inRect r (linOf (l.x0 + l.wx - 1) (l.y0 + l.wy - 1))

/-- What a thicket's matrix engine holds of a context (R373). -/
def Thicket.ownedBy (t : Thicket) (ctx : Nat) : Thicket :=
  let a : Bool := t.accOwner == some ctx
  let b : Bool := t.tileOwner == some ctx
  { accs := if a then t.accs else [], accOwner := if a then some ctx else none, tile := if b then t.tile else []
    texp := if b then t.texp else [], tileOwner := if b then some ctx else none }

/-- The same without what it holds of the context. -/
def Thicket.without (t : Thicket) (ctx : Nat) : Thicket :=
  let a : Bool := t.accOwner == some ctx
  let b : Bool := t.tileOwner == some ctx
  { accs := if a then [] else t.accs, accOwner := if a then none else t.accOwner, tile := if b then [] else t.tile
    texp := if b then [] else t.texp, tileOwner := if b then none else t.tileOwner }

/-- The image of a context on a rectangle (R374). -/
def State.saveImage (s : State) (ctx : Nat) (r : Word) (inc : Bool) (no : Nat) (hdr : List Word) : Image :=
  let ls := s.launches.filter (fun l => l.2.inside ctx r)
  let cs := (rectCores r).filterMap (fun lin => (s.place 256 ctx lin).map (fun n => (lin, n)))
  let cores := cs.map (fun c => s.saveCore ctx c.1 c.2 (bits r 37 29) (Nat.min 512 (bits r 28 19)) inc)
  let uids := cores.flatMap (fun c => c.slots.map (fun x => x.2.th.uid) ++ c.rq.map (fun e => e.th.uid) ++ c.park.map (fun p => p.th.uid))
  let thickets := (cs.foldl (fun (a : Tbl Thicket) c => a.set (thicketOf c.1) ((s.thicket (thicketOf c.2)).ownedBy ctx)) []).filter
    (fun t => t.2.accOwner.isSome || t.2.tileOwner.isSome)
  { no := no, hdr := hdr, cores := cores
    jobs := s.jobs.filter (fun j => j.ctx == ctx && j.holds && inRect r j.lin)
    launches := ls, barriers := s.barriers.filter (fun b => ls.any (fun l => l.1 == b.launch))
    chains := s.chains.filter (fun c => c.2.iters.any (fun u => uids.contains u))
    ords := s.ords.filter (fun o => ls.any (fun l => l.1 == o.1)), thickets := thickets }

/-- The length of an image (R374): header, lines and workspaces, and what the device's own format adds. -/
def Image.len (i : Image) : Nat :=
  64 + 256 * (i.cores.map (fun c => c.lines.length)).sum + 1024 * (i.cores.map (fun c => c.ws.length)).sum + Config.imageMore i.no

/-- The header of an image (R374). -/
def imageHeader (ctx : Nat) (inc : Bool) (rect : Word) (seq len prev : Nat) : List Word :=
  [fld 32 (boolWord inc).toNat ||| fld 16 ctx ||| 1, rect, BitVec.ofNat 64 seq, BitVec.ofNat 64 len, BitVec.ofNat 64 prev, 0, 0, 0]

/-- Write words at a virtual address of context 0, eight at a time; none where a line cannot be written. -/
def State.writeArea (s : State) (va : Nat) : Nat → List Word → Option State
  | 0, _ => some s
  | fuel + 1, ws =>
    if ws.isEmpty then some s
    else match s.resolve 256 0 true (va : Int) 64 2 with
      | .ok q _ =>
        (match q with
        | .remote .. | .loc none _ => none
        | _ => State.writeArea ((s.homePut q.space (q.addr (BitVec.ofNat 64 va)) 64 (wordsNum (ws.take 8)) q.pol).wrote 0 q.space (q.addr (BitVec.ofNat 64 va)))
            (va + 64) fuel (ws.drop 8))
      | _ => none

/-- Read words from a virtual address of context 0; none where a word cannot be read. -/
def State.readArea (s : State) (va : Nat) : Nat → Option (List Word)
  | 0 => some []
  | n + 1 =>
    match s.resolve 256 0 true (va : Int) 8 1 with
    | .ok q _ =>
      (match q with
      | .remote .. | .loc none _ => none
      | _ => (State.readArea s (va + 8) n).map (fun r => BitVec.ofNat 64 (s.homeNum q.space (q.addr (BitVec.ofNat 64 va)) 8) :: r))
    | _ => none

/-- The body words of an image, in the device's own format. -/
def Image.body (i : Image) : List Word := (List.range ((i.len - 64) / 8)).map (fun k => Config.imageWord i.no k)

/-- What an image holds leaves a core (R372 step 7): threads, queue entries, messages; its workspaces are free, the tags
of the context are invalid, the lines saved are clean. -/
def State.removeCore (s : State) (ctx n : Nat) (c : CoreImage) : State :=
  let gone (m : RxMsg) : Bool := c.rx0.any (fun x => x.id == m.id) || c.rx1.any (fun x => x.id == m.id)
  let s1 := c.slots.foldl (fun s x => s.freeSlot n x.1) s
  s1.modCore n (fun k =>
    let k1 := c.own.foldl (fun k w => k.setFree w true) k
    { k1 with
      rq := k1.rq.filter (fun e => e.th.ctx != ctx)
      park := k1.park.filter (fun p => p.th.ctx != ctx)
      ready := k1.ready.filter (fun r => r.ctx != ctx)
      rx0 := k1.rx0.filter (fun m => !gone m)
      rx1 := k1.rx1.filter (fun m => !gone m)
      tagattr := c.tagattr.foldl (fun (a : Tbl Word) e => a.set e.1 (setBit e.2 63 false)) k1.tagattr
      dirty := k1.dirty.filter (fun l => !c.lines.contains l) })

/-- The context's state leaves the rectangle (R372 step 7). -/
def State.removeImage (s : State) (ctx : Nat) (i : Image) : State :=
  let s1 := i.cores.foldl (fun s c => match s.place 256 ctx c.lin with
    | some n => s.removeCore ctx n c
    | none => s) s
  let s2 := i.thickets.foldl (fun s t => match s.place 256 ctx (coreOfSlice t.1 0) with
    | some n => s.modThicket (thicketOf n) (fun t => t.without ctx)
    | none => s) s1
  { s2 with
    jobs := s2.jobs.filter (fun j => !i.jobs.any (fun x => x.order == j.order))
    launches := s2.launches.filter (fun l => !i.launches.any (fun x => x.1 == l.1))
    barriers := s2.barriers.filter (fun b => !i.barriers.any (fun x => x.id == b.id))
    chains := s2.chains.filter (fun c => !i.chains.any (fun x => x.1 == c.1))
    ords := s2.ords.filter (fun o => !i.ords.any (fun x => x.1 == o.1)) }

/-- Steps 6 to 8 of a save (R372). -/
def State.saveNow (s0 : State) : State :=
  let s := s0.flushStopped s0.preCtx
  let ctx := s.preCtx
  let inc := s.pkg.prectl.getLsbD 60
  let no := s.nextId
  let i0 := s.saveImage ctx s.pkg.prerect inc no []
  let last := s.pkg.imgSeq.get 0 ctx
  let hdr := imageHeader ctx inc s.pkg.prerect (last + 1) i0.len (if inc then last else 0)
  let i := { i0 with hdr := hdr }
  if s.pkg.prelen.toNat < i.len then s.preDone 1
  else match s.writeArea s.pkg.preimg.toNat (i.len / 64 + 2) (hdr ++ i.body) with
    | none => s.preDone 1
    | some s1 =>
      let s2 := s1.removeImage ctx i
      let s3 : State := { s2 with images := i :: s2.images, nextId := s2.nextId + 1 }
      (s3.modPkg (fun p => { p with imgSeq := p.imgSeq.set ctx (last + 1) })).preDone 0

/-- PREEMPT_SAVE (R372). -/
def execPreemptSave (s : State) : Host.Outcome State Fault Refusal :=
  if !s.preAsks 0 then .next s
  else
    let s1 := s.preBegin.stopWork s.preCtx
    .next (if s1.stopped s.preCtx then s1.saveNow else s1)

/-! ### Restoring (R375) -/

/-- A thread that can go on only in the slot it was saved from: inside a handler, or in its place in a round. -/
def Image.needs (i : Image) (x : Slot) : Bool := x.th.sys || (match x.th.launch with
  | some l => i.ords.any (fun o => o.1 == l)
  | none => false)

/-- The bit of a workspace in WSFREE (R108). -/
def Core.isFree (c : Core) (i : Nat) : Bool := if i < 64 then c.wsfree0.getLsbD i else c.wsfree1.getLsbD (i - 64)

/-- The image in the device's own format that a header and body name. -/
def State.findImage (s : State) (hdr : List Word) : Option Image :=
  s.images.find? (fun i => i.hdr == hdr && (match s.readArea (s.pkg.preimg.toNat + 64) ((i.len - 64) / 8) with
    | some b => b == i.body
    | none => false))

/-- Local lines of an image are written back; they are clean (R374, R375). -/
def State.restoreLines (s : State) (n : Nat) (c : CoreImage) : State :=
  s.modCore n (fun k => { k with
    lmem := c.lines.foldl (fun (m : Memory) l => m.replace (256 * l) 256 c.lineMem) k.lmem
    dirty := k.dirty.filter (fun l => !c.lines.contains l) })

/-- A restored thread: its home is the core that the placement map names now. -/
def Thread.moved (t : Thread) (n : Nat) : Thread := { t with home := n }

/-- A saved thread returns to its slot and goes on from its workspace, or to the run queue ahead of its priority where the
slot is taken. -/
def State.restoreSlot (s : State) (n : Nat) (k : Nat) (x : Slot) : State :=
  let y := s.slotAt n k
  if y.st == .free then
    s.modCore n (fun c => c.setSlot k { x with th := c.loadPcSw (x.th.moved n), swp := if x.th.sys then x.swp else y.swp })
  else s.requeue (x.th.moved n) true

/-- The section of a core is written (R375). -/
def State.restoreCore (s0 : State) (n : Nat) (c : CoreImage) : State :=
  let s := s0.restoreLines n c
  let s1 := s.modCore n (fun k =>
    let k1 := c.own.foldl (fun k w => k.setFree w false) k
    { k1 with
      lmem := c.ws.foldl (fun (m : Memory) w => m.replace (1024 * w) 1024 c.wsMem) (match c.rowBase with
        | some a => k1.lmem.replace a 16384 c.rowMem
        | none => k1.lmem)
      rq := k1.rq ++ c.rq.map (fun e => { e with th := e.th.moved n, waited := k1.cycles })
      park := k1.park ++ c.park.map (fun p => { p with th := p.th.moved n })
      ready := k1.ready ++ c.ready
      rx0 := k1.rx0 ++ c.rx0
      rx1 := k1.rx1 ++ c.rx1
      rows := c.rows
      tagpc := c.tagpc.foldl (fun (a : Tbl Word) e => a.set e.1 e.2) k1.tagpc
      tagattr := c.tagattr.foldl (fun (a : Tbl Word) e => a.set e.1 e.2) k1.tagattr
      tagen := k1.tagen ||| c.tagen })
  c.slots.foldl (fun s x => s.restoreSlot n x.1 x.2) s1

/-- A saved job returns to the queue of its kind at the core its submitter has now (R373). -/
def State.restoreJob (s : State) (j : Job) : Job :=
  match s.place 256 j.ctx j.lin with
  | none => j
  | some n =>
    let at_ (m lin : Nat) : Nat := (s.place 256 j.ctx lin).getD m
    { j with core := n, pq := queueAt j.kind n, rests := false
             want := j.want.map (fun c => if c.loc && c.pkg == s.pkgNo then { c with core := at_ c.core c.lin } else c)
             locks := j.locks.map (fun l => (coreIn (hedgeOf n) (inHedge l.1), l.2)) }

/-- The slots that must be free are free, the run queue and the input queues have room for what the image holds (R107), and
the engines of its running jobs are idle (R282); a restore waits for them. -/
def State.slotsReady (s : State) (ctx : Nat) (i : Image) : Bool :=
  i.cores.all (fun c => match s.place 256 ctx c.lin with
    | some n =>
      let k := s.coreAt n
      let taken := c.slots.filter (fun x => (k.slotAt x.1).st != .free)
      taken.all (fun x => !i.needs x.2) && decide (k.rq.length + c.rq.length + taken.length ≤ 64)
        && decide (s.rxUsed n 0 + rxWords c.rx0 ≤ rxCap 0) && decide (s.rxUsed n 1 + rxWords c.rx1 ≤ rxCap 1)
    | none => false)
    && i.jobs.all (fun j => j.st != .running ||
      (let q (x : Job) : Nat := queueAt x.kind ((s.place 256 ctx x.lin).getD x.core)
       decide ((s.jobs.filter (fun x => x.st == .running && x.kind == j.kind && x.pq == q j)).length
         + (i.jobs.filter (fun x => x.st == .running && x.kind == j.kind && q x == q j)).length ≤ engines j.kind)))

/-- Everything that an image holds is written, and the context's tags and queues are open again (R375). -/
def State.restoreAll (s : State) (ctx : Nat) (i : Image) : State :=
  let s1 := i.cores.foldl (fun s c => match s.place 256 ctx c.lin with
    | some n => s.restoreCore n c
    | none => s) s
  let back (old new : Thicket) : Thicket :=
    { accs := if new.accOwner.isSome then new.accs else old.accs, accOwner := if new.accOwner.isSome then new.accOwner else old.accOwner
      tile := if new.tileOwner.isSome then new.tile else old.tile, texp := if new.tileOwner.isSome then new.texp else old.texp
      tileOwner := if new.tileOwner.isSome then new.tileOwner else old.tileOwner }
  let s2 := i.thickets.foldl (fun s t => match s.place 256 ctx (coreOfSlice t.1 0) with
    | some n => s.modThicket (thicketOf n) (fun o => back o t.2)
    | none => s) s1
  let coreOf (lin m : Nat) : Nat := (s2.place 256 ctx lin).getD m
  let linOfUid (u : Nat) : Option Nat := (i.cores.find? (fun c => c.slots.any (fun x => x.2.th.uid == u)
    || c.rq.any (fun e => e.th.uid == u))).map (fun c => c.lin)
  let s3 : State := { s2 with
    jobs := s2.jobs ++ i.jobs.map s2.restoreJob
    launches := i.launches.foldl (fun (l : Tbl Launch) x => (x.1, { x.2 with die := dieOf (coreOf (linOf x.2.x0 x.2.y0) 0) }) :: l) s2.launches
    barriers := s2.barriers ++ i.barriers
    chains := i.chains.foldl (fun (t : Tbl Chain) x => t.set x.1 { x.2 with
      snaps := x.2.snaps.map (fun y => match linOfUid y.1 with
        | some l => (y.1, coreOf l y.2.1, { y.2.2 with th := y.2.2.th.moved (coreOf l y.2.1) })
        | none => y) }) s2.chains
    ords := i.ords.foldl (fun (t : Tbl OrdLaunch) x => t.set x.1 { x.2 with
      tasks := x.2.tasks.map (fun y => match linOfUid y.uid with
        | some l => { y with core := coreOf l y.core, snap := y.snap.map (fun z => (z.1.moved (coreOf l y.core), z.2)) }
        | none => y) }) s2.ords }
  State.modPkg { s3 with images := mapIf (fun x => x.no == i.no) (fun x => { x with away := false }) s3.images }
    (fun p => { p with stops := p.stops.filter (fun x => x != (ctx, p.prerect)) })

/-- PREEMPT_RESTORE (R375): the checks of the image, of the placement map and of the workspaces; then the local lines
alone, or everything. -/
def execPreemptRestore (s : State) : Host.Outcome State Fault Refusal :=
  if !s.preAsks 1 then .next s
  else
    let ctx := s.preCtx
    let r := s.pkg.prerect
    match s.readArea s.pkg.preimg.toNat 8 with
    | none => .next (s.preDone 5)
    | some hdr =>
      let f := hdr.getD 0 0
      if bits f 15 0 ≠ 1 ∨ bits f 63 33 ≠ 0 then .next (s.preDone 5)
      else if bits f 31 16 ≠ ctx ∨ hdr.getD 1 0 ≠ r then .next (s.preDone 2)
      else if s.pkg.prelen.toNat < (hdr.getD 3 0).toNat then .next (s.preDone 1)
      else match s.findImage hdr with
        | none => .next (s.preDone 5)
        | some i =>
          if !s.mapOk 256 ctx (bits r 63 58) (bits r 57 52) (bits r 51 45) (bits r 44 38) then .next (s.preDone 3)
          else if i.cores.any (fun c => match s.place 256 ctx c.lin with
              | some n => c.own.any (fun w => !(s.coreAt n).isFree w)
              | none => true) then .next (s.preDone 4)
          else if s.pkg.prectl.getLsbD 60 then
            .next ((i.cores.foldl (fun s c => match s.place 256 ctx c.lin with
              | some n => s.restoreLines n c
              | none => s) s).preDone 0)
          else if !s.slotsReady ctx i then .next s
          else .next ((s.restoreAll ctx i).preDone 0)

/-! ### Killing (R376) -/

/-- The tasks, records and held messages of a context at a core are gone; tasks not yet placed count as killed. -/
def State.killCore (s : State) (ctx n : Nat) : State :=
  let c := s.coreAt n
  let s1 := (c.slots.filter (fun x => x.2.st != .free && x.2.th.ctx == ctx)).foldl (fun s (x : Nat × Slot) =>
    (s.endTask x.2.th .killed).leaveSlot n x.1) s
  let s2 := (c.rq.filter (fun e => e.th.ctx == ctx)).foldl (fun s e => if e.fresh then s.endRecord e.th .killed else s.endTask e.th .killed) s1
  let s3 := (c.park.filter (fun p => p.th.ctx == ctx)).foldl (fun s p => s.endTask p.th .killed) s2
  let held (m : RxMsg) : Bool := m.owner == .held && (c.tagsOf ctx).contains (bits m.hdr 42 37)
  let count := ((c.rx0 ++ c.rx1).filter held).length
  s3.modCore n (fun k => { k with
    rq := k.rq.filter (fun e => e.th.ctx != ctx)
    park := k.park.filter (fun p => p.th.ctx != ctx)
    ready := k.ready.filter (fun r => r.ctx != ctx)
    rx0 := k.rx0.filter (fun m => !held m)
    rx1 := k.rx1.filter (fun m => !held m)
    tagdrop := Nat.min (k.tagdrop + count) 0xFFFFFFFF })

/-- Everything of the context on the rectangle ends (R376). -/
def State.killAll (s : State) (ctx : Nat) (r : Word) : State :=
  let ns := (rectCores r).filterMap (fun lin => s.place 256 ctx lin)
  let s1 := ns.foldl (fun s n => s.killCore ctx n) s
  let unplaced (l : Launch) : Launch :=
    let k := (l.todo.filter (fun e => inRect r e.1)).length
    { l with todo := l.todo.filter (fun e => !inRect r e.1), counter := l.counter - k, kill := Nat.min 0xFFFF (l.kill + k)
             ended := (l.todo.filter (fun e => inRect r e.1)) ++ l.ended }
  let s2 : State := { s1 with launches := mapIf (fun l => l.2.ctx == ctx) (fun l => (l.1, unplaced l.2)) s1.launches }
  let s3 := (s2.jobs.filter (fun j => j.ctx == ctx && j.holds && inRect r j.lin)).foldl (fun s j => s.endJob j .cancelled) s2
  s3.modPkg (fun p => { p with stops := p.stops.filter (fun x => x != (ctx, r)) })

/-- PREEMPT_KILL (R376). -/
def execPreemptKill (s : State) : Host.Outcome State Fault Refusal :=
  if !s.preAsks 2 then .next s
  else
    let s1 := s.preBegin.stopWork s.preCtx
    .next (if s1.stopped s.preCtx then ((s1.flushStopped s.preCtx).killAll s.preCtx s.pkg.prerect).preDone 0 else s1)

end Sys2Proof.Machine
end

