-- ==== Sys2Proof/Machine/EvTime.lean ====
section
/-! DEFINITION. The reference counters (00 R10, 06 R121, 07 R133, 19) and uncorrectable errors (19 R368-R370). -/

namespace Sys2Proof.Machine

/-! ### A microsecond of a block (R10) -/

/-- A budget after a microsecond: a finite one decreases and stops at zero; none stays none. -/
def tick (none_ b : Nat) : Nat := if b = none_ then b else b - 1

/-- The workspaces of a core that hold a BUDGET which counts: of running tasks, guests, parked and queued tasks, and of
tasks that are guests elsewhere. -/
def State.budgetWs (s : State) (n : Nat) : List Nat :=
  let c := s.coreAt n
  ((c.slots.filter (fun e => e.2.st != .free)).map (fun e => if e.2.st == .guest then e.2.th.wp else e.2.th.homeWp)
    ++ (c.rq.filter (fun e => !e.fresh)).map (fun e => e.th.homeWp) ++ c.park.map (fun e => e.th.homeWp) ++ s.guestHomes n).eraseDups

/-- The BUDGET word of a workspace after a microsecond. -/
def State.tickWs (s : State) (n wp : Nat) : State :=
  let w := (s.coreAt n).word (wsBase wp + 848)
  let b := w.toNat % 2 ^ 20
  if tick noBudget b = b then s else s.pokeW n (wsBase wp + 848) (merge w (fld 0 (tick noBudget b)) 19 0)

/-- A microsecond of a core: BUDGET words and the run queue. -/
def State.tickCore (s : State) (n : Nat) : State :=
  let s1 := (s.budgetWs n).foldl (fun s w => s.tickWs n w) s
  s1.modCore n (fun c => { c with usec := c.usec + 1, rq := c.rq.map (fun e => { e with budget := tick noBudget e.budget }) })

/-- A microsecond of a job queue: the budgets of its jobs, and the time its running jobs have run. -/
def State.tickQueue (s : State) (pq : Nat) : State :=
  { s with jobs := mapIf (fun j => j.pq == pq && j.holds) (fun j => { j with
      budget := tick noBudget j.budget, usRun := if j.st = .running then j.usRun + 1 else j.usRun }) s.jobs }

/-- A header after a microsecond in transit (R133). -/
def tickHeader (h : Word) : Word := merge h (fld 17 (tick 0xFFFF (bits h 32 17))) 32 17

/-- A message in the network after a microsecond. -/
def Packet.tick (p : Packet) : Packet :=
  match p.kind with
  | .msg (h :: pay) => { p with kind := .msg (tickHeader h :: pay) }
  | _ => p

/-- Wire words after a microsecond: the header of a message is the eighth word (log 24). -/
def tickWire (ws : List Word) : List Word := if wireIsMsg ws then ws.set 7 (tickHeader (ws.getD 7 0)) else ws

/-- A microsecond of the network: packets in transit, waiting to leave, and kept for sending again. -/
def State.tickNet (s : State) : State :=
  { s with net := s.net.map Packet.tick
           egress := s.egress.map (fun e => { e with words := tickWire e.words, late := e.late || (wireIsMsg e.words && bits (e.words.getD 7 0) 32 17 == 1) })
           pairs := s.pairs.map (fun p => (p.1, { p.2 with
             copies := p.2.copies.map (fun c => (c.1, tickWire c.2.1, c.2.2)), heldPk := p.2.heldPk.map (fun c => (c.1, c.2.1, tickWire c.2.2)) })) }

/-- Cycles of the egress queues' clock pass: what waits there ages (R10, R366). -/
def State.tickEgress (s : State) (n : Nat) : State := { s with egress := s.egress.map (fun e => { e with age := e.age + n }) }

/-- REFERENCE_COUNTER_TICK of a block: 0 core idx, 1 job queue idx, 2 the network, 3 the homes of work queues; block 4 counts
idx cycles of the egress queues. -/
def execReferenceCounterTick (block idx : Nat) (s : State) : Host.Outcome State Fault Refusal :=
  .next (match block with
    | 0 => if idx < 4096 then s.tickCore idx else s
    | 1 => s.tickQueue idx
    | 2 => s.tickNet
    | 3 => { s with homeUs := s.homeUs + 1 }
    | 4 => s.tickEgress idx
    | _ => s)

/-! ### Uncorrectable errors (R368-R370) -/

/-- The die's count of uncorrectable errors. -/
def State.countUnc (s : State) (die : Nat) : State :=
  s.modDie (die % 4) (fun d => { d with unc := Nat.min (d.unc + 1) 0xFFFFFFFF })

/-- A granule becomes uncorrectable. -/
def State.spoil (s : State) (kind u addr : Nat) (reg : Bool := false) : State :=
  let g : BadGranule := { kind := kind, u := u, addr := addr, reg := reg }
  if s.bad.contains g then s else { s with bad := g :: s.bad }

/-- A task is killed wherever it stands (R369). -/
def State.killUid (s : State) (u : Nat) : State :=
  match s.whereIs u with
  | some (n, k) =>
    let t := s.thAt n k
    let s1 := (s.endTask t .killed).leaveSlot n k
    if t.home = n then s1 else s1.modCore n (fun c => c.setFree t.wp true)
  | none =>
    match s.cores.findSome? (fun c => (c.2.rq.find? (fun e => e.th.uid == u)).map (fun e => (c.1, e))) with
    | some (n, e) =>
      let s1 := s.modCore n (fun c => { c with rq := c.rq.filter (fun x => x.th.uid != u) })
      if e.fresh then s1.endRecord e.th .killed else s1.endTask e.th .killed
    | none =>
      match s.cores.findSome? (fun c => (c.2.park.find? (fun e => e.th.uid == u)).map (fun e => (c.1, e))) with
      | some (n, e) => (s.modCore n (fun c => { c with park := c.park.filter (fun x => x.th.uid != u) })).endTask e.th .killed
      | none => s

/-- An error in a queue or table of a core (R369): the task whose state it held is killed, the message or notice is
discarded, the tag entry is invalid, the mailbox row's status is a free value. What is struck: a tag below 64, 2^32 + a
mailbox row, 2^33 + 2^16 p + the place of a notice in queue n2 or n3, else the number of a task or message. -/
def State.queueError (s : State) (n a : Nat) : State :=
  let c := s.coreAt n
  let rec0 (ctx : Nat) (id : Word) : State := s.postError (errRecord 6 (if id = 0 then 0 else 1) 0 ctx (unitOf n 0) id)
  if a < 64 then (rec0 0 0).modCore n (fun c => { c with tagattr := c.tagattr.set a (setBit (c.tagattr.get 0 a) 63 false) })
  else if 2 ^ 33 ≤ a then
    let i := a % 2 ^ 16
    (rec0 0 0).modCore n (fun c => if a / 2 ^ 16 % 2 = 0 then { c with rx2 := c.rx2.eraseIdx i } else { c with rx3 := c.rx3.eraseIdx i })
  else if 2 ^ 32 ≤ a then
    (rec0 0 0).modCore n (fun c => { c with rows := c.rows.set (a % 64) (Config.struckRow s.nextId &&& 0xFFFFFFFFFFFFFF01) })
  else match c.rq.find? (fun e => e.th.uid == a) with
  | some e => (rec0 e.th.ctx e.th.tid).killUid a
  | none =>
    match c.park.find? (fun e => e.th.uid == a) with
    | some e => (rec0 e.th.ctx e.th.tid).killUid a
    | none =>
      match (c.rx0 ++ c.rx1).find? (fun m => m.id == a) with
      | some m =>
        let s1 := (rec0 0 0).modCore n (fun c => { c with rx0 := c.rx0.filter (fun m => m.id != a), rx1 := c.rx1.filter (fun m => m.id != a) })
        (match m.owner with
        | .task u => s1.killUid u
        | .slot k => s1.killUid (s.thAt n k).uid
        | _ => s1)
      | none => s

/-- An error that the code corrects in a granule (R368): it is counted and nothing else changes. -/
def State.countCorr (s : State) (die : Nat) : State :=
  s.modDie (die % 4) (fun d => { d with corr := Nat.min (d.corr + 1) 0xFFFFFFFF })

/-- UNCORRECTABLE_ERROR, by the kinds of R370: 0 local memory or 1 register cache of core unit at offset addr, 2 LLC or
3 HBM at device address addr, 4 the engine of job unit, 5 the packet addr, 6 a queue or table of core unit; 9 is an
error of one bit in die unit, which is corrected (R368). -/
def execUncorrectableError (kind unit addr : Nat) (s : State) : Host.Outcome State Fault Refusal :=
  .next (match kind with
    | 0 | 1 => if unit < 4096 ∧ addr < localBytes then (s.spoil 0 unit (addr / 8 * 8) (kind == 1)).countUnc (dieOf unit) else s
    | 2 => if s.llc.has (addr / 64) then (s.spoil 2 0 (addr / 8 * 8)).countUnc (addr / (3 * 2 ^ 36)) else s
    | 3 => if addr < devTop then (s.spoil 1 0 (addr / 32 * 32)).countUnc (addr / (3 * 2 ^ 36)) else s
    | 4 => (match s.jobNo unit with
      | some j => if j.live then
          ((s.postError (errRecord 4 2 0 j.ctx (unitOf j.core 0) (BitVec.ofNat 64 j.id))).putJob j.inError).countUnc (dieOf j.core) else s
      | none => s)
    | 5 => if s.net.any (fun p => p.id == addr) then
        let s1 : State := { s with net := s.net.filter (fun p => p.id != addr) }
        (s1.postError (errRecord 5 0 0 0 0 0)).countUnc 0 else s
    | 6 => if unit < 4096 then (s.queueError unit addr).countUnc (dieOf unit) else s
    | 9 => s.countCorr unit
    | _ => s)

end Sys2Proof.Machine
end

