-- ==== Sys2Proof/Machine/JobIns.lean ====
section
/-! DEFINITION. The job instructions (13 R250-R255) and qsync, qstat (11 R230-R231). -/

namespace Sys2Proof.Machine

/-- The program words from a local offset up to and including the first end word, at most n and not past the end of
local memory (R251); the flag tells whether an end word was found. -/
def State.readProg (s : State) : Nat → Nat → List EWord × Bool
  | _, 0 => ([], false)
  | a, n + 1 =>
    if localBytes < a + 2 then ([], false)
    else
      let w : EWord := BitVec.ofNat 16 (s.localNum s.core s.th a 2)
      if w = 2 then ([w], true)
      else
        let r := State.readProg s (a + 2) n
        (w :: r.1, r.2)

/-- The reading of a local range by a job group: an uncorrectable error, claims and the read set (R216, R223, R369). -/
def State.rangeRead (s : State) (a n : Nat) (fx : Fx) : Fx :=
  let ok := fx.trap.isNone && decide (a + n ≤ localBytes)
  let fx1 := s.trapFx fx (ok && s.isBad 0 s.core a n) 12 1 (BitVec.ofNat 64 a)
  { fx1 with
    stall := fx1.stall || (ok && s.claimedL s.core a n)
    claimAt := if ok && s.claimedL s.core a n then some (a, n) else fx1.claimAt
    reads := if ok then fx1.reads ++ s.localReads a n else fx1.reads }

/-- job and job.nb (R250, R251); in ordered mode both are served at commit (R227, R37). -/
def submitJob (s : State) (kind : BitVec 3) (d a b : Reg) (nb : Bool) : Host.Outcome State Fault Refusal :=
  let x := s.val a
  let y := s.val b
  let q := queueAt kind.toNat s.core
  let fx0 := s.use b (s.use a (s.illegal (decide (4 < kind.toNat)) (if nb && s.ordered then s.fx0.warnWith (warnBit 28 true) else s.fx0)))
  let fx1 := s.trapFx fx0 (bits x 0 0 != 0) 5 1 x
  let fx2 := s.trapFx fx1 (decide (131070 < x.toNat)) 4 1 x
  let fx3 := s.trapFx fx2 (y != 0 && bits y 5 0 != 0) 5 1 y
  let fx4 := (s.trapFx fx3 (y != 0 && decide (131071 < y.toNat + 127)) 4 1 y).onBaton
  if fx4.trap.isNone && nb && !s.ordered && s.queueFull q then s.finish (s.put d 0 fx4)
  else
    let fx5 := s.putLater d (.reg d.toNat 64 false) { fx4 with full := fx4.full || (!s.ordered && s.queueFull q) }
    if fx5.trap.isSome || fx5.full then s.finish fx5
    else
      let p := s.readProg x.toNat 256
      let node := if y = 0 then [] else s.localWords y.toNat 16
      let fx6 := s.rangeRead x.toNat (2 * p.1.length) fx5
      let fx7 := if y = 0 then fx6 else s.rangeRead y.toNat 128 fx6
      s.finish (s.endsQ { fx7 with acts := fx7.acts ++ [.job d.toNat kind.toNat x.toNat y.toNat nb node p.1 p.2] })

/-- job.k (R251). -/
def execJob (kind : BitVec 3) (d a b : Reg) (s : State) : Host.Outcome State Fault Refusal := submitJob s kind d a b false

/-- job.k.nb (R251). -/
def execJobNb (kind : BitVec 3) (d a b : Reg) (s : State) : Host.Outcome State Fault Refusal := submitJob s kind d a b true

/-- The status word that a jwait or jpoll writes for an identifier that names no job (R253). -/
def noJob (a : Word) : Word := fld 0 (bits a 31 0)

/-- jwait (R253). -/
def execJwait (d a : Reg) (s : State) : Host.Outcome State Fault Refusal :=
  let id := s.val a
  let fx := s.use a s.fx0
  match s.jobOf id.toNat s.th.ctx with
  | none => s.finish (s.put d (noJob id) fx)
  | some j =>
    if j.holds then s.finish { fx with wait := true }
    else if (j.st == .fault || j.st == .error) && !j.rep then
      s.finish { s.trapFx fx true 11 0 id with rep := some (id.toNat, s.th.ctx) }
    else s.finish (s.put d j.status fx)

/-- jpoll (R254). -/
def execJpoll (d a b : Reg) (s : State) : Host.Outcome State Fault Refusal :=
  let id := s.val a
  let k := (s.val b).toNat
  let v : Word := match s.jobOf id.toNat s.th.ctx with
    | none => if k = 0 then noJob id else 0
    | some j => if k = 0 then j.status else if k ≤ 8 then j.params.get 0 (k - 1) else 0
  s.finish (s.put d v (s.use b (s.use a s.fx0)))

/-- jcancel (R255). -/
def execJcancel (d a : Reg) (s : State) : Host.Outcome State Fault Refusal :=
  let fx := (s.putLater d (.reg d.toNat 64 false) (s.use a s.fx0)).onBaton
  s.finish { fx with acts := fx.acts ++ [.jcancel d.toNat (s.val a)] }

/-- qsync (R230): ends the quantum. -/
def execQsync (s : State) : Host.Outcome State Fault Refusal :=
  s.finish { s.fx0 with endQ := s.ordered }

/-- The qstat status word (R231). -/
def State.qstatWord (s : State) : Word :=
  match s.ordOf s.th.uid with
  | none => 0
  | some (id, o) =>
    let l := s.ords.get {} id
    fld 48 (l.round % 65536) ||| fld 32 (Nat.min o.squashes 65535) ||| fld 16 (o.ordinal % 2 ^ 14) ||| fld 8 (l.lgq % 32) ||| fld 0 1

/-- qstat (R230, R231): 0 when SW.ord = 0. -/
def execQstat (d : Reg) (s : State) : Host.Outcome State Fault Refusal :=
  s.finish (s.put d (if swOrd s.th.sw then s.qstatWord else 0) s.fx0)

end Sys2Proof.Machine
end

