-- ==== Sys2Proof/Machine/Message.lean ====
section
/-! DEFINITION. Messages, tags and mailbox instructions (07 R131-R142, R158-R160). -/

namespace Sys2Proof.Machine

/-- send: the slot's composition buffer for the port, after the group's appends (R138). -/
def execSend (p : BitVec 1) (s : State) : Host.Outcome State Fault Refusal :=
  let fx := s.fx0.onBaton
  s.finish { fx with acts := fx.acts ++ [.send p.toNat [] true] }

/-- sendv: A followed by the 8 doublewords of vB; the composition buffer is untouched (R138). -/
def execSendv (p : BitVec 1) (a b : Reg) (s : State) : Host.Outcome State Fault Refusal :=
  let fx := (s.useV b (s.use a s.fx0)).onBaton
  let v := s.vval b
  s.finish { fx with acts := fx.acts ++ [.send p.toNat (s.val a :: (List.range 8).map (fun i => v.extractLsb' (64 * i) 64)) false] }

/-- tset: d := TAGEN, then TAGEN or (A and not 1), in the write phase (R142). -/
def execTset (d a : Reg) (s : State) : Host.Outcome State Fault Refusal :=
  let fx := (s.putLater d (.reg d.toNat 64 false) (s.use a s.fx0)).onBaton
  s.finish { fx with acts := fx.acts ++ [.tset d.toNat (s.val a)] }

/-- tclr: d := TAGEN, then TAGEN and not (A and not 1) (R142). -/
def execTclr (d a : Reg) (s : State) : Host.Outcome State Fault Refusal :=
  let fx := (s.putLater d (.reg d.toNat 64 false) (s.use a s.fx0)).onBaton
  s.finish { fx with acts := fx.acts ++ [.tclr d.toNat (s.val a)] }

/-- tpend: d := TAGPND and A (R142). -/
def execTpend (d a : Reg) (s : State) : Host.Outcome State Fault Refusal :=
  s.finish (s.put d (s.cor.tagpnd &&& s.val a) (s.use a s.fx0)).onBaton

/-- With no mailbox region configured, a mailbox instruction takes the address trap with TADDR 0 (R159). -/
def State.needMbx (s : State) (fx : Fx) : Fx := s.trapFx fx.onBaton (!s.cor.mben) 4 0 0

/-- mbx.ins (R159): flag bits [15:10] are written zero. -/
def execMbxIns (a b : Reg) (s : State) : Host.Outcome State Fault Refusal :=
  let x := s.val a
  let y := s.val b
  let fx := s.needMbx (s.use b (s.use a s.fx0))
  s.finish { fx with acts := fx.acts ++ [.mbxIns (bits x 5 0) (mkEntry (bits x 63 32) (bits x 31 16) (bits y 41 32) (bits y 31 0) 0)] }

/-- mbx.rd: d := the status word of row A[5:0] (R159). -/
def execMbxRd (d a : Reg) (s : State) : Host.Outcome State Fault Refusal :=
  s.finish (s.put d (s.cor.rows.get 0 (bits (s.val a) 5 0)) (s.needMbx (s.use a s.fx0)))

/-- mbx.clr: one row or every row (R159). -/
def execMbxClr (a b : Reg) (s : State) : Host.Outcome State Fault Refusal :=
  let fx := s.needMbx (s.use b (s.use a s.fx0))
  s.finish { fx with acts := fx.acts ++ [.mbxClr (s.val a) (s.val b)] }

end Sys2Proof.Machine
end

