-- ==== Sys2Proof/Machine/Scalar.lean ====
section
/-! DEFINITION. The scalar instructions (04 R62-R71): register-register, select, immediate, bit and address operations,
counters. One meaning for each instruction over the shared forms below. -/

namespace Sys2Proof.Machine

/-- d := f(A, B) (R59). -/
def alu2 (s : State) (d a b : Reg) (f : Word → Word → Word) : Host.Outcome State Fault Refusal :=
  s.finish (s.put d (f (s.val a) (s.val b)) (s.use b (s.use a s.fx0)))

/-- d := f(A, B), with a result that completes later (R61). -/
def alu2Long (s : State) (d a b : Reg) (f : Word → Word → Word) : Host.Outcome State Fault Refusal :=
  s.finish ((s.put d (f (s.val a) (s.val b)) (s.use b (s.use a s.fx0))).later d)

/-- d := f(A) (R59). -/
def alu1 (s : State) (d a : Reg) (f : Word → Word) : Host.Outcome State Fault Refusal :=
  s.finish (s.put d (f (s.val a)) (s.use a s.fx0))

/-- The signed integer of a word. -/
def sint (w : Word) : Int := w.toInt

/-- The quotient and remainder of R63. -/
def divRem (signed : Bool) (a b : Word) : Word × Word :=
  let x : Int := if signed then a.toInt else a.toNat
  let y : Int := if signed then b.toInt else b.toNat
  if y = 0 then (BitVec.allOnes 64, ofInt x)
  else if signed && x == -(2 ^ 63) && y == -1 then (ofInt (-(2 ^ 63)), 0)
  else
    let q := x.tdiv y
    (ofInt q, ofInt (x - q * y))

/-- The number of zero bits above the highest one bit (R68). -/
def clzOf (w : Word) : Nat := if w = 0 then 64 else 63 - Nat.log2 w.toNat

/-- The number of one bits among the low n (R68). -/
def popOf (w : Word) : Nat → Nat
  | 0 => 0
  | n + 1 => (if w.getLsbD n then 1 else 0) + popOf w n

/-- The number of zero bits below the lowest one bit, from bit i with n bits left (R68). -/
def ctzFrom (w : Word) : Nat → Nat → Nat
  | i, 0 => i
  | i, n + 1 => if w.getLsbD i then i else ctzFrom w (i + 1) n

/-- The word with its bytes reversed (R68). -/
def bswapOf (w : Word) : Word := BitVec.ofNat 64 (ofBytes (toBytes 8 w.toNat).reverse)

/-- Rotate left by n mod 64 (R62). -/
def rotlOf (a b : Word) : Word := a.rotateLeft (b.toNat % 64)

/-- A bit field zero-extended (R71). -/
def bextOf (a : Word) (pos len : Nat) : Word := BitVec.ofNat 64 (bits a (pos + len) pos)

/-- A bit field inserted (R71). -/
def binsOf (d a : Word) (pos len : Nat) : Word := merge d (a <<< pos) (pos + len) pos

/-- Counter n of R70; in ordered mode the clocks read counter 1. -/
def State.counter (s : State) (n : Nat) : Word :=
  let t := s.th
  let c := s.cor
  if n = 2 then BitVec.ofNat 64 t.grpret
  else if n = 1 || swOrd t.sw then BitVec.ofNat 64 t.synret
  else if n = 0 then BitVec.ofNat 64 c.cycles
  else BitVec.ofNat 64 c.usec

/-- d := A + B (R62). -/
def execAdd (d a b : Reg) (s : State) : Host.Outcome State Fault Refusal := alu2 s d a b (fun x y => x + y)

/-- d := A - B (R62). -/
def execSub (d a b : Reg) (s : State) : Host.Outcome State Fault Refusal := alu2 s d a b (fun x y => x - y)

/-- d := A · B, low 64 bits (R62). -/
def execMul (d a b : Reg) (s : State) : Host.Outcome State Fault Refusal := alu2Long s d a b (fun x y => x * y)

/-- d := the high 64 bits of the signed product (R62). -/
def execMulh (d a b : Reg) (s : State) : Host.Outcome State Fault Refusal := alu2Long s d a b (fun x y => ofInt (sint x * sint y / 2 ^ 64))

/-- d := the high 64 bits of the unsigned product (R62). -/
def execMulhu (d a b : Reg) (s : State) : Host.Outcome State Fault Refusal := alu2Long s d a b (fun x y => BitVec.ofNat 64 (x.toNat * y.toNat / 2 ^ 64))

/-- Signed quotient (R63). -/
def execDiv (d a b : Reg) (s : State) : Host.Outcome State Fault Refusal := alu2Long s d a b (fun x y => (divRem true x y).1)

/-- Unsigned quotient (R63). -/
def execDivu (d a b : Reg) (s : State) : Host.Outcome State Fault Refusal := alu2Long s d a b (fun x y => (divRem false x y).1)

/-- Signed remainder (R63). -/
def execRem (d a b : Reg) (s : State) : Host.Outcome State Fault Refusal := alu2Long s d a b (fun x y => (divRem true x y).2)

/-- Unsigned remainder (R63). -/
def execRemu (d a b : Reg) (s : State) : Host.Outcome State Fault Refusal := alu2Long s d a b (fun x y => (divRem false x y).2)

/-- d := A and B (R62). -/
def execAnd (d a b : Reg) (s : State) : Host.Outcome State Fault Refusal := alu2 s d a b (fun x y => x &&& y)

/-- d := A and not B (R62). -/
def execAndn (d a b : Reg) (s : State) : Host.Outcome State Fault Refusal := alu2 s d a b (fun x y => x &&& ~~~y)

/-- d := A or B (R62). -/
def execOr (d a b : Reg) (s : State) : Host.Outcome State Fault Refusal := alu2 s d a b (fun x y => x ||| y)

/-- d := A or not B (R62). -/
def execOrn (d a b : Reg) (s : State) : Host.Outcome State Fault Refusal := alu2 s d a b (fun x y => x ||| ~~~y)

/-- d := A xor B (R62). -/
def execXor (d a b : Reg) (s : State) : Host.Outcome State Fault Refusal := alu2 s d a b (fun x y => x ^^^ y)

/-- d := A << B[5:0] (R62). -/
def execShl (d a b : Reg) (s : State) : Host.Outcome State Fault Refusal := alu2 s d a b (fun x y => x <<< (y.toNat % 64))

/-- d := A >> B[5:0], zeros shifted in (R62). -/
def execShr (d a b : Reg) (s : State) : Host.Outcome State Fault Refusal := alu2 s d a b (fun x y => x >>> (y.toNat % 64))

/-- d := A >> B[5:0], the sign shifted in (R62). -/
def execSar (d a b : Reg) (s : State) : Host.Outcome State Fault Refusal := alu2 s d a b (fun x y => x.sshiftRight (y.toNat % 64))

/-- Rotate left by B[5:0] (R62). -/
def execRotl (d a b : Reg) (s : State) : Host.Outcome State Fault Refusal := alu2 s d a b (fun x y => rotlOf x y)

/-- The lesser, read signed (R62). -/
def execMin (d a b : Reg) (s : State) : Host.Outcome State Fault Refusal := alu2 s d a b (fun x y => if sint y < sint x then y else x)

/-- The greater, read signed (R62). -/
def execMax (d a b : Reg) (s : State) : Host.Outcome State Fault Refusal := alu2 s d a b (fun x y => if sint x < sint y then y else x)

/-- The lesser, read unsigned (R62). -/
def execMinu (d a b : Reg) (s : State) : Host.Outcome State Fault Refusal := alu2 s d a b (fun x y => if y.toNat < x.toNat then y else x)

/-- The greater, read unsigned (R62). -/
def execMaxu (d a b : Reg) (s : State) : Host.Outcome State Fault Refusal := alu2 s d a b (fun x y => if x.toNat < y.toNat then y else x)

/-- 1 if A = B, else 0 (R62). -/
def execSeq (d a b : Reg) (s : State) : Host.Outcome State Fault Refusal := alu2 s d a b (fun x y => boolWord (x == y))

/-- 1 if A ≠ B, else 0 (R62). -/
def execSne (d a b : Reg) (s : State) : Host.Outcome State Fault Refusal := alu2 s d a b (fun x y => boolWord (x != y))

/-- 1 if A < B signed, else 0 (R62). -/
def execSlt (d a b : Reg) (s : State) : Host.Outcome State Fault Refusal := alu2 s d a b (fun x y => boolWord (decide (sint x < sint y)))

/-- 1 if A < B unsigned, else 0 (R62). -/
def execSltu (d a b : Reg) (s : State) : Host.Outcome State Fault Refusal := alu2 s d a b (fun x y => boolWord (decide (x.toNat < y.toNat)))

/-- d := A if C ≠ 0, else B (R64). -/
def execSel (d a b c : Reg) (s : State) : Host.Outcome State Fault Refusal :=
  s.finish (s.put d (if s.val c = 0 then s.val b else s.val a) (s.use c (s.use b (s.use a s.fx0))))

/-- d := A + sign_extend(imm) (R65). -/
def execAddi (d a : Reg) (imm : BitVec 15) (s : State) : Host.Outcome State Fault Refusal :=
  alu1 s d a (fun x => x + imm.signExtend 64)

/-- d := A and sign_extend(imm) (R65). -/
def execAndi (d a : Reg) (imm : BitVec 15) (s : State) : Host.Outcome State Fault Refusal :=
  alu1 s d a (fun x => x &&& imm.signExtend 64)

/-- d := A or zero_extend(imm) (R65). -/
def execOri (d a : Reg) (imm : BitVec 15) (s : State) : Host.Outcome State Fault Refusal :=
  alu1 s d a (fun x => x ||| imm.zeroExtend 64)

/-- d := A xor sign_extend(imm) (R65). -/
def execXori (d a : Reg) (imm : BitVec 15) (s : State) : Host.Outcome State Fault Refusal :=
  alu1 s d a (fun x => x ^^^ imm.signExtend 64)

/-- d := A · sign_extend(imm), low 64 bits (R65). -/
def execMuli (d a : Reg) (imm : BitVec 15) (s : State) : Host.Outcome State Fault Refusal :=
  s.finish ((s.put d (s.val a * imm.signExtend 64) (s.use a s.fx0)).later d)

/-- d := A << sh (R66). -/
def execShli (d a : Reg) (sh : BitVec 6) (s : State) : Host.Outcome State Fault Refusal :=
  alu1 s d a (fun x => x <<< sh.toNat)

/-- d := A >> sh, zeros shifted in (R66). -/
def execShri (d a : Reg) (sh : BitVec 6) (s : State) : Host.Outcome State Fault Refusal :=
  alu1 s d a (fun x => x >>> sh.toNat)

/-- d := A >> sh, the sign shifted in (R66). -/
def execSari (d a : Reg) (sh : BitVec 6) (s : State) : Host.Outcome State Fault Refusal :=
  alu1 s d a (fun x => x.sshiftRight sh.toNat)

/-- 1 if A < sign_extend(imm) signed, else 0 (R66). -/
def execSlti (d a : Reg) (imm : BitVec 12) (s : State) : Host.Outcome State Fault Refusal :=
  alu1 s d a (fun x => boolWord (decide (sint x < sint (imm.signExtend 64))))

/-- 1 if A < sign_extend(imm) unsigned, else 0 (R66). -/
def execSltiu (d a : Reg) (imm : BitVec 12) (s : State) : Host.Outcome State Fault Refusal :=
  alu1 s d a (fun x => boolWord (decide (x.toNat < (imm.signExtend 64 : Word).toNat)))

/-- d := sign_extend(imm) (R67). -/
def execLi (d : Reg) (imm : BitVec 20) (s : State) : Host.Outcome State Fault Refusal :=
  s.finish (s.put d (imm.signExtend 64) s.fx0)

/-- d := (D << 20) or imm; reads d (R67). A port as d is read and appended (R15). -/
def execLsi (d : Reg) (imm : BitVec 20) (s : State) : Host.Outcome State Fault Refusal :=
  s.finish (s.put d (s.val d <<< 20 ||| imm.zeroExtend 64) (s.use d s.fx0))

/-- The number of zero bits above the highest one bit (R68). -/
def execClz (d a : Reg) (s : State) : Host.Outcome State Fault Refusal := alu1 s d a (fun x => BitVec.ofNat 64 (clzOf x))

/-- The number of zero bits below the lowest one bit (R68). -/
def execCtz (d a : Reg) (s : State) : Host.Outcome State Fault Refusal := alu1 s d a (fun x => BitVec.ofNat 64 (ctzFrom x 0 64))

/-- The number of one bits (R68). -/
def execPopc (d a : Reg) (s : State) : Host.Outcome State Fault Refusal := alu1 s d a (fun x => BitVec.ofNat 64 (popOf x 64))

/-- The bytes reversed (R68). -/
def execBswap (d a : Reg) (s : State) : Host.Outcome State Fault Refusal := alu1 s d a bswapOf

/-- d := A + (B << s) (R69). -/
def execLea (d a b : Reg) (sh : BitVec 2) (s : State) : Host.Outcome State Fault Refusal :=
  alu2 s d a b (fun x y => x + y <<< sh.toNat)

/-- d := counter n (R70). -/
def execCrd (d : Reg) (n : BitVec 5) (s : State) : Host.Outcome State Fault Refusal :=
  s.finish (s.put d (s.counter n.toNat) (s.illegal (decide (3 < n.toNat)) s.fx0))

/-- d := the field of A at pos, zero-extended (R71). -/
def execBext (d a : Reg) (pos len : BitVec 6) (s : State) : Host.Outcome State Fault Refusal :=
  s.finish (s.put d (bextOf (s.val a) pos.toNat len.toNat)
    (s.use a (s.illegal (decide (64 < pos.toNat + len.toNat + 1)) s.fx0)))

/-- d := D with the field at pos replaced by the low bits of A; reads d (R71). -/
def execBins (d a : Reg) (pos len : BitVec 6) (s : State) : Host.Outcome State Fault Refusal :=
  s.finish (s.put d (binsOf (s.val d) (s.val a) pos.toNat len.toNat)
    (s.use d (s.use a (s.illegal (decide (64 < pos.toNat + len.toNat + 1)) s.fx0))))

end Sys2Proof.Machine
end

