-- ==== Sys2Proof/Machine/Trap.lean ====
section
/-! DEFINITION. The system functions of major 0x3C (19 R353-R360). -/

namespace Sys2Proof.Machine

/-- swp (R356): d receives the old WP, written in the old workspace; the new pointers are in force for the next group. -/
def execSwp (d a b : Reg) (s : State) : Host.Outcome State Fault Refusal :=
  let fx := s.put d (fld 10 s.th.wp) (s.use b (s.use a (s.needSys s.fx0)))
  s.finish { fx with acts := fx.acts ++ [.swp (bits (s.val a) 16 10)
    (if (s.val b).getLsbD 0 then some (bits (s.val b) 16 10) else none)] }

/-- The parked threads of the core with a key (R360). -/
def State.parkedWith (s : State) (key : Word) : List Parked := s.cor.park.filter (fun x => x.key == key.extractLsb' 0 32)

/-- resume (R360): a parked thread enters the run queue, or its task ends as killed. -/
def execResume (d a b : Reg) (s : State) : Host.Outcome State Fault Refusal :=
  let kill := (s.val b).getLsbD 0
  let fx := s.putLater d (.reg d.toNat 64 false) (s.use b (s.use a (s.needSys s.fx0)))
  s.finish { fx with
    acts := fx.acts ++ [.resume d.toNat (s.val a) kill]
    full := fx.full || (!kill && !(s.parkedWith (s.val a)).isEmpty && (!s.cor.rqFree || !s.cor.ready.isEmpty)) }

/-- trap (R354): the group is performed, then the svc trap is taken at the following group's address; a running-ahead
iteration waits for the baton (R126, R355). -/
def execTrap (n : BitVec 10) (s : State) : Host.Outcome State Fault Refusal :=
  s.finish { s.fxC with baton := true, ctl := some (.trapSvc n.toNat s.syllAddr) }

/-- brk (R354): the breakpoint trap, the whole group unperformed. -/
def execBrk (s : State) : Host.Outcome State Fault Refusal :=
  s.finish { s.fxC with brk := some { code := 14, addr := s.syllAddr } }

/-- A word of the current workspace. -/
def State.wsWord (s : State) (off : Nat) : Word := s.cor.word (wsBase s.th.wp + off)

/-- rft (R355): PC, SW and WP come from the frame, read in the read phase. -/
def execRft (s : State) : Host.Outcome State Fault Refusal :=
  let pc := s.wsWord 784
  let fx := s.checkTarget pc.toNat (s.frameFx (s.needSys s.fxC))
  s.finish { fx with ctl := some (.rft pc (s.wsWord 792) (bits (s.wsWord 824) 16 10)) }

/-- park (R359): the thread of the frame is parked under key A[31:0]; a frame from system mode takes the address trap. -/
def execPark (a : Reg) (s : State) : Host.Outcome State Fault Refusal :=
  let fx := s.frameFx (s.use a (s.needSys s.fxC))
  let w := s.wsWord 824
  let fx1 := s.trapFx fx (swMode (s.wsWord 792)) 4 0 w
  s.finish { fx1 with ctl := some (.park (s.val a) (s.wsWord 784) (s.wsWord 792) (bits w 16 10)) }

end Sys2Proof.Machine
end

