-- ==== Sys2Proof/Machine/Window.lean ====
section
/-! DEFINITION. The long-accumulator window instructions (05 R104-R106). -/

namespace Sys2Proof.Machine

/-- The 80 bytes at a local offset as a thread reads them. -/
def State.readLa (s : State) (x : Nat) : La :=
  BitVec.ofNat 640 (((List.range 10).map (fun i => s.localNum s.core s.th (x + 8 * i) 8)).foldr (fun w acc => w + 2 ^ 64 * acc) 0)

/-- The 64-bit words of an LA that change, as stores (R105). -/
def laStores (x : Nat) (old new : La) : List LStore :=
  (List.range 10).filterMap (fun i =>
    let w := new.extractLsb' (64 * i) 64
    if w = old.extractLsb' (64 * i) 64 then none else some { addr := x + 8 * i, bytes := toBytes 8 w.toNat })

/-- The first byte of L_A at 768–863 of a bound workspace refuses a user-mode instruction that writes it (R105). -/
def State.laPriv (s : State) (x acc : Nat) (fx : Fx) : Fx :=
  s.trapFx fx (fx.trap.isNone && !s.th.sys && (firstRefused (s.bound s.core) x 80).isSome) 3 acc (BitVec.ofNat 64 x)

/-- An LA that is read: an uncorrectable error (R369), claims (R216), the read set (R106). -/
def State.laRead (s : State) (x acc : Nat) (fx : Fx) : Fx :=
  let ok := fx.trap.isNone
  let fx1 := s.trapFx fx (ok && s.isBad 0 s.core x 80) 12 acc (BitVec.ofNat 64 x)
  { fx1 with stall := fx1.stall || (ok && s.claimedL s.core x 80), claimAt := if ok && s.claimedL s.core x 80 then some (x, 80) else fx1.claimAt
             reads := if ok then fx1.reads ++ s.localReads x 80 else fx1.reads }

/-- An instruction that replaces L_A by f(L_A), as an access of kind acc (R105, R106, R349): b is the offset of a second
LA that is read. -/
def laUpdate (s : State) (a : Reg) (acc : Nat) (b : Option Nat) (fx0 : Fx) (f : LaVal → LaVal × Flags) : Host.Outcome State Fault Refusal :=
  let x := (s.val a).toNat
  let fx1 := s.localCheck x 80 16 acc fx0
  let fx2 := match b with
    | none => fx1
    | some y => if fx1.trap.isNone then s.localCheck y 80 16 1 fx1 else fx1
  let fx3 := s.laRead x acc (s.laPriv x acc fx2)
  let fx4 := match b with
    | none => fx3
    | some y => s.laRead y 1 fx3
  let old := s.readLa x
  let r := f (laDecode old)
  s.finish (Fx.flagged { fx4 with
    stall := fx4.stall || (fx4.trap.isNone && s.lockedL s.core x 80)
    st := fx4.st ++ laStores x old (laEncode r.1) } r.2)

/-- awclr: L_A := 0 (R105). -/
def execAwclr (a : Reg) (s : State) : Host.Outcome State Fault Refusal :=
  laUpdate s a 2 none (s.use a (s.fxV (s.lanes specNone))) (fun _ => (.fin 0, {}))

/-- awin: adds B read in fa (R105). -/
def execAwin (a b : Reg) (s : State) : Host.Outcome State Fault Refusal :=
  let l := s.lanes specFcmp
  laUpdate s a 3 none (s.use b (s.use a (s.fxV l)))
    (fun v => laAddVal v ((fmtOf l.fa).decode ((s.val b).toNat % 2 ^ l.w)))

/-- awinm: adds the exact product of B and D as FP32 (R50, R105). -/
def execAwinm (a b d : Reg) (s : State) : Host.Outcome State Fault Refusal :=
  let dec (r : Reg) : Val := Fmt.decode .fp32 ((s.val r).toNat % 2 ^ 32)
  laUpdate s a 3 none (s.use d (s.use b (s.use a (s.fxV (s.lanes specNone)))))
    (fun v =>
      let p := (dec b).mul (dec d)
      let r := laAddVal v p.1
      (r.1, { r.2 with nv := r.2.nv || p.2 }))

/-- vawin: adds every lane of vB in turn (R105). -/
def execVawin (a b : Reg) (s : State) : Host.Outcome State Fault Refusal :=
  let l := s.lanes specFcmp
  laUpdate s a 3 none (s.useV b (s.use a (s.fxV l)))
    (fun v => (lanes (s.vval b) l.w).foldl (fun acc x =>
      let r := laAddVal acc.1 ((fmtOf l.fa).decode x)
      (r.1, acc.2.or r.2)) (v, {}))

/-- awadd: adds a second LA, read whole first (R105). -/
def execAwadd (a b : Reg) (s : State) : Host.Outcome State Fault Refusal :=
  let y := (s.val b).toNat
  laUpdate s a 3 (some y) (s.use b (s.use a (s.fxV (s.lanes specNone)))) (fun v => laAdd v (laDecode (s.readLa y)))

/-- awrd: wD := L_A rounded once (R56, R105). -/
def execAwrd (d a : Reg) (s : State) : Host.Outcome State Fault Refusal :=
  let l := s.lanes specAwrd
  let x := (s.val a).toNat
  let t := eltOf l.fd l.uns
  let fx := s.laRead x 1 (s.localCheck x 80 16 1 (s.use a (s.fxV l)))
  let r := laRound (laDecode (s.readLa x)) t (s.rnd l (cvtSat l) 0)
  let fx1 := { fx with stall := fx.stall || (fx.trap.isNone && s.lockedL s.core x 80) }
  s.finish (((s.put d (scalarOf t r.1) fx1).later d).flagged r.2)

end Sys2Proof.Machine
end

