-- ==== Sys2Proof/Machine/Dispatch.lean ====
section
/-! DEFINITION. Dispatch: one arm for each constructor of Instr. -/

namespace Sys2Proof.Machine

/-- The meaning of an instruction at a state. -/
def exec (i : Instr) (s : State) : Host.Outcome State Fault Refusal :=
  match i with
  | .add d a b => Sys2Proof.Machine.execAdd d a b s
  | .sub d a b => Sys2Proof.Machine.execSub d a b s
  | .mul d a b => Sys2Proof.Machine.execMul d a b s
  | .mulh d a b => Sys2Proof.Machine.execMulh d a b s
  | .mulhu d a b => Sys2Proof.Machine.execMulhu d a b s
  | .div d a b => Sys2Proof.Machine.execDiv d a b s
  | .divu d a b => Sys2Proof.Machine.execDivu d a b s
  | .rem d a b => Sys2Proof.Machine.execRem d a b s
  | .remu d a b => Sys2Proof.Machine.execRemu d a b s
  | .and d a b => Sys2Proof.Machine.execAnd d a b s
  | .andn d a b => Sys2Proof.Machine.execAndn d a b s
  | .or d a b => Sys2Proof.Machine.execOr d a b s
  | .orn d a b => Sys2Proof.Machine.execOrn d a b s
  | .xor d a b => Sys2Proof.Machine.execXor d a b s
  | .shl d a b => Sys2Proof.Machine.execShl d a b s
  | .shr d a b => Sys2Proof.Machine.execShr d a b s
  | .sar d a b => Sys2Proof.Machine.execSar d a b s
  | .rotl d a b => Sys2Proof.Machine.execRotl d a b s
  | .min d a b => Sys2Proof.Machine.execMin d a b s
  | .max d a b => Sys2Proof.Machine.execMax d a b s
  | .minu d a b => Sys2Proof.Machine.execMinu d a b s
  | .maxu d a b => Sys2Proof.Machine.execMaxu d a b s
  | .seq d a b => Sys2Proof.Machine.execSeq d a b s
  | .sne d a b => Sys2Proof.Machine.execSne d a b s
  | .slt d a b => Sys2Proof.Machine.execSlt d a b s
  | .sltu d a b => Sys2Proof.Machine.execSltu d a b s
  | .sel d a b c => Sys2Proof.Machine.execSel d a b c s
  | .addi d a imm => Sys2Proof.Machine.execAddi d a imm s
  | .andi d a imm => Sys2Proof.Machine.execAndi d a imm s
  | .ori d a imm => Sys2Proof.Machine.execOri d a imm s
  | .xori d a imm => Sys2Proof.Machine.execXori d a imm s
  | .muli d a imm => Sys2Proof.Machine.execMuli d a imm s
  | .shli d a sh => Sys2Proof.Machine.execShli d a sh s
  | .shri d a sh => Sys2Proof.Machine.execShri d a sh s
  | .sari d a sh => Sys2Proof.Machine.execSari d a sh s
  | .slti d a imm => Sys2Proof.Machine.execSlti d a imm s
  | .sltiu d a imm => Sys2Proof.Machine.execSltiu d a imm s
  | .li d imm => Sys2Proof.Machine.execLi d imm s
  | .lsi d imm => Sys2Proof.Machine.execLsi d imm s
  | .clz d a => Sys2Proof.Machine.execClz d a s
  | .ctz d a => Sys2Proof.Machine.execCtz d a s
  | .popc d a => Sys2Proof.Machine.execPopc d a s
  | .bswap d a => Sys2Proof.Machine.execBswap d a s
  | .lea d a b sh => Sys2Proof.Machine.execLea d a b sh s
  | .crd d n => Sys2Proof.Machine.execCrd d n s
  | .bext d a pos len => Sys2Proof.Machine.execBext d a pos len s
  | .bins d a pos len => Sys2Proof.Machine.execBins d a pos len s
  | .bZ a off => Sys2Proof.Machine.execBZ a off s
  | .bNz a off => Sys2Proof.Machine.execBNz a off s
  | .bLz a off => Sys2Proof.Machine.execBLz a off s
  | .bGez a off => Sys2Proof.Machine.execBGez a off s
  | .bGz a off => Sys2Proof.Machine.execBGz a off s
  | .bLez a off => Sys2Proof.Machine.execBLez a off s
  | .j off => Sys2Proof.Machine.execJ off s
  | .jal d off => Sys2Proof.Machine.execJal d off s
  | .jalr d a imm => Sys2Proof.Machine.execJalr d a imm s
  | .btag p a => Sys2Proof.Machine.execBtag p a s
  | .ldl f d a off => Sys2Proof.Machine.execLdl f d a off s
  | .stl f d a off => Sys2Proof.Machine.execStl f d a off s
  | .pfx v => Sys2Proof.Machine.execPfx v s
  | .csrr d n => Sys2Proof.Machine.execCsrr d n s
  | .csrw d n a => Sys2Proof.Machine.execCsrw d n a s
  | .csrs d n a => Sys2Proof.Machine.execCsrs d n a s
  | .csrc d n a => Sys2Proof.Machine.execCsrc d n a s
  | .registerWrite u n v => Sys2Proof.Machine.execRegisterWrite u n v s
  | .vldl d a k => Sys2Proof.Machine.execVldl d a k s
  | .vstl d a k => Sys2Proof.Machine.execVstl d a k s
  | .vbcast d a => Sys2Proof.Machine.execVbcast d a s
  | .vext d a b => Sys2Proof.Machine.execVext d a b s
  | .vins d a b => Sys2Proof.Machine.execVins d a b s
  | .vmov d a => Sys2Proof.Machine.execVmov d a s
  | .vaddF d a b => Sys2Proof.Machine.execVaddF d a b s
  | .vsubF d a b => Sys2Proof.Machine.execVsubF d a b s
  | .vmulF d a b => Sys2Proof.Machine.execVmulF d a b s
  | .vfmaF d a b => Sys2Proof.Machine.execVfmaF d a b s
  | .vminF d a b => Sys2Proof.Machine.execVminF d a b s
  | .vmaxF d a b => Sys2Proof.Machine.execVmaxF d a b s
  | .vabsF d a => Sys2Proof.Machine.execVabsF d a s
  | .vnegF d a => Sys2Proof.Machine.execVnegF d a s
  | .vaddI d a b => Sys2Proof.Machine.execVaddI d a b s
  | .vsubI d a b => Sys2Proof.Machine.execVsubI d a b s
  | .vmulI d a b => Sys2Proof.Machine.execVmulI d a b s
  | .vminI d a b => Sys2Proof.Machine.execVminI d a b s
  | .vmaxI d a b => Sys2Proof.Machine.execVmaxI d a b s
  | .vand d a b => Sys2Proof.Machine.execVand d a b s
  | .vor d a b => Sys2Proof.Machine.execVor d a b s
  | .vxor d a b => Sys2Proof.Machine.execVxor d a b s
  | .vshl d a b => Sys2Proof.Machine.execVshl d a b s
  | .vshr d a b => Sys2Proof.Machine.execVshr d a b s
  | .vsar d a b => Sys2Proof.Machine.execVsar d a b s
  | .vcmpF cond d a b => Sys2Proof.Machine.execVcmpF cond d a b s
  | .vsel d a b => Sys2Proof.Machine.execVsel d a b s
  | .vcvt d a part => Sys2Proof.Machine.execVcvt d a part s
  | .vrcp d a => Sys2Proof.Machine.execVrcp d a s
  | .vrsqrt d a => Sys2Proof.Machine.execVrsqrt d a s
  | .vexp2 d a => Sys2Proof.Machine.execVexp2 d a s
  | .vlog2 d a => Sys2Proof.Machine.execVlog2 d a s
  | .vredAdd d a => Sys2Proof.Machine.execVredAdd d a s
  | .vscanAdd d a => Sys2Proof.Machine.execVscanAdd d a s
  | .vredMax d a => Sys2Proof.Machine.execVredMax d a s
  | .vredMin d a => Sys2Proof.Machine.execVredMin d a s
  | .vargmax d a => Sys2Proof.Machine.execVargmax d a s
  | .vargmin d a => Sys2Proof.Machine.execVargmin d a s
  | .vsort d a => Sys2Proof.Machine.execVsort d a s
  | .vcompact d a b => Sys2Proof.Machine.execVcompact d a b s
  | .vtopk d a b => Sys2Proof.Machine.execVtopk d a b s
  | .vperm d a b => Sys2Proof.Machine.execVperm d a b s
  | .vrevd d a b => Sys2Proof.Machine.execVrevd d a b s
  | .awclr a => Sys2Proof.Machine.execAwclr a s
  | .awin a b => Sys2Proof.Machine.execAwin a b s
  | .awinm a b d => Sys2Proof.Machine.execAwinm a b d s
  | .vawin a b => Sys2Proof.Machine.execVawin a b s
  | .awadd a b => Sys2Proof.Machine.execAwadd a b s
  | .awrd d a => Sys2Proof.Machine.execAwrd d a s
  | .send p => Sys2Proof.Machine.execSend p s
  | .sendv p a b => Sys2Proof.Machine.execSendv p a b s
  | .tset d a => Sys2Proof.Machine.execTset d a s
  | .tclr d a => Sys2Proof.Machine.execTclr d a s
  | .tpend d a => Sys2Proof.Machine.execTpend d a s
  | .tcreate d a => Sys2Proof.Machine.execTcreate d a s
  | .tdec sc a b => Sys2Proof.Machine.execTdec sc a b s
  | .texit => Sys2Proof.Machine.execTexit s
  | .yield => Sys2Proof.Machine.execYield s
  | .launch d a => Sys2Proof.Machine.execLaunch d a s
  | .join d a => Sys2Proof.Machine.execJoin d a s
  | .bar d a => Sys2Proof.Machine.execBar d a s
  | .waitw d a b => Sys2Proof.Machine.execWaitw d a b s
  | .enq d a b => Sys2Proof.Machine.execEnq d a b s
  | .deq d a b => Sys2Proof.Machine.execDeq d a b s
  | .spawna d a => Sys2Proof.Machine.execSpawna d a s
  | .baton => Sys2Proof.Machine.execBaton s
  | .scwait sc a => Sys2Proof.Machine.execScwait sc a s
  | .mbxIns a b => Sys2Proof.Machine.execMbxIns a b s
  | .mbxRd d a => Sys2Proof.Machine.execMbxRd d a s
  | .mbxClr a b => Sys2Proof.Machine.execMbxClr a b s
  | .ldg f o d a off => Sys2Proof.Machine.execLdg f o d a off s
  | .vldg o d a off => Sys2Proof.Machine.execVldg o d a off s
  | .stg f o d a off => Sys2Proof.Machine.execStg f o d a off s
  | .vstg o d a off => Sys2Proof.Machine.execVstg o d a off s
  | .ldr f d a off => Sys2Proof.Machine.execLdr f d a off s
  | .ldrMig f d a off => Sys2Proof.Machine.execLdrMig f d a off s
  | .str f d a off => Sys2Proof.Machine.execStr f d a off s
  | .amoAdd size ord nr d a b => Sys2Proof.Machine.execAmoAdd size ord nr d a b s
  | .amoAnd size ord nr d a b => Sys2Proof.Machine.execAmoAnd size ord nr d a b s
  | .amoOr size ord nr d a b => Sys2Proof.Machine.execAmoOr size ord nr d a b s
  | .amoXor size ord nr d a b => Sys2Proof.Machine.execAmoXor size ord nr d a b s
  | .amoMin size ord nr d a b => Sys2Proof.Machine.execAmoMin size ord nr d a b s
  | .amoMax size ord nr d a b => Sys2Proof.Machine.execAmoMax size ord nr d a b s
  | .amoMinu size ord nr d a b => Sys2Proof.Machine.execAmoMinu size ord nr d a b s
  | .amoMaxu size ord nr d a b => Sys2Proof.Machine.execAmoMaxu size ord nr d a b s
  | .amoSwap size ord nr d a b => Sys2Proof.Machine.execAmoSwap size ord nr d a b s
  | .amoCas size ord nr d a b => Sys2Proof.Machine.execAmoCas size ord nr d a b s
  | .amoIncb size ord nr d a b => Sys2Proof.Machine.execAmoIncb size ord nr d a b s
  | .amoFadd size ord nr d a b => Sys2Proof.Machine.execAmoFadd size ord nr d a b s
  | .fence scope => Sys2Proof.Machine.execFence scope s
  | .fenceI => Sys2Proof.Machine.execFenceI s
  | .pf sc a => Sys2Proof.Machine.execPf sc a s
  | .tlook d a => Sys2Proof.Machine.execTlook d a s
  | .tfill d a b => Sys2Proof.Machine.execTfill d a b s
  | .tinv d a => Sys2Proof.Machine.execTinv d a s
  | .job kind d a b => Sys2Proof.Machine.execJob kind d a b s
  | .jobNb kind d a b => Sys2Proof.Machine.execJobNb kind d a b s
  | .jwait d a => Sys2Proof.Machine.execJwait d a s
  | .jpoll d a b => Sys2Proof.Machine.execJpoll d a b s
  | .jcancel d a => Sys2Proof.Machine.execJcancel d a s
  | .qsync => Sys2Proof.Machine.execQsync s
  | .qstat d => Sys2Proof.Machine.execQstat d s
  | .swp d a b => Sys2Proof.Machine.execSwp d a b s
  | .resume d a b => Sys2Proof.Machine.execResume d a b s
  | .trap n => Sys2Proof.Machine.execTrap n s
  | .brk => Sys2Proof.Machine.execBrk s
  | .rft => Sys2Proof.Machine.execRft s
  | .park a => Sys2Proof.Machine.execPark a s
  | .taskStart core slot => Sys2Proof.Machine.execTaskStart core slot s
  | .taskAging core uid => Sys2Proof.Machine.execTaskAging core uid s
  | .budgetExpiry core slot => Sys2Proof.Machine.execBudgetExpiry core slot s
  | .messageDelivery pkt => Sys2Proof.Machine.execMessageDelivery pkt s
  | .heldMessageDispatch core => Sys2Proof.Machine.execHeldMessageDispatch core s
  | .noticeDelivery k => Sys2Proof.Machine.execNoticeDelivery k s
  | .homeAccess pkt => Sys2Proof.Machine.execHomeAccess pkt s
  | .loadReply rid => Sys2Proof.Machine.execLoadReply rid s
  | .storeAck rid => Sys2Proof.Machine.execStoreAck rid s
  | .remoteFaultReply rid => Sys2Proof.Machine.execRemoteFaultReply rid s
  | .migrationArrival pkt => Sys2Proof.Machine.execMigrationArrival pkt s
  | .migrationTimeout pkt => Sys2Proof.Machine.execMigrationTimeout pkt s
  | .guestReturn core slot => Sys2Proof.Machine.execGuestReturn core slot s
  | .batonReceive chain => Sys2Proof.Machine.execBatonReceive chain s
  | .depDecrement pkt => Sys2Proof.Machine.execDepDecrement pkt s
  | .readyListInsert core => Sys2Proof.Machine.execReadyListInsert core s
  | .launchPlacement die => Sys2Proof.Machine.execLaunchPlacement die s
  | .barrierComplete k => Sys2Proof.Machine.execBarrierComplete k s
  | .joinComplete id => Sys2Proof.Machine.execJoinComplete id s
  | .waitwWake pkt => Sys2Proof.Machine.execWaitwWake pkt s
  | .deqServe pkt => Sys2Proof.Machine.execDeqServe pkt s
  | .roundStart id => Sys2Proof.Machine.execRoundStart id s
  | .roundCommit id => Sys2Proof.Machine.execRoundCommit id s
  | .jobStart queue kind => Sys2Proof.Machine.execJobStart queue kind s
  | .jobComplete id => Sys2Proof.Machine.execJobComplete id s
  | .jobSuccessorDecrement k => Sys2Proof.Machine.execJobSuccessorDecrement k s
  | .claimGrant id => Sys2Proof.Machine.execClaimGrant id s
  | .recallClaim id pkt => Sys2Proof.Machine.execRecallClaim id pkt s
  | .rangeLockRelease id => Sys2Proof.Machine.execRangeLockRelease id s
  | .drainWakeup id => Sys2Proof.Machine.execDrainWakeup id s
  | .scoreMessageInsert pkt => Sys2Proof.Machine.execScoreMessageInsert pkt s
  | .evictPhaseTwo id => Sys2Proof.Machine.execEvictPhaseTwo id s
  | .clReadySignal id => Sys2Proof.Machine.execClReadySignal id s
  | .clStepData id => Sys2Proof.Machine.execClStepData id s
  | .clPartnerTimeout id => Sys2Proof.Machine.execClPartnerTimeout id s
  | .translationWalk hedge ctx va => Sys2Proof.Machine.execTranslationWalk hedge ctx va s
  | .sectorFill sector => Sys2Proof.Machine.execSectorFill sector s
  | .lineEviction line => Sys2Proof.Machine.execLineEviction line s
  | .shootdownPage => Sys2Proof.Machine.execShootdownPage s
  | .shootdownContext => Sys2Proof.Machine.execShootdownContext s
  | .shootdownAll => Sys2Proof.Machine.execShootdownAll s
  | .shootdownPlacementMap => Sys2Proof.Machine.execShootdownPlacementMap s
  | .shootdownInvalidation hedge => Sys2Proof.Machine.execShootdownInvalidation hedge s
  | .shootdownAck => Sys2Proof.Machine.execShootdownAck s
  | .remoteTranslationRequest pkg inc ctx va => Sys2Proof.Machine.execRemoteTranslationRequest pkg inc ctx va s
  | .sccfgWrite core v => Sys2Proof.Machine.execSccfgWrite core v s
  | .mbcfgWrite core v => Sys2Proof.Machine.execMbcfgWrite core v s
  | .llcpartWrite v => Sys2Proof.Machine.execLlcpartWrite v s
  | .calcfgWrite v => Sys2Proof.Machine.execCalcfgWrite v s
  | .optportWrite p v => Sys2Proof.Machine.execOptportWrite p v s
  | .peerClear j => Sys2Proof.Machine.execPeerClear j s
  | .preemptSave => Sys2Proof.Machine.execPreemptSave s
  | .preemptRestore => Sys2Proof.Machine.execPreemptRestore s
  | .preemptKill => Sys2Proof.Machine.execPreemptKill s
  | .drainHedge => Sys2Proof.Machine.execDrainHedge s
  | .reloadHedge => Sys2Proof.Machine.execReloadHedge s
  | .retireStack => Sys2Proof.Machine.execRetireStack s
  | .returnStack => Sys2Proof.Machine.execReturnStack s
  | .recalibratePort => Sys2Proof.Machine.execRecalibratePort s
  | .replaceFirmware => Sys2Proof.Machine.execReplaceFirmware s
  | .powerOn => Sys2Proof.Machine.execPowerOn s
  | .coldStart => Sys2Proof.Machine.execColdStart s
  | .warmStart keep => Sys2Proof.Machine.execWarmStart keep s
  | .quote => Sys2Proof.Machine.execQuote s
  | .droopLoop hedge up => Sys2Proof.Machine.execDroopLoop hedge up s
  | .opticalEqualisation port => Sys2Proof.Machine.execOpticalEqualisation port s
  | .hbmRecalibration stack => Sys2Proof.Machine.execHbmRecalibration stack s
  | .lookaheadThreshold die => Sys2Proof.Machine.execLookaheadThreshold die s
  | .replicaHint expert fill => Sys2Proof.Machine.execReplicaHint expert fill s
  | .frameMark port slot => Sys2Proof.Machine.execFrameMark port slot s
  | .marksMissed port => Sys2Proof.Machine.execMarksMissed port s
  | .frameTransmit port => Sys2Proof.Machine.execFrameTransmit port s
  | .frameReceive port ok hdr pkts => Sys2Proof.Machine.execFrameReceive port ok hdr pkts s
  | .portLost port => Sys2Proof.Machine.execPortLost port s
  | .sequenceAck pkg cls => Sys2Proof.Machine.execSequenceAck pkg cls s
  | .retransmitTimeout pkg cls seq => Sys2Proof.Machine.execRetransmitTimeout pkg cls seq s
  | .latePacketAging pkt => Sys2Proof.Machine.execLatePacketAging pkt s
  | .helloSend j => Sys2Proof.Machine.execHelloSend j s
  | .helloReceive j inc ep => Sys2Proof.Machine.execHelloReceive j inc ep s
  | .peerTimeout j => Sys2Proof.Machine.execPeerTimeout j s
  | .hostRead pa size => Sys2Proof.Machine.execHostRead pa size s
  | .hostWrite pa data mask => Sys2Proof.Machine.execHostWrite pa data mask s
  | .hostAtomic op size pa b d => Sys2Proof.Machine.execHostAtomic op size pa b d s
  | .hostEnqueue pa ctx item => Sys2Proof.Machine.execHostEnqueue pa ctx item s
  | .hostCsrrd u n => Sys2Proof.Machine.execHostCsrrd u n s
  | .hostCsrwr u n v => Sys2Proof.Machine.execHostCsrwr u n v s
  | .linkFlitFailure pkt => Sys2Proof.Machine.execLinkFlitFailure pkt s
  | .readoutRead what unit addr => Sys2Proof.Machine.execReadoutRead what unit addr s
  | .lit n => Sys2Proof.Machine.execLit n s
  | .ext n => Sys2Proof.Machine.execExt n s
  | .engNop => Sys2Proof.Machine.execEngNop s
  | .end_ => Sys2Proof.Machine.execEnd s
  | .dup => Sys2Proof.Machine.execDup s
  | .drop => Sys2Proof.Machine.execDrop s
  | .engSwap => Sys2Proof.Machine.execEngSwap s
  | .engOver => Sys2Proof.Machine.execEngOver s
  | .rot => Sys2Proof.Machine.execRot s
  | .engAdd => Sys2Proof.Machine.execEngAdd s
  | .engSub => Sys2Proof.Machine.execEngSub s
  | .engMul => Sys2Proof.Machine.execEngMul s
  | .engShl => Sys2Proof.Machine.execEngShl s
  | .engShr => Sys2Proof.Machine.execEngShr s
  | .engAnd => Sys2Proof.Machine.execEngAnd s
  | .engOr => Sys2Proof.Machine.execEngOr s
  | .ldp => Sys2Proof.Machine.execLdp s
  | .stp => Sys2Proof.Machine.execStp s
  | .sig => Sys2Proof.Machine.execSig s
  | .skz => Sys2Proof.Machine.execSkz s
  | .mmFmt => Sys2Proof.Machine.execMmFmt s
  | .mmScale => Sys2Proof.Machine.execMmScale s
  | .mmGeo => Sys2Proof.Machine.execMmGeo s
  | .mmA => Sys2Proof.Machine.execMmA s
  | .mmB => Sys2Proof.Machine.execMmB s
  | .mmAcc => Sys2Proof.Machine.execMmAcc s
  | .mmRound => Sys2Proof.Machine.execMmRound s
  | .mmDrain => Sys2Proof.Machine.execMmDrain s
  | .mmDrainla => Sys2Proof.Machine.execMmDrainla s
  | .mmDrainmb => Sys2Proof.Machine.execMmDrainmb s
  | .mmRun => Sys2Proof.Machine.execMmRun s
  | .mmRing => Sys2Proof.Machine.execMmRing s
  | .mmGmm => Sys2Proof.Machine.execMmGmm s
  | .bfLen => Sys2Proof.Machine.execBfLen s
  | .bfSched => Sys2Proof.Machine.execBfSched s
  | .bfLoad => Sys2Proof.Machine.execBfLoad s
  | .bfStage => Sys2Proof.Machine.execBfStage s
  | .bfPass => Sys2Proof.Machine.execBfPass s
  | .bfTwid => Sys2Proof.Machine.execBfTwid s
  | .bfCmul => Sys2Proof.Machine.execBfCmul s
  | .bfStore => Sys2Proof.Machine.execBfStore s
  | .cpDim => Sys2Proof.Machine.execCpDim s
  | .cpGo => Sys2Proof.Machine.execCpGo s
  | .cpFill => Sys2Proof.Machine.execCpFill s
  | .cpGath => Sys2Proof.Machine.execCpGath s
  | .cpScat => Sys2Proof.Machine.execCpScat s
  | .cpCvt => Sys2Proof.Machine.execCpCvt s
  | .cpClr => Sys2Proof.Machine.execCpClr s
  | .rtCfg => Sys2Proof.Machine.execRtCfg s
  | .rtBind => Sys2Proof.Machine.execRtBind s
  | .rtCap => Sys2Proof.Machine.execRtCap s
  | .rtRun => Sys2Proof.Machine.execRtRun s
  | .rtEmit => Sys2Proof.Machine.execRtEmit s
  | .rtStat => Sys2Proof.Machine.execRtStat s
  | .clGrp => Sys2Proof.Machine.execClGrp s
  | .clRs => Sys2Proof.Machine.execClRs s
  | .clAg => Sys2Proof.Machine.execClAg s
  | .clChain => Sys2Proof.Machine.execClChain s
  | .clGo => Sys2Proof.Machine.execClGo s
  | .lgGate => Sys2Proof.Machine.execLgGate s
  | .lgRun => Sys2Proof.Machine.execLgRun s
  | .lgPf => Sys2Proof.Machine.execLgPf s
  | .exSet => Sys2Proof.Machine.execExSet s
  | .exPin => Sys2Proof.Machine.execExPin s
  | .exEvict => Sys2Proof.Machine.execExEvict s
  | .exRep => Sys2Proof.Machine.execExRep s
  | .referenceCounterTick block idx => Sys2Proof.Machine.execReferenceCounterTick block idx s
  | .resultCompletion core slot => Sys2Proof.Machine.execResultCompletion core slot s
  | .uncorrectableError kind unit addr => Sys2Proof.Machine.execUncorrectableError kind unit addr s
  | .powerLoss copies => Sys2Proof.Machine.execPowerLoss copies s

end Sys2Proof.Machine
end

