-- ==== Sys2Proof/Machine/Engine.lean ====
section
/-! DEFINITION. How an engine performs the next word of a running job (13 R256-R259). -/

namespace Sys2Proof.Machine

/-- The fault code of a word that stands for no engine instruction (R259). -/
def engineCode (e : DecodeError) : Nat :=
  match e with
  | .engineZero => 1
  | .engineReservedClass => 2
  | _ => 4

/-- The engine of a running job performs its next word, or a part of a launch word (R257); past the copied program the
job faults with code 7 at its last word. A stopped job at its resume point does nothing (R373). -/
def State.engineStep (s : State) (order : Nat) : Host.Outcome State Fault Refusal :=
  match s.jobNo order with
  | none => .next s
  | some j =>
    if !j.live || (s.jobStopped j && j.rest.isSome) then .next s
    else if j.prog.length ≤ j.ip then .next (s.putJob { j.fail 7 with word := j.prog.length - 1 })
    else match decodeEngine (j.prog.getD j.ip 0) with
      | .error e => .next (s.putJob (j.fail (engineCode e)))
      | .ok i =>
        let s1 := if j.rests then s.putJob { j with rests := false } else s
        match exec i { s1 with job := order } with
        | .next t => .next (if t.jobs == s.jobs then t else t.leaveMiss (hedgeOf j.core) (fun w => w == 2 * order + 1))
        | o => o

end Sys2Proof.Machine
end

