-- ==== Sys2Proof/Machine/Grouping.lean ====
section
/-! DEFINITION. The limits of a group (02 R30-R33): the class of each syllable, the registers it reads and writes, and
the checks made before a group executes. -/

namespace Sys2Proof.Machine

/-- The classes of R27. -/
inductive Cls where
  | i
  | m
  | v
  | vm
  | c
  | s
  deriving DecidableEq, Repr

/-- The class of a syllable (R27). -/
def Instr.cls : Instr → Cls
  | .ldl .. | .stl .. => .m
  | .bZ .. | .bNz .. | .bLz .. | .bGez .. | .bGz .. | .bLez .. | .j .. | .jal .. | .jalr .. | .btag .. => .c
  | .ldg .. | .stg .. | .ldr .. | .ldrMig .. | .str .. => .m
  | .vldg .. | .vstg .. | .vldl .. | .vstl .. => .vm
  | .amoAdd .. | .amoAnd .. | .amoOr .. | .amoXor .. | .amoMin .. | .amoMax .. | .amoMinu .. | .amoMaxu ..
  | .amoSwap .. | .amoCas .. | .amoIncb .. | .amoFadd .. => .m
  | .fence .. | .fenceI | .pf .. | .tlook .. | .tfill .. | .tinv .. => .m
  | .send .. | .sendv .. | .tset .. | .tclr .. | .tpend .. | .tcreate .. | .tdec .. => .m
  | .texit | .yield => .c
  | .launch .. | .join .. | .bar .. | .waitw .. | .enq .. | .deq .. | .spawna .. | .baton | .scwait .. => .m
  | .mbxIns .. | .mbxRd .. | .mbxClr .. => .m
  | .job .. | .jobNb .. | .jwait .. | .jpoll .. | .jcancel .. => .m
  | .vbcast .. | .vext .. | .vins .. | .vmov .. => .v
  | .vaddF .. | .vsubF .. | .vmulF .. | .vfmaF .. | .vminF .. | .vmaxF .. | .vabsF .. | .vnegF .. => .v
  | .vaddI .. | .vsubI .. | .vmulI .. | .vminI .. | .vmaxI .. | .vand .. | .vor .. | .vxor .. | .vshl .. | .vshr ..
  | .vsar .. => .v
  | .vcmpF .. | .vsel .. | .vcvt .. | .vrcp .. | .vrsqrt .. | .vexp2 .. | .vlog2 .. => .v
  | .vredAdd .. | .vscanAdd .. | .vredMax .. | .vredMin .. | .vargmax .. | .vargmin .. | .vsort .. | .vcompact ..
  | .vtopk .. | .vperm .. | .vrevd .. => .v
  | .awclr .. | .awin .. | .awinm .. | .vawin .. | .awadd .. | .awrd .. => .vm
  | .csrr .. | .csrw .. | .csrs .. | .csrc .. | .swp .. | .resume .. | .qsync | .qstat .. => .s
  | .trap .. | .brk | .rft | .park .. => .c
  | _ => .i

/-- A scalar field as a register name, 0..31. -/
def sN (r : Reg) : Nat := r.toNat
/-- A vector field as a register name, 32 on. -/
def vN (r : Reg) : Nat := 32 + r.toNat

/-- The registers an atomic reads (R197, R198): a pair for .q, and d for cas. -/
def amoReads (size : BitVec 2) (d a b : Reg) (cas : Bool) : List Nat :=
  sN a :: (if size = 2 then [sN b, sN b + 1] else [sN b])
    ++ (if cas then (if size = 2 then [sN d, sN d + 1] else [sN d]) else [])

/-- The registers an atomic writes: none for a non-returning one, whose d is a counter (R197). -/
def amoWrites (size : BitVec 2) (nr : BitVec 1) (d : Reg) : List Nat :=
  if nr = 1 then [] else if size = 2 then [sN d, sN d + 1] else [sN d]

/-- The registers a syllable reads, one entry for each source field (R31). -/
def Instr.reads : Instr → List Nat
  | .add _ a b | .sub _ a b | .mul _ a b | .mulh _ a b | .mulhu _ a b | .div _ a b | .divu _ a b | .rem _ a b
  | .remu _ a b | .and _ a b | .andn _ a b | .or _ a b | .orn _ a b | .xor _ a b | .shl _ a b | .shr _ a b
  | .sar _ a b | .rotl _ a b | .min _ a b | .max _ a b | .minu _ a b | .maxu _ a b | .seq _ a b | .sne _ a b
  | .slt _ a b | .sltu _ a b | .lea _ a b _ => [sN a, sN b]
  | .sel _ a b c => [sN a, sN b, sN c]
  | .addi _ a _ | .andi _ a _ | .ori _ a _ | .xori _ a _ | .muli _ a _ | .shli _ a _ | .shri _ a _ | .sari _ a _
  | .slti _ a _ | .sltiu _ a _ | .clz _ a | .ctz _ a | .popc _ a | .bswap _ a | .bext _ a _ _ => [sN a]
  | .lsi d _ => [sN d]
  | .bins d a _ _ => [sN a, sN d]
  | .bZ a _ | .bNz a _ | .bLz a _ | .bGez a _ | .bGz a _ | .bLez a _ | .jalr _ a _ | .btag _ a => [sN a]
  | .ldl _ _ a _ => [sN a]
  | .stl _ d a _ => [sN a, sN d]
  | .csrw _ _ a | .csrs _ _ a | .csrc _ _ a => [sN a]
  | .vldl _ a _ => [sN a]
  | .vstl d a _ => [sN a, vN d]
  | .vbcast _ a => [sN a]
  | .vext _ a b => [vN a, sN b]
  | .vins d a b => [sN a, sN b, vN d]
  | .vmov _ a => [vN a]
  | .vaddF _ a b | .vsubF _ a b | .vmulF _ a b | .vminF _ a b | .vmaxF _ a b | .vaddI _ a b | .vsubI _ a b
  | .vmulI _ a b | .vminI _ a b | .vmaxI _ a b | .vand _ a b | .vor _ a b | .vxor _ a b | .vshl _ a b | .vshr _ a b
  | .vsar _ a b | .vcmpF _ _ a b | .vcompact _ a b | .vtopk _ a b | .vperm _ a b => [vN a, vN b]
  | .vfmaF d a b | .vsel d a b => [vN a, vN b, vN d]
  | .vabsF _ a | .vnegF _ a | .vrcp _ a | .vrsqrt _ a | .vexp2 _ a | .vlog2 _ a | .vredAdd _ a | .vscanAdd _ a
  | .vredMax _ a | .vredMin _ a | .vargmax _ a | .vargmin _ a | .vsort _ a => [vN a]
  | .vcvt d a _ => [vN a, vN d]
  | .vrevd _ a b => [vN a, sN b]
  | .awclr a | .awrd _ a => [sN a]
  | .awin a b | .awadd a b => [sN a, sN b]
  | .awinm a b d => [sN a, sN b, sN d]
  | .vawin a b => [sN a, vN b]
  | .sendv _ a b => [sN a, vN b]
  | .tset _ a | .tclr _ a | .tpend _ a | .tcreate _ a | .launch _ a | .join _ a | .bar _ a | .spawna _ a
  | .scwait _ a | .mbxRd _ a => [sN a]
  | .tdec _ a b | .waitw _ a b | .enq _ a b | .deq _ a b | .mbxIns a b | .mbxClr a b => [sN a, sN b]
  | .ldg _ _ _ a _ | .vldg _ _ a _ | .ldr _ _ a _ | .ldrMig _ _ a _ => [sN a]
  | .stg _ _ d a _ | .str _ d a _ => [sN a, sN d]
  | .vstg _ d a _ => [sN a, vN d]
  | .amoAdd z _ _ d a b | .amoAnd z _ _ d a b | .amoOr z _ _ d a b | .amoXor z _ _ d a b | .amoMin z _ _ d a b
  | .amoMax z _ _ d a b | .amoMinu z _ _ d a b | .amoMaxu z _ _ d a b | .amoSwap z _ _ d a b | .amoIncb z _ _ d a b
  | .amoFadd z _ _ d a b => amoReads z d a b false
  | .amoCas z _ _ d a b => amoReads z d a b true
  | .pf _ a | .tlook _ a | .tinv _ a => [sN a]
  | .tfill _ a b => [sN a, sN b]
  | .job _ _ a b | .jobNb _ _ a b | .jpoll _ a b => [sN a, sN b]
  | .jwait _ a | .jcancel _ a => [sN a]
  | .swp _ a b | .resume _ a b => [sN a, sN b]
  | .park a => [sN a]
  | _ => []

/-- The registers a syllable writes (R31). -/
def Instr.writes : Instr → List Nat
  | .add d _ _ | .sub d _ _ | .mul d _ _ | .mulh d _ _ | .mulhu d _ _ | .div d _ _ | .divu d _ _ | .rem d _ _
  | .remu d _ _ | .and d _ _ | .andn d _ _ | .or d _ _ | .orn d _ _ | .xor d _ _ | .shl d _ _ | .shr d _ _
  | .sar d _ _ | .rotl d _ _ | .min d _ _ | .max d _ _ | .minu d _ _ | .maxu d _ _ | .seq d _ _ | .sne d _ _
  | .slt d _ _ | .sltu d _ _ | .lea d _ _ _ | .sel d _ _ _ => [sN d]
  | .addi d _ _ | .andi d _ _ | .ori d _ _ | .xori d _ _ | .muli d _ _ | .shli d _ _ | .shri d _ _ | .sari d _ _
  | .slti d _ _ | .sltiu d _ _ | .li d _ | .lsi d _ | .clz d _ | .ctz d _ | .popc d _ | .bswap d _ | .crd d _
  | .bext d _ _ _ | .bins d _ _ _ | .jal d _ | .jalr d _ _ | .ldl _ d _ _ => [sN d]
  | .csrr d _ | .csrw d _ _ | .csrs d _ _ | .csrc d _ _ => [sN d]
  | .vldl d _ _ | .vbcast d _ | .vins d _ _ | .vmov d _ => [vN d]
  | .vext d _ _ => [sN d]
  | .vaddF d _ _ | .vsubF d _ _ | .vmulF d _ _ | .vfmaF d _ _ | .vminF d _ _ | .vmaxF d _ _ | .vabsF d _ | .vnegF d _
  | .vaddI d _ _ | .vsubI d _ _ | .vmulI d _ _ | .vminI d _ _ | .vmaxI d _ _ | .vand d _ _ | .vor d _ _ | .vxor d _ _
  | .vshl d _ _ | .vshr d _ _ | .vsar d _ _ | .vcmpF _ d _ _ | .vsel d _ _ | .vcvt d _ _ | .vrcp d _ | .vrsqrt d _
  | .vexp2 d _ | .vlog2 d _ | .vscanAdd d _ | .vsort d _ | .vcompact d _ _ | .vtopk d _ _ | .vperm d _ _
  | .vrevd d _ _ => [vN d]
  | .vredAdd d _ | .vredMax d _ | .vredMin d _ | .vargmax d _ | .vargmin d _ | .awrd d _ => [sN d]
  | .tset d _ | .tclr d _ | .tpend d _ | .tcreate d _ | .launch d _ | .join d _ | .bar d _ | .waitw d _ _
  | .enq d _ _ | .deq d _ _ | .spawna d _ | .mbxRd d _ => [sN d]
  | .ldg _ _ d _ _ | .ldr _ d _ _ | .ldrMig _ d _ _ => [sN d]
  | .vldg _ d _ _ => [vN d]
  | .amoAdd z _ nr d _ _ | .amoAnd z _ nr d _ _ | .amoOr z _ nr d _ _ | .amoXor z _ nr d _ _ | .amoMin z _ nr d _ _
  | .amoMax z _ nr d _ _ | .amoMinu z _ nr d _ _ | .amoMaxu z _ nr d _ _ | .amoSwap z _ nr d _ _
  | .amoCas z _ nr d _ _ | .amoIncb z _ nr d _ _ | .amoFadd z _ nr d _ _ => amoWrites z nr d
  | .tlook d _ | .tfill d _ _ | .tinv d _ | .job _ d _ _ | .jobNb _ d _ _ | .jwait d _ | .jpoll d _ _ | .jcancel d _
  | .qstat d | .swp d _ _ | .resume d _ _ => [sN d]
  | _ => []

/-- A port register (R15). -/
def isPort (r : Nat) : Bool := decide (28 ≤ r) && decide (r < 32)

/-- A register name that the first two rules of R31 govern. -/
def isNamed (r : Nat) : Bool := r != 0 && !isPort r

/-- Whether two syllables of a group clash (R31). -/
def clash (a b : Instr) : Bool :=
  let ra := (Instr.reads a).filter isNamed
  let rb := (Instr.reads b).filter isNamed
  let wa := (Instr.writes a).filter isNamed
  let wb := (Instr.writes b).filter isNamed
  ra.any wb.contains || wa.any rb.contains || wa.any wb.contains

/-- How often the port registers of a list repeat. -/
def portTwice (l : List Nat) : Bool := [28, 29, 30, 31].any (fun p => decide (1 < l.count p))

/-- Syllables of a class so far. -/
def countCls (g : List Instr) (p : Cls → Bool) : Nat := (g.filter (fun i => p (Instr.cls i))).length

/-- Whether the last syllable of g breaks a rule of R30 or R31, in a group of n syllables: last is whether it ends
the group. -/
def offends (g : List Instr) (i : Instr) (n : Nat) (last : Bool) : Bool :=
  let all := g ++ [i]
  let q := Instr.cls i
  (q == .s && decide (1 < n)) || (q == .c && !last)
    || (q == .i && decide (2 < countCls all (fun k => k == .i)))
    || ((q == .m || q == .vm) && decide (1 < countCls all (fun k => k == .m || k == .vm)))
    || ((q == .v || q == .vm) && decide (1 < countCls all (fun k => k == .v || k == .vm)))
    || (q == .c && decide (1 < countCls all (fun k => k == .c)))
    || g.any (fun x => clash x i)
    || portTwice (all.flatMap Instr.reads) || portTwice (all.flatMap Instr.writes)

/-- The index of the syllable at which a group is illegal (R32, R33): the first that breaks a rule; the fourth where
none of the first four ends the group. -/
def illegalAt (n : Nat) (open4 : Bool) : List Instr → List Instr → Option Nat
  | _, [] => none
  | g, i :: r =>
    let last := r.isEmpty && !open4
    if offends g i n last || (open4 && r.isEmpty) then some g.length else illegalAt n open4 (g ++ [i]) r

/-- A syllable decoded with the prefix that reaches it (R29, R95): none where it is illegal. -/
def decodeWith (p : Option (BitVec 24)) (w : Syll) : Option Instr :=
  match decodeSyllable w with
  | .ok i =>
    match i with
    | .vcvt _ _ part => if cvtIllegal p part.toNat then none else some i
    | _ => some i
  | .error _ => none

/-- The prefix that a syllable leaves to the next one (R36). -/
def prefixAfter : Instr → Option (BitVec 24)
  | .pfx v => some v
  | _ => none

/-- The syllables of a group, or the index of the first illegal one (R33 step 2). -/
def decodeAll : Option (BitVec 24) → Nat → List Syll → Except Nat (List Instr)
  | _, _, [] => .ok []
  | p, k, w :: r =>
    match decodeWith p w with
    | none => .error k
    | some i => (decodeAll (prefixAfter i) (k + 1) r).map (fun l => i :: l)

end Sys2Proof.Machine
end

