-- ==== Sys2Proof/Machine/Issue.lean ====
section
/-! DEFINITION. How a core issues a group (01 R20-R21, 02 R30-R33, 06 R120): fetch, the checks before execution, and
the group's syllables in order. -/

namespace Sys2Proof.Machine

/-- What the fetch of a group gives: its syllables with the translations and instruction-cache lines used; or its
translation is awaited (R186). -/
inductive GroupFetch where
  | ok (ws : List Syll) (tlb : List TlbEntry) (lines : List (Nat × Syll)) (ends : Bool)
  | trap (t : TrapInfo)
  | wait (page : Nat)
  | ask (pa : Nat) (pc : Word)
  deriving DecidableEq, Repr

/-- Fetch the syllables of a group: up to the first stop bit, at most four (R30, R33 step 1). -/
def State.fetchGroup (s : State) (h ctx : Nat) (sys : Bool) :
    Nat → Word → List Syll → List TlbEntry → List (Nat × Syll) → GroupFetch
  | 0, _, ws, tl, ls => .ok ws tl ls false
  | n + 1, pc, ws, tl, ls =>
    match s.fetch h ctx sys pc with
    | .wait page => .wait page
    | .ask pa => .ask pa pc
    | .trap t => .trap t
    | .ok w tlb line =>
      let ws1 := ws ++ [w]
      let tl1 := tl ++ tlb
      let ls1 := ls ++ [(line, w)]
      if w.getLsbD 31 then .ok ws1 tl1 ls1 true else State.fetchGroup s h ctx sys n (pc + 4) ws1 tl1 ls1

/-- Perform the syllables of a group in order; the last one commits it. -/
def runGroup : List Instr → State → Host.Outcome State Fault Refusal
  | [], s => .next s
  | i :: r, s =>
    match exec i s with
    | .next t => runGroup r t
    | o => o

/-- A slot of core n whose group can be tried: it runs a task or a guest that waits for nothing (R107). -/
def Slot.runnable (x : Slot) : Bool := x.st != .free && x.hold.isNone

/-- A hedge's instruction cache holds 64 KiB (R3). -/
def capCode (m : Tbl Syll) : Tbl Syll := m.drop (m.length - 16384)

/-- Keep the translations and code lines of a fetched group (R186, R204); host memory is not cached (R415). -/
def State.keepFetch (s : State) (h : Nat) (tl : List TlbEntry) (ls : List (Nat × Syll)) : State :=
  s.modHedge h (fun x => { tl.foldl Hedge.install x with
    icache := capCode ((ls.filter (fun e => decide (4 * e.1 < hostBase))).foldl (fun m e => m.set e.1 e.2) x.icache) })

/-- Take a trap before any syllable of the group executes: staged alone and committed. -/
def State.trapBefore (s : State) (t : TrapInfo) : Host.Outcome State Fault Refusal :=
  State.commit { s with grp := { fx := { pre := some t } } }

/-- A thread of an ordered launch issues in user mode only in its quantum (R222, R224). -/
def State.outOfRound (s : State) (t : Thread) : Bool :=
  swOrd t.sw && !t.sys && (match s.ordOf t.uid with
    | some (_, o) => o.st != .running && o.st != .rerun
    | none => false)

/-- A syllable in host memory is asked for, and the slot waits for it (R414); the word's address is kept in the count of the
packet, which no counter uses. -/
def State.askCode (s : State) (n k pa : Nat) (pc : Word) : State :=
  let t := s.thAt n k
  let r := s.post { src := { pkg := s.pkgNo, core := n, uid := t.uid, ctx := t.ctx, sys := t.sys, lin := s.linAt n t },
                    home := .host, space := .host, va := pc, loc := pa, kind := .load 4, cnt := pa }
  r.2.modSlot n k (fun x => { x with hold := some (.fetch r.1, {}), stalled := true })

/-- Try the next group of slot k of core n (R33): a pending deadline trap comes before step 1, then a trap that a
reply has decided, then fetch, legality and execution. A group whose access was refused is tried again after the handler
of a deadline trap; what a service of an ordered quantum met is taken then (R227, R367; DEDUCED, log 62). -/
def State.tryGroup (s0 : State) (n k : Nat) (late : Bool) : Host.Outcome State Fault Refusal :=
  let s : State := { s0.modSlot n k (fun x => { x with stalled := false, waitAt := none }) with core := n, slot := k, job := 0, late := late, grp := {} }
  let t := s.thAt n k
  let early : Option (TrapInfo × Thread) :=
    match (if t.sys then none else t.deadline), t.trapNext with
    | some info, i => some ({ code := 13, info := info },
        { t with deadline := none, trapNext := none, trapLater := if s.inOrdered t then i else none })
    | none, some i => some (i, { t with trapNext := none })
    | none, none => none
  match early with
  | some (i, th) => if swRa t.sw && !t.sys then .next (s.stallAt n k) else (s.modTh n k (fun _ => th)).trapBefore i
  | none =>
    if s.outOfRound t then .next (s.modSlot n k (fun x => { x with hold := some (.commit, {}), stalled := true })) else
    match s.fetchGroup (hedgeOf n) t.ctx t.sys 4 t.pc [] [] [] with
    | .wait page => .next ((s.joinMiss (hedgeOf n) t.ctx page).stallAt n k)
    | .trap i => s.trapBefore i
    | .ask pa pc => .next (s.askCode n k pa pc)
    | .ok ws tl ls ends =>
      let s1 := s.keepFetch (hedgeOf n) tl ls
      match decodeAll s1.curPfx 0 ws with
      | .error i => s1.trapBefore { code := 1, addr := t.pc + BitVec.ofNat 64 (4 * i) }
      | .ok is =>
        match illegalAt is.length (!ends) [] is with
        | some i => s1.trapBefore { code := 2, addr := t.pc + BitVec.ofNat 64 (4 * i) }
        | none => runGroup is { s1 with grp := { left := is.length - 1 } }

/-- A cycle of core n ends (R120): after a slot that issued, the pointer names the next one. Threads of the core that are not
stalled wait on no miss (R186) and keep no code of host memory (R415). -/
def State.cycleDone (s : State) (n ptr : Nat) : State :=
  State.leaveMiss (s.modCore n (fun c => { c with
      ptr := ptr, cycles := c.cycles + 1
      slots := mapIf (fun x => !x.2.stalled && !x.2.code.isEmpty) (fun x => (x.1, { x.2 with code := [] })) c.slots })) (hedgeOf n) (fun w =>
    (s.coreAt n).slots.any (fun x => !x.2.stalled && 2 * x.2.th.uid == w))

/-- A cycle of core n (R120): the slots are tried from the pointer on, cyclically; the first whose group can issue
issues; a cycle with no ready slot issues nothing and leaves the pointer. -/
def State.issueFrom (s : State) (n : Nat) (late : Bool) : Nat → Nat → Host.Outcome State Fault Refusal
  | 0, _ => .next (s.cycleDone n (s.coreAt n).ptr)
  | m + 1, k =>
    if (s.slotAt n (k % 4)).runnable && !s.thStopped n (s.thAt n (k % 4)) then
      match s.tryGroup n (k % 4) late with
      | .next t => if (t.slotAt n (k % 4)).stalled then State.issueFrom t n late m (k + 1)
        else .next (t.cycleDone n ((k + 1) % 4))
      | o => o
    else State.issueFrom s n late m (k + 1)

/-- A core issues (R120). -/
def State.issue (s : State) (n : Nat) (late : Bool) : Host.Outcome State Fault Refusal :=
  s.issueFrom n late 4 (s.coreAt n).ptr

end Sys2Proof.Machine
end

