-- ==== Sys2Proof/Machine/Policy.lean ====
section
/-! DEFINITION. The moves that may come next, for a device whose schedule names none (log 5): every agent that has
something to do takes its turn. What only the outside world causes (time, frames that arrive, the companion processor,
errors, measurements) is not among them. -/

namespace Sys2Proof.Machine

/-- The move that serves an answer. -/
def Reply.move (r : Reply) : List Move :=
  match r.kind with
  | .remote .. => if r.src.far then [.inject r.id] else [.event (.remoteFaultReply r.id)]
  | _ => if r.src.far then [.inject r.id] else if r.posted || r.sc.isSome then [.event (.storeAck r.id)] else [.event (.loadReply r.id)]

/-- The move that serves a packet. -/
def Packet.move (p : Packet) : List Move :=
  match p.kind, p.space with
  | .sysm _, _ => [.event (.homeAccess p.id)]
  | _, .remote _ => [.inject p.id]
  | .msg _, _ => [.event (.messageDelivery p.id)]
  | .mig _, _ => [.event (.migrationArrival p.id)]
  | .tdec _, _ => [.event (.depDecrement p.id)]
  | .score .., _ => [.event (.scoreMessageInsert p.id)]
  | .woken _, _ => [.event (.waitwWake p.id)]
  | .watch _, _ => [.event (.waitwWake p.id)]
  | .deq, _ => if p.waiting && p.waited != 0 then [.event (.deqServe p.id)] else [.event (.homeAccess p.id)]
  | _, _ => [.event (.homeAccess p.id)]

/-- The moves of a core: its slots, its scheduler and its queues. -/
def Core.moves (c : Core) (n : Nat) : List Move :=
  let slots := c.slots.flatMap (fun e =>
    (if e.2.pend.isEmpty then [] else [Move.event (.resultCompletion n e.1)])
      ++ (match e.2.hold with
        | some (.goHome, _) => [Move.event (.guestReturn n e.1)]
        | _ => []))
  let aged := (c.rq.filter (fun e => e.risen c.cycles != e)).map (fun e => Move.event (.taskAging n e.th.uid))
  let starts := if c.rq.isEmpty then []
    else ((List.range 4).filter (fun k => (c.slotAt k).st == .free)).map (fun k => Move.event (.taskStart n k))
  (if c.slots.any (fun e => e.2.runnable) then [Move.core n false] else []) ++ slots ++ aged ++ starts
    ++ (if c.ready.isEmpty then [] else [.event (.readyListInsert n)])
    ++ (if (c.rx0 ++ c.rx1).any (fun m => m.owner == .held) then [.event (.heldMessageDispatch n)] else [])

/-- The moves of a job. -/
def State.jobMoves (s : State) (j : Job) : List Move :=
  match j.st with
  | .queued => if j.finished then [.event (.jobComplete j.order)] else [.event (.jobStart j.pq j.kind)]
  | .running =>
    if j.finished then [.event (.drainWakeup j.order), .event (.jobComplete j.order)] ++ (if j.held.isEmpty then [] else [.release j.order])
    else [.engine j.order] ++ (if j.ph = .claiming then [.event (.claimGrant j.order)] else [])
      ++ (if j.wake.isEmpty then [] else [.event (.drainWakeup j.order)])
      ++ (if j.cl.went then [.event (.clReadySignal j.order), .event (.clStepData j.order)] else [])
      ++ (if j.prog.getD j.ip 0 = 0x1C02 ∧ j.ph = .draining then [.event (.evictPhaseTwo j.order)] else [])
      ++ (s.net.filter (fun p => p.waiting && !j.claims.isEmpty)).map (fun p => .event (.recallClaim j.order p.id))
      ++ (if s.recallsJob j 0 then [.event (.recallClaim j.order 0)] else [])
      ++ (if j.held.isEmpty then [] else [.release j.order])
      ++ (if !j.locks.isEmpty && j.locks.any (fun l => !(s.locksLeft j).contains l) then [.event (.rangeLockRelease j.order)] else [])
      ++ (if j.clWaits && j.budget0 != noBudget && decide (j.budget0 < j.usRun) then [.event (.clPartnerTimeout j.order)] else [])
  | _ => []

/-- The moves that a busy register of the package asks for. -/
def Pkg.moves (p : Pkg) : List Move :=
  (match p.startReq with
    | some (true, k) => [Move.event (.warmStart k)]
    | some (false, _) => [Move.event .coldStart]
    | none => [])
  ++ (if p.attbusy then [.event .quote] else [])
  ++ (if p.sdctl.getLsbD 63 && !p.sdOn then [.event (match bits p.sdctl 62 61 with
    | 0 => .shootdownPage
    | 1 => .shootdownContext
    | 2 => .shootdownAll
    | _ => .shootdownPlacementMap)] else [])
  ++ (if p.sdOn then (List.range 256).map (fun h => .event (.shootdownInvalidation h)) ++ [.event .shootdownAck] else [])
  ++ p.sdHeld.map (fun x => .event (.shootdownInvalidation (256 + x.1)))
  ++ (if p.prectl.getLsbD 63 then [.event (match bits p.prectl 62 61 with
    | 0 => .preemptSave
    | 1 => .preemptRestore
    | _ => .preemptKill)] else [])
  ++ (if p.svcctl.getLsbD 63 then [.event (match bits p.svcctl 62 60 with
    | 0 => .drainHedge
    | 1 => .reloadHedge
    | 2 => .retireStack
    | 3 => .returnStack
    | 4 => .recalibratePort
    | _ => .replaceFirmware)] else [])

/-- The hint that 1,024 walks call for (R424), naming one of the experts whose bins filled most often. -/
def Pkg.hintMoves (p : Pkg) : List Move :=
  if p.rtRuns < 1024 then []
  else
    let m := p.fills.foldl (fun (m : Nat × Nat) x => if m.2 < x.2 then x else m) (0, 0)
    [.event (.replicaHint m.1 m.2)]

/-- Tasks of a core whose BUDGET has reached zero, and who have not been told (R364). -/
def State.expiryMoves (s : State) (n : Nat) (c : Core) : List Move :=
  (c.slots.filter (fun e => e.2.st != .free && !e.2.th.budgetDone && (s.coreAt e.2.th.home).budget e.2.th.homeWp == 0)).map
      (fun e => .event (.budgetExpiry n e.1))
    ++ (c.rq.filter (fun e => !e.th.budgetDone && e.budget == 0)).map (fun e => .event (.budgetExpiry n (4 + e.th.uid)))
    ++ (c.park.filter (fun p => !p.th.budgetDone && c.budget p.th.homeWp == 0)).map (fun p => .event (.budgetExpiry n (4 + p.th.uid)))

/-- The moves of the optical core: ports in their window, hellos and acknowledgements due, what waits too long. -/
def State.fabricMoves (s : State) : List Move :=
  let inService (p : Nat) : Bool := s.portSt p == 2
  (if s.calSlot.isNone then []
    else ((List.range 16).filter (fun p => inService p && !(s.port p).done && (s.peerOf s.pkgNo p (s.calT % 8)).isSome)).map
        (fun p => .event (.frameTransmit p))
      ++ ((List.range (2 ^ s.lgn)).filter s.helloDue).map (fun j => .event (.helloSend j)))
    ++ ((List.range 16).filter (fun p => inService p && decide (8 ≤ (s.port p).badRun))).map (fun p => .event (.portLost p))
    ++ ((List.range 16).filter (fun p => inService p && s.missedFour p)).map (fun p => .event (.marksMissed p))
    ++ (s.helloAge.filter (fun e => decide (8 ≤ e.2) && e.1 != s.pkgNo && decide (e.1 < 2 ^ s.lgn) && (List.range 16).any inService)).map
        (fun e => .event (.peerTimeout e.1))
    ++ s.pairs.flatMap (fun e =>
        (if s.calSlot.isSome && s.ackDue (e.1 / 2) (e.1 % 2) then [Move.event (.sequenceAck (e.1 / 2) (e.1 % 2))] else [])
          ++ (e.2.copies.filter (fun c => c.2.2 != 0 && decide (c.2.2 + 103 ≤ s.homeUs + 1))).map
            (fun c => .event (.retransmitTimeout (e.1 / 2) (e.1 % 2) c.1)))
    ++ (s.egress.zipIdx.filter (fun e => e.1.late && !e.1.due && decide (65536 ≤ e.1.age))).map (fun e => .event (.latePacketAging e.2))

/-- Every move that an agent of the package has before it. -/
def State.moves (s : State) : List Move :=
  s.replies.flatMap Reply.move
    ++ s.net.flatMap Packet.move
    ++ (List.range s.notices.length).map (fun k => .event (.noticeDelivery k))
    ++ s.migrants.map (fun m => .event (.migrationTimeout m.pkt))
    ++ s.cores.flatMap (fun c => c.2.moves c.1 ++ s.expiryMoves c.1 c.2)
    ++ (if s.launches.any (fun l => !l.2.todo.isEmpty) then (List.range 4).map (fun d => .event (.launchPlacement d)) else [])
    ++ s.launches.map (fun l => .event (.joinComplete l.1))
    ++ s.barriers.map (fun b => .event (.barrierComplete b.id))
    ++ s.ords.flatMap (fun o => [.event (.roundStart o.1), .event (.roundCommit o.1)])
    ++ s.chains.map (fun c => .event (.batonReceive c.1))
    ++ s.hedges.flatMap (fun h => (h.2.misses.filter (fun m => m.out.isNone)).map (fun m =>
        .event (.translationWalk h.1 m.ctx (BitVec.ofNat 64 (65536 * m.page)))))
    ++ s.jobs.flatMap s.jobMoves
    ++ (List.range s.decs.length).map (fun k => .event (.jobSuccessorDecrement k))
    ++ s.fabricMoves
    ++ (s.dies.filter (fun d => decide (1024 ≤ d.2.lgPfCount))).map (fun d => .event (.lookaheadThreshold d.1))
    ++ s.pkg.hintMoves
    ++ s.pkg.moves

/-- The move whose turn it is, if any agent has one. -/
def State.nextMove (s : State) : Option Move :=
  let ms := s.moves
  ms[s.turn % Nat.max 1 ms.length]?

end Sys2Proof.Machine
end

