-- ==== Sys2Proof/Machine/Place.lean ====
section
/-! DEFINITION. How a program is placed for its first instruction (log 11): a thread with a page of code, or a running
job with an engine program. -/

namespace Sys2Proof.Machine

/-- Where the placed code stands in device memory. -/
def placedCode : Nat := 0x100000

/-- A thread in slot 0 of core 0 at address placedCode, in context 0, whose tables map the first 64 GiB of device
memory to themselves, with the syllable there; the core issues next. -/
def State.placeSyllable (s : State) (w : Nat) : State :=
  let m1 := s.hbm.setNum 0x10000 8 (0x12000 + 1)
  let m2 := m1.setNum 0x12000 8 (0x14000 + 1)
  let m3 := m2.setNum 0x14000 8 0x73
  let m4 := m3.setNum placedCode 4 w
  let c : Core := { lmem := [], slots := [(0, { st := .running, swp := 1, th := { uid := 1, prio := 2, pc := BitVec.ofNat 64 placedCode } })] }
  { s with
    hbm := m4
    llc := s.llc.del (placedCode / 64)
    pkg := { s.pkg with ctxbase := fld 48 1 ||| 0x10000 }
    cores := s.cores.set 0 { s.coreAt 0 with slots := c.slots, ptr := 0 }
    hedges := s.hedges.set 0 { s.hedge 0 with icache := [], tlb := [] }
    nextId := 2
    sched := [.core 0 false] }

/-- The kind of engine that serves a word (R256). -/
def kindFor (w : EWord) : Nat :=
  if w.toNat ≥ 16384 then 0
  else match w.toNat / 1024 with
  | 3 => 1
  | 4 => 2
  | 5 => 3
  | 6 => 4
  | _ => 0

/-- A running job of core 0 whose program is the one word; its engine moves next. -/
def State.placeWord (s : State) (w : Nat) : State :=
  let e : EWord := BitVec.ofNat 16 w
  let k := kindFor e
  { s with
    jobs := { id := 65536 * queueAt k 0 + 1, pq := queueAt k 0, kind := k, order := 1, sys := true, prog := [e], st := .running } :: s.jobs
    nextId := 2
    sched := [.engine 1] }

end Sys2Proof.Machine
end

