-- ==== Sys2Proof/Machine/Step.lean ====
section
/-! DEFINITION. One step of the device: the next move of the schedule (log 4), or the move whose turn it is (log 5); and
the placing of a first instruction (log 11). -/

namespace Sys2Proof.Machine

/-- One move: a core issues, an engine performs a word, an event happens, an access leaves for another package, a
claim at another package is given back, or a hedge begins a walk or drops what it caches. While the package is halted only the I/O die acts (R419, R421). -/
def State.move (s : State) (m : Move) : Host.Outcome State Fault Refusal :=
  match m with
  | .event i => if i.isEvent && (!s.halted || onIoDie i) then exec i s else .next s
  | .core n late => if s.halted then .next s else s.issue n late
  | .engine j => if s.halted then .next s else s.engineStep j
  | .inject id => if s.halted then .next s else .next (s.injectFar id)
  | .beginWalk h ctx page => .next (if h < 256 then s.beginWalk h ctx page else s)
  | .release j => .next (if s.halted then s else s.releaseClaim j)
  | .dropCode h => .next (s.modHedge h (fun x => { x with icache := [] }))
  | .dropTlb h => .next (s.modHedge h (fun x => { x with tlb := [] }))

/-- One step: the first move of the schedule; where it names none, the move whose turn it is. -/
def step (s : State) : Host.Outcome State Fault Refusal :=
  match s.sched with
  | m :: r => State.move { s with sched := r } m
  | [] =>
    match s.nextMove with
    | some m => State.move { s with turn := s.turn + 1 } m
    | none => .next s

/-- The state with an instruction placed where the next step runs it (log 11). -/
def State.withFetchWord (s : State) (nbits w : Nat) : State :=
  if nbits = 32 then s.placeSyllable w else if nbits = 16 then s.placeWord w else s

end Sys2Proof.Machine
end

