-- ==== Sys2Proof/Safety.lean ====
section
/-! DEFINITION. What a safe run keeps: the canonical form of memory, and register fields that never leave the values
their entries allow. -/

namespace Sys2Proof.Machine

/-- Device memory and host memory are in canonical form. -/
abbrev State.memOk (s : State) : Prop := s.hbm.wf = true ∧ s.hostMem.wf = true

/-- Every local memory is in canonical form. -/
def State.localOk (s : State) : Prop := ∀ n, (s.coreAt n).lmem.wf = true

/-- Device and host memory as a reader sees them byte by byte. -/
def State.hbmByte (s : State) (a : Nat) : Byte := s.hbm.read a

/-- A byte of a core's local memory as it is held. -/
def State.localByte (s : State) (n a : Nat) : Byte := (s.coreAt n).lmem.read a

/-- Every slot that holds the thread with this identity is slot k of core n: no two slots hold one thread. -/
def State.onlyAt (s : State) (uid n k : Nat) : Prop :=
  ∀ c ∈ s.cores, ∀ e ∈ c.2.slots, e.2.st ≠ .free → e.2.th.uid = uid → c.1 = n ∧ e.1 = k

/-- A step goes on. -/
def Goes (o : Host.Outcome State Fault Refusal) : Prop := ∃ t, o = .next t

/-- What a step leaves behind, where it goes on. -/
def Leaves (o : Host.Outcome State Fault Refusal) (p : State → Prop) : Prop := ∃ t, o = .next t ∧ p t

/-! ### A group of one syllable that nothing holds up -/

/-- The syllable about to be performed is a group of its own, on a thread that runs in its slot, with no register write
outstanding, room in its composition buffers and no uncorrectable error. -/
structure Solo (s : State) : Prop where
  grp : s.grp = {}
  late : s.late = false
  run : (s.slotAt s.core s.slot).st = .running
  pend : (s.slotAt s.core s.slot).pend = []
  good : s.bad = []
  room : ((s.slotAt s.core s.slot).comp 0).length ≤ 15 ∧ ((s.slotAt s.core s.slot).comp 1).length ≤ 15

/-- The same outside ordered and run-ahead mode. -/
structure Alone (s : State) : Prop extends Solo s where
  ord : swOrd s.th.sw = false
  ra : swRa s.th.sw = false

/-- The same in user mode in the quantum of an ordered launch, whose record of the thread is o (R222, R224). -/
structure InQuantum (s : State) (id : Nat) (o : OrdTask) : Prop extends Solo s where
  user : s.th.sys = false
  ord : swOrd s.th.sw = true
  ra : swRa s.th.sw = false
  task : s.ordOf s.th.uid = some (id, o)
  st : o.st = .running

/-- ROUND_COMMIT reaches the quantum of task x of launch id, whose thread stands at its end in slot k of core n: no quantum of
the round runs or is in mid-commit, x has the least ordinal of those that ended, and nothing of it is under way (R224). -/
structure CommitsNext (s : State) (id : Nat) (x : OrdTask) (n k : Nat) : Prop where
  has : s.ords.has id = true
  idle : ∀ y ∈ (s.ords.get {} id).tasks, y.st ≠ .running ∧ y.st ≠ .rerun ∧ y.st ≠ .committing
  mem : x ∈ (s.ords.get {} id).tasks
  ended : x.st = .ended ∨ x.st = .reended
  least : ∀ y ∈ (s.ords.get {} id).tasks, y.st = .ended ∨ y.st = .reended → y = x ∨ x.ordinal < y.ordinal
  goes : s.ordStopped x = false
  place : s.whereIs x.uid = some (n, k)
  slot : (s.slotAt n k).st ≠ .free ∧ (s.thAt n k).uid = x.uid
  bound : s.atBoundary x = true
  quiet : s.pendingOf (s.ords.get {} id) x.uid = false
  pend : (s.slotAt n k).pend = []

/-- The same on a core that the thread visits as a guest, in user mode (R129). -/
structure Visits (s : State) : Prop where
  grp : s.grp = {}
  late : s.late = false
  guest : (s.slotAt s.core s.slot).st = .guest
  pend : (s.slotAt s.core s.slot).pend = []
  good : s.bad = []
  room : ((s.slotAt s.core s.slot).comp 0).length ≤ 15 ∧ ((s.slotAt s.core s.slot).comp 1).length ≤ 15
  ord : swOrd s.th.sw = false
  ra : swRa s.th.sw = false
  user : s.th.sys = false

/-- The input ports that a list of source fields pops, in order (R15). -/
def portsOf (l : List Reg) : List Nat := (l.filter (fun r => decide (28 ≤ r.toNat))).map (fun r => r.toNat - 28)

/-- Every port among the source fields holds a word to pop (R15). -/
abbrev State.fed (s : State) (l : List Reg) : Prop := ∀ p ∈ portsOf l, (s.cor.portHead s.th s.slot p).isSome

/-- What a group of one syllable leaves: ports popped, destinations, flags, warnings, the pending prefix, the next PC
where it is not the following syllable, and the bytes it stores in order. -/
structure Result where
  pops : List Nat := []
  reg : Option (Reg × Word) := none
  vec : Option (Reg × Vec) := none
  fl : Flags := {}
  warn : BitVec 16 := 0
  pfx : Option (BitVec 24) := none
  next : Option Word := none
  stores : List (Nat × List Byte) := []
  deriving DecidableEq, Repr

/-- The n bytes of a number laid over a memory (R8). -/
def layBytes (m : Nat → Byte) (b n v a : Nat) : Byte := if b ≤ a ∧ a < b + n then BitVec.ofNat 8 (v / 256 ^ (a - b)) else m a

/-- The own local memory after the scalar destination of a result: w0 discards, a port holds no byte. -/
def Result.regByte (e : Result) (s : State) : Nat → Byte :=
  match e.reg with
  | some (d, v) => if d ≠ 0 ∧ d.toNat < 28 then layBytes (s.localByte s.core) (wsBase s.th.wp + 8 * d.toNat) 8 v.toNat
      else s.localByte s.core
  | none => s.localByte s.core

/-- The own local memory after the destinations of a result. -/
def Result.dstByte (e : Result) (s : State) : Nat → Byte :=
  match e.vec with
  | some (d, v) => layBytes (e.regByte s) (wsBase s.th.wp + 256 + 64 * d.toNat) 64 v.toNat
  | none => e.regByte s

/-- A byte of the own local memory after a result: destinations, then the stores without the bytes that R14 ignores. -/
def Result.byte (e : Result) (s : State) (a : Nat) : Byte :=
  e.stores.foldl (fun m st a => if st.1 ≤ a ∧ a < st.1 + st.2.length ∧ ignoresStore (s.bound s.core) a = false
    then st.2.getD (a - st.1) 0 else m a) (e.dstByte s) a

/-- The slot after the scalar destination of a result: a port destination appends to its message (R15). -/
def Result.slotDst (e : Result) (s : State) : Slot :=
  let x := s.slotAt s.core s.slot
  match e.reg with
  | some (d, v) => if 28 ≤ d.toNat then x.setComp (d.toNat - 28) (x.comp (d.toNat - 28) ++ [v]) else x
  | none => x

/-- The slot after a result: SW takes flags, warnings and the pending prefix, the PC and the retirement counters
advance (R21, R31, R36, R70); the counters stand still in system mode, the mode of handlers (R222, R232; log 61). -/
def Result.slot (e : Result) (s : State) : Slot :=
  let y := e.slotDst s
  { y with
    stalled := false
    th := { y.th with
      pc := e.next.getD (s.th.pc + 4)
      sw := swPend (swWarn (s.th.sw ||| flBits e.fl) e.warn) e.pfx
      synret := if s.th.sys then s.th.synret else s.th.synret + 1
      grpret := if s.th.sys then s.th.grpret else s.th.grpret + 1 } }

/-- The group has been performed with a result, and nothing else of the device has changed: no other core, slot, unit,
memory or package register. -/
structure Retires (s : State) (e : Result) (t : State) : Prop where
  rest : { t with cores := s.cores } = s
  others : ∀ m, m ≠ s.core → t.coreAt m = s.coreAt m
  core : { t.coreAt s.core with lmem := s.cor.lmem, dirty := s.cor.dirty, slots := s.cor.slots }
    = e.pops.foldl (fun c p => c.portPop s.th s.slot p) s.cor
  bytes : ∀ a, t.localByte s.core a = e.byte s a
  slots : ∀ k, k ≠ s.slot → t.slotAt s.core k = s.slotAt s.core k
  slot : t.slotAt s.core s.slot = e.slot s

/-! ### Results by family -/

/-- The quotient of R63: all ones for a zero divisor, rounding toward zero, the most negative number over −1 itself. -/
def quotient (signed : Bool) (a b : Word) : Word :=
  if b = 0 then BitVec.allOnes 64 else if signed then a.sdiv b else a / b

/-- The remainder of R63: the dividend for a zero divisor. -/
def remainder (signed : Bool) (a b : Word) : Word := if b = 0 then a else if signed then a.srem b else a % b

/-- Source fields in the order they are read, destination and value of an instruction that computes a register from
registers and immediates (R62-R71). -/
def scalarRule (s : State) : Instr → Option (List Reg × Reg × Word)
  | .add d a b => some ([a, b], d, s.val a + s.val b)
  | .sub d a b => some ([a, b], d, s.val a - s.val b)
  | .mul d a b => some ([a, b], d, s.val a * s.val b)
  | .mulh d a b => some ([a, b], d, (((s.val a).signExtend 128 * (s.val b).signExtend 128) >>> 64).setWidth 64)
  | .mulhu d a b => some ([a, b], d, (((s.val a).zeroExtend 128 * (s.val b).zeroExtend 128) >>> 64).setWidth 64)
  | .div d a b => some ([a, b], d, quotient true (s.val a) (s.val b))
  | .divu d a b => some ([a, b], d, quotient false (s.val a) (s.val b))
  | .rem d a b => some ([a, b], d, remainder true (s.val a) (s.val b))
  | .remu d a b => some ([a, b], d, remainder false (s.val a) (s.val b))
  | .and d a b => some ([a, b], d, s.val a &&& s.val b)
  | .andn d a b => some ([a, b], d, s.val a &&& ~~~(s.val b))
  | .or d a b => some ([a, b], d, s.val a ||| s.val b)
  | .orn d a b => some ([a, b], d, s.val a ||| ~~~(s.val b))
  | .xor d a b => some ([a, b], d, s.val a ^^^ s.val b)
  | .shl d a b => some ([a, b], d, s.val a <<< (s.val b &&& 63))
  | .shr d a b => some ([a, b], d, s.val a >>> (s.val b &&& 63))
  | .sar d a b => some ([a, b], d, (s.val a).sshiftRight (s.val b &&& 63).toNat)
  | .rotl d a b => some ([a, b], d, s.val a <<< (s.val b &&& 63) ||| s.val a >>> (64 - (s.val b &&& 63)))
  | .min d a b => some ([a, b], d, if (s.val a).sle (s.val b) then s.val a else s.val b)
  | .max d a b => some ([a, b], d, if (s.val b).sle (s.val a) then s.val a else s.val b)
  | .minu d a b => some ([a, b], d, if (s.val a).ule (s.val b) then s.val a else s.val b)
  | .maxu d a b => some ([a, b], d, if (s.val b).ule (s.val a) then s.val a else s.val b)
  | .seq d a b => some ([a, b], d, if s.val a = s.val b then 1 else 0)
  | .sne d a b => some ([a, b], d, if s.val a = s.val b then 0 else 1)
  | .slt d a b => some ([a, b], d, if (s.val a).slt (s.val b) then 1 else 0)
  | .sltu d a b => some ([a, b], d, if (s.val a).ult (s.val b) then 1 else 0)
  | .sel d a b c => some ([a, b, c], d, if s.val c = 0 then s.val b else s.val a)
  | .addi d a i => some ([a], d, s.val a + i.signExtend 64)
  | .andi d a i => some ([a], d, s.val a &&& i.signExtend 64)
  | .ori d a i => some ([a], d, s.val a ||| i.zeroExtend 64)
  | .xori d a i => some ([a], d, s.val a ^^^ i.signExtend 64)
  | .muli d a i => some ([a], d, s.val a * i.signExtend 64)
  | .shli d a i => some ([a], d, s.val a <<< i.zeroExtend 64)
  | .shri d a i => some ([a], d, s.val a >>> i.zeroExtend 64)
  | .sari d a i => some ([a], d, (s.val a).sshiftRight i.toNat)
  | .slti d a i => some ([a], d, if (s.val a).slt (i.signExtend 64) then 1 else 0)
  | .sltiu d a i => some ([a], d, if (s.val a).ult (i.signExtend 64) then 1 else 0)
  | .li d i => some ([], d, i.signExtend 64)
  | .lsi d i => some ([d], d, s.val d <<< 20 ||| i.zeroExtend 64)
  | .clz d a => some ([a], d, BitVec.ofNat 64 (clzOf (s.val a)))
  | .ctz d a => some ([a], d, BitVec.ofNat 64 (ctzFrom (s.val a) 0 64))
  | .popc d a => some ([a], d, BitVec.ofNat 64 (popOf (s.val a) 64))
  | .bswap d a => some ([a], d, bswapOf (s.val a))
  | .lea d a b k => some ([a, b], d, s.val a + s.val b * BitVec.ofNat 64 (2 ^ k.toNat))
  | .crd d n => some ([], d, s.counter n.toNat)
  | .bext d a pos len => some ([a], d, bextOf (s.val a) pos.toNat len.toNat)
  | .bins d a pos len => some ([a, d], d, binsOf (s.val d) (s.val a) pos.toNat len.toNat)
  | _ => none

/-! ### Branches (R72-R75, R141) -/

/-- The target of a taken branch or jump, as an exact integer: signed offset in syllables from the instruction (R72). -/
def State.jumpBy {w : Nat} (s : State) (off : BitVec w) : Int := (s.th.pc.toNat : Int) + 4 * off.toInt

/-- A target that raises no trap (R75): canonical and a multiple of 4. -/
abbrev targetOk (t : Int) : Prop := 0 ≤ t ∧ t < 2 ^ 64 ∧ canonical (BitVec.ofInt 64 t) = true ∧ t % 4 = 0

/-- Source fields, link register with its value, and the target where the branch is taken (R72-R74). -/
def branchRule (s : State) : Instr → Option (List Reg × Option (Reg × Word) × Option Int)
  | .bZ a off => some ([a], none, if s.val a = 0 then some (s.jumpBy off) else none)
  | .bNz a off => some ([a], none, if s.val a = 0 then none else some (s.jumpBy off))
  | .bLz a off => some ([a], none, if (s.val a).slt 0 then some (s.jumpBy off) else none)
  | .bGez a off => some ([a], none, if (s.val a).slt 0 then none else some (s.jumpBy off))
  | .bGz a off => some ([a], none, if (0 : Word).slt (s.val a) then some (s.jumpBy off) else none)
  | .bLez a off => some ([a], none, if (0 : Word).slt (s.val a) then none else some (s.jumpBy off))
  | .j off => some ([], none, some (s.jumpBy off))
  | .jal d off => some ([], some (d, s.th.pc + 4), some (s.jumpBy off))
  | .jalr d a imm => some ([a], some (d, s.th.pc + 4), some ((s.val a).toNat + imm.toInt))
  | _ => none

/-- A step retires with a result and then changes one more thing. -/
def RetiresThen (s : State) (e : Result) (f : State → State) (o : Host.Outcome State Fault Refusal) : Prop :=
  Leaves o (fun t => ∃ u, Retires s e u ∧ t = f u)

/-! ### Local loads and stores (R14, R76, R77, R87) -/

/-- A byte of the own local memory as a load sees it: w0 and the reserved bytes of a bound workspace read zero (R14). -/
def State.seen (s : State) (a : Nat) : Byte := if readsZero (s.bound s.core) a then 0 else s.localByte s.core a

/-- The little-endian number of n bytes (R8). -/
def leNum (f : Nat → Byte) (a : Nat) : Nat → Nat
  | 0 => 0
  | n + 1 => (f a).toNat + 256 * leNum f (a + 1) n

/-- The effective address of a local access: base plus signed offset, exact (R76). -/
def effAddr {w : Nat} (a : Word) (off : BitVec w) (scale : Nat) : Int := (a.toNat : Int) + scale * off.toInt

/-- An address and size that raise no trap (R76). -/
abbrev localOkAt (ea : Int) (n al : Nat) : Prop := 0 ≤ ea ∧ ea + n ≤ 131072 ∧ ea % al = 0

/-- The bytes of a range refuse a store from user mode: PC, SW and the frame words of a bound workspace (R14). -/
abbrev State.storable (s : State) (a n : Nat) : Prop := s.th.sys = true ∨ ∀ j, j < n → inBound (s.bound s.core) 768 864 (a + j) = false

/-- Size and sign extension of a local load by its func (R76). -/
def loadForm (f : BitVec 3) : Nat × Bool :=
  match f.toNat with
  | 0 => (1, false) | 1 => (1, true) | 2 => (2, false) | 3 => (2, true) | 4 => (4, false) | 5 => (4, true) | _ => (8, false)

/-- A number of n bytes extended to a word (R76). -/
def extended (n : Nat) (signed : Bool) (v : Nat) : Word :=
  if signed then (BitVec.ofNat (8 * n) v).signExtend 64 else (BitVec.ofNat (8 * n) v).zeroExtend 64

/-! ### Control and status registers (R79-R82) -/

/-- The CSRs that hold what is written to them, with the bits that take part: number and mask (the entry of each
register). The others act on a write, count, or are read-only. -/
def csrHolds (num : Nat) : Option Word :=
  if num = 0x20 then some 0xFFFFFFFFFFFFFFFE
  else if num = 0x22 ∨ num = 0x23 then some 0xFFFFFFFFFFFFFFFF
  else if num = 0x24 ∨ num = 0x27 ∨ num = 0x2A then some 0xFFFFFFFF
  else if 0x40 ≤ num ∧ num < 0x80 then some 0xFFFFFFFFFFFFFFFF
  else if 0x80 ≤ num ∧ num < 0xC0 then some 0xF00FFFFC0000FFFF
  else if 0xC0 ≤ num ∧ num < 0xC8 then some 0xFFFFFFFFFC00FFFF
  else if 0xC8 ≤ num ∧ num < 0xD0 then some 0xFFFFFE0000000000
  else if num = 0x113 then some 0x1F
  else if num = 0x114 ∨ num = 0x181 ∨ num = 0x183 ∨ num = 0x203 then some 0xFFFFFFFFFFFFFFFF
  else if num = 0x115 then some 0xFFFFFFFFFFFFFFFC
  else if num = 0x182 ∨ num = 0x211 then some 0xFFFFFFFF
  else if num = 0x202 then some 0x8000000000000FFF
  else if num = 0x205 then some 0x0078000000000001
  else if num = 0x206 then some 0x800000000000FFFF
  else if num = 0x208 then some 0xFFFFFFFFFFFFFFC0
  else if num = 0x209 ∨ num = 0x210 ∨ (0x214 ≤ num ∧ num ≤ 0x216) ∨ num = 0x218 then some 0xFFFFFFFFFFFFFFFF
  else if num = 0x20C then some 0x007FFFF000000001
  else if num = 0x213 then some 0xFFFFFFFFFFF80000
  else if 0x2C0 ≤ num ∧ num < 0x2C4 then some 0xFFFFFFFFFFFFFFFF
  else none

/-- Destination, register number, source and the new value of a CSR write instruction (R79, R82). -/
def csrWriteRule (s : State) : Instr → Option (Reg × BitVec 10 × Reg × Word)
  | .csrw d n a => some (d, n, a, s.val a)
  | .csrs d n a => some (d, n, a, s.csrRead s.core s.slot n.toNat ||| s.val a)
  | .csrc d n a => some (d, n, a, s.csrRead s.core s.slot n.toNat &&& ~~~(s.val a))
  | _ => none

/-! ### Vector instructions (R83-R103) -/

/-- Lane specification, destination, the two sources and the value of each lane with its flags: index, lane of A, of B
and of the old D (R89-R93, R96). -/
def laneRule (s : State) : Instr → Option (LaneSpec × Reg × Reg × Reg × (Lanes → Nat → Nat → Nat → Nat → Nat × Flags))
  | .vaddF d a b => some (specFar, d, a, b, fun l i x y _ => sumRound (fmtOf l.fa) (s.rnd l (l.sat == 1) i) ((fmtOf l.fa).decode x) ((fmtOf l.fa).decode y))
  | .vsubF d a b => some (specFar, d, a, b, fun l i x y _ => sumRound (fmtOf l.fa) (s.rnd l (l.sat == 1) i) ((fmtOf l.fa).decode x) ((fmtOf l.fa).decode y).negate)
  | .vmulF d a b => some (specFar, d, a, b, fun l i x y _ => mulRound (fmtOf l.fa) (s.rnd l (l.sat == 1) i) ((fmtOf l.fa).decode x) ((fmtOf l.fa).decode y))
  | .vfmaF d a b => some (specFar, d, a, b, fun l i x y z => fmaRound (fmtOf l.fa) (s.rnd l (l.sat == 1) i) ((fmtOf l.fa).decode z) ((fmtOf l.fa).decode x) ((fmtOf l.fa).decode y))
  | .vminF d a b => some (specFcmp, d, a, b, fun l _ x y _ => minMaxF (fmtOf l.fa) false x y)
  | .vmaxF d a b => some (specFcmp, d, a, b, fun l _ x y _ => minMaxF (fmtOf l.fa) true x y)
  | .vabsF d a => some (specFcmp, d, a, a, fun l _ x _ _ => signOp (fmtOf l.fa) false x)
  | .vnegF d a => some (specFcmp, d, a, a, fun l _ x _ _ => signOp (fmtOf l.fa) true x)
  | .vaddI d a b => some (specIar, d, a, b, fun l _ x y _ => (if l.sat = 1 then wrapOrClamp l (laneInt l x + laneInt l y) else (x + y) % 2 ^ l.w, {}))
  | .vsubI d a b => some (specIar, d, a, b, fun l _ x y _ => (if l.sat = 1 then wrapOrClamp l (laneInt l x - laneInt l y) else (x + (2 ^ l.w - y)) % 2 ^ l.w, {}))
  | .vmulI d a b => some (specIar, d, a, b, fun l _ x y _ => (if l.sat = 1 then wrapOrClamp l (laneInt l x * laneInt l y) else x * y % 2 ^ l.w, {}))
  | .vminI d a b => some (specImm, d, a, b, fun l _ x y _ => (if laneInt l x ≤ laneInt l y then x else y, {}))
  | .vmaxI d a b => some (specImm, d, a, b, fun l _ x y _ => (if laneInt l y ≤ laneInt l x then x else y, {}))
  | .vshl d a b => some (specImm, d, a, b, fun l _ x y _ => ((x <<< (y % l.w)) % 2 ^ l.w, {}))
  | .vshr d a b => some (specImm, d, a, b, fun l _ x y _ => (x >>> (y % l.w), {}))
  | .vsar d a b => some (specImm, d, a, b, fun l _ x y _ => (((BitVec.ofNat l.w x).sshiftRight (y % l.w)).toNat, {}))
  | .vcmpF cond d a b => some (specFcmp, d, a, b, fun l _ x y _ =>
      (if (cmpF (fmtOf l.fa) cond.toNat x y).1 then 2 ^ l.w - 1 else 0, (cmpF (fmtOf l.fa) cond.toNat x y).2))
  | .vrcp d a => some (specApx, d, a, a, fun _ _ x _ _ => approxRcp x)
  | .vrsqrt d a => some (specApx, d, a, a, fun _ _ x _ _ => approxRsqrt x)
  | .vexp2 d a => some (specApx, d, a, a, fun _ _ x _ _ => approxExp2 x)
  | .vlog2 d a => some (specApx, d, a, a, fun _ _ x _ _ => approxLog2 x)
  | _ => none

/-- Destination and value of an instruction that treats vector registers as 512 bits (R88, R92, R94). -/
def wholeRule (s : State) : Instr → Option (Reg × Vec)
  | .vmov d a => some (d, s.vval a)
  | .vand d a b => some (d, s.vval a &&& s.vval b)
  | .vor d a b => some (d, s.vval a ||| s.vval b)
  | .vxor d a b => some (d, s.vval a ^^^ s.vval b)
  | .vsel d a b => some (d, (s.vval a &&& s.vval d) ||| (s.vval b &&& ~~~(s.vval d)))
  | _ => none

/-- Scalar sources, lane specification, destination and the lane j of the result of an instruction that moves lanes
(R88, R101, R103). -/
def moveRule (s : State) : Instr → Option (List Reg × Reg × (Lanes → Nat → Nat))
  | .vbcast d a => some ([a], d, fun l _ => (s.val a).toNat % 2 ^ l.w)
  | .vins d a b => some ([a, b], d, fun l j =>
      if j = (s.val b).toNat % (512 / l.w) then (s.val a).toNat % 2 ^ l.w else lane (s.vval d) l.w j)
  | .vperm d a b => some ([], d, fun l j => lane (s.vval a) l.w (lane (s.vval b) l.w j % (512 / l.w)))
  | .vcompact d a b => some ([], d, fun l j =>
      (((List.range (512 / l.w)).filter (fun i => lane (s.vval b) l.w i ≠ 0)).map (lane (s.vval a) l.w)).getD j 0)
  | _ => none

/-- The integer or floating-point value of a selected lane as a scalar: zero-extended, sign-extended for a signed
integer, a NaN canonical (R98, R100). -/
def laneScalar (l : Lanes) (x : Nat) : Word :=
  match l.elt with
  | .int w false => (BitVec.ofNat w x).signExtend 64
  | .int w true => (BitVec.ofNat w x).zeroExtend 64
  | .flt f => BitVec.ofNat 64 (if f.isNan x then f.nan else x)

/-- Whether the magnitude q + x/d, with x below d, rounds up to q + 1 under a rounding mode of R18 (R52). -/
abbrev roundsUp (o : Rnd) (neg : Bool) (q x d : Nat) : Prop :=
  (o.rm = 0 ∧ (d < 2 * x ∨ (2 * x = d ∧ q % 2 = 1))) ∨ (o.rm = 2 ∧ 0 < x ∧ neg = false) ∨ (o.rm = 3 ∧ 0 < x ∧ neg = true)
    ∨ (o.rm = 4 ∧ srBits o.seed o.idx < x * 2 ^ 24 / d)

/-- What an overflow gives (R53). -/
def overflowed (f : Fmt) (o : Rnd) (neg : Bool) : Nat :=
  if o.sat = true ∨ f = .fp4 then f.sgn neg f.maxCode
  else if o.rm = 0 ∨ o.rm = 4 ∨ (o.rm = 2 ∧ neg = false) ∨ (o.rm = 3 ∧ neg = true) then
    (if f = .e4m3 then 0x7F else f.sgn neg (f.maxCode + 1))
  else f.sgn neg f.maxCode

/-- A lane of the highest rank, or the lowest, and of those the one with the lowest index (R58, R100). -/
def Selects (l : Lanes) (max : Bool) (v : Vec) (p : Nat) : Prop :=
  p < 512 / l.w ∧ ∀ j, j < 512 / l.w →
    let r := l.elt.rank (lane v l.w p)
    let q := l.elt.rank (lane v l.w j)
    (if max then q ≤ r else r ≤ q) ∧ (j < p → q ≠ r)

/-- The sum of the first n lanes, rounded once as lane i (R99). -/
def sumUpTo (s : State) (l : Lanes) (v : Vec) (n i : Nat) : Nat × Flags :=
  (((lanes v l.w).take n).foldl (fun (acc : SumAcc) x => acc.add l x) {}).round l (s.rnd l (l.sat == 1) i)

/-! ### Long accumulators (R104-R106) -/

/-- The long accumulator at a local offset, as a load sees its bytes. -/
def State.laAt (s : State) (x : Nat) : La := BitVec.ofNat 640 (leNum s.seen x 80)

/-- Sources, warnings, offset of the accumulator, its new value with the flags, and a second accumulator read (R105). -/
def laRule (s : State) : Instr → Option (List Reg × BitVec 16 × Nat × (LaVal × Flags) × Option Nat)
  | .awclr a => some ([a], (s.lanes specNone).warn, (s.val a).toNat, (.fin 0, {}), none)
  | .awin a b =>
    let l := s.lanes specFcmp
    some ([a, b], l.warn, (s.val a).toNat,
      laAddVal (laDecode (s.laAt (s.val a).toNat)) ((fmtOf l.fa).decode ((s.val b).toNat % 2 ^ l.w)), none)
  | .awinm a b d =>
    let p := (Fmt.decode .fp32 ((s.val b).toNat % 2 ^ 32)).mul (Fmt.decode .fp32 ((s.val d).toNat % 2 ^ 32))
    let r := laAddVal (laDecode (s.laAt (s.val a).toNat)) p.1
    some ([a, b, d], (s.lanes specNone).warn, (s.val a).toNat, (r.1, { r.2 with nv := r.2.nv || p.2 }), none)
  | .vawin a b =>
    let l := s.lanes specFcmp
    some ([a], l.warn, (s.val a).toNat, (lanes (s.vval b) l.w).foldl (fun acc x =>
      let r := laAddVal acc.1 ((fmtOf l.fa).decode x)
      (r.1, acc.2.or r.2)) (laDecode (s.laAt (s.val a).toNat), {}), none)
  | .awadd a b => some ([a, b], (s.lanes specNone).warn, (s.val a).toNat,
      laAdd (laDecode (s.laAt (s.val a).toNat)) (laDecode (s.laAt (s.val b).toNat)), some (s.val b).toNat)
  | _ => none

/-! ### Accesses that leave the core (R161, R191-R202) -/

/-- A blocking access has left: its packet is in the network under a fresh number, the slot holds its group until the
reply with the destination given, the words that the group pops stay held for it (R193), a translation used is kept by the
hedge, and nothing else has changed. -/
structure Requests (s : State) (pops : List Nat) (warn : BitVec 16) (pkt : Packet) (dst : Dst) (tl : List TlbEntry) (t : State) :
    Prop where
  net : t.net = s.net ++ [{ pkt with id := s.nextId }]
  rest : { t with cores := s.cores, net := s.net, nextId := s.nextId, hedges := s.hedges } = s
  next : t.nextId = s.nextId + 1
  hedges : t.hedges = (s.doTlb s.core tl).hedges
  others : ∀ m, m ≠ s.core → t.coreAt m = s.coreAt m
  core : { t.coreAt s.core with slots := s.cor.slots } = pops.eraseDups.foldl (fun c p => c.holdPort s.th s.slot p) s.cor
  slots : ∀ k, k ≠ s.slot → t.slotAt s.core k = s.slotAt s.core k
  slot : ∃ fx : Fx, t.slotAt s.core s.slot = { s.slotAt s.core s.slot with hold := some (.reply s.nextId, fx), stalled := false }
    ∧ fx.dst = dst ∧ fx.pops = pops ∧ fx.warn = warn ∧ fx.wr = [] ∧ fx.vwr = [] ∧ fx.st = [] ∧ fx.acts = [] ∧ fx.next = none
    ∧ fx.sylls = 1 ∧ fx.fl = {} ∧ fx.ctl = none ∧ fx.csr = none ∧ fx.pfx = none

/-- A posted access leaves at the end of its group: counter k of the thread rises and the packet enters the network. -/
def State.posts (s : State) (tl : List TlbEntry) (k : Nat) (pkt : Packet) (u : State) : State :=
  (((u.doTlb s.core tl).scAdd s.th k 1).post { pkt with sc := some k }).2

/-- The destination of a load by its func (R191). -/
def loadDst (f : BitVec 3) (d : Reg) : Dst := .reg d.toNat (8 * (loadForm f).1) (loadForm f).2

/-- The exact virtual address of a global access (R161). -/
def globalAddr (a : Word) (off : BitVec 11) : Int := (a.toNat : Int) + off.toInt

/-- The operation number, fields and registers of an atomic (R197). -/
def amoRule : Instr → Option (Nat × BitVec 2 × BitVec 2 × BitVec 1 × Reg × Reg × Reg)
  | .amoAdd z o nr d a b => some (0, z, o, nr, d, a, b)
  | .amoAnd z o nr d a b => some (1, z, o, nr, d, a, b)
  | .amoOr z o nr d a b => some (2, z, o, nr, d, a, b)
  | .amoXor z o nr d a b => some (3, z, o, nr, d, a, b)
  | .amoMin z o nr d a b => some (4, z, o, nr, d, a, b)
  | .amoMax z o nr d a b => some (5, z, o, nr, d, a, b)
  | .amoMinu z o nr d a b => some (6, z, o, nr, d, a, b)
  | .amoMaxu z o nr d a b => some (7, z, o, nr, d, a, b)
  | .amoSwap z o nr d a b => some (8, z, o, nr, d, a, b)
  | .amoCas z o nr d a b => some (9, z, o, nr, d, a, b)
  | .amoIncb z o nr d a b => some (10, z, o, nr, d, a, b)
  | .amoFadd z o nr d a b => some (11, z, o, nr, d, a, b)
  | _ => none

/-- The register fields an atomic reads in order: address, operand pair or register, and the comparand of cas (R197). -/
def amoSources (op : Nat) (size : BitVec 2) (d a b : Reg) : List Reg :=
  a :: (if size = 2 then [b, b + 1] else [b]) ++ (if op = 9 then (if size = 2 then [d, d + 1] else [d]) else [])

/-- The path to the place carries the operation: host memory takes the operations of R197 only. -/
abbrev pathCarries (p : Place) (op : Nat) (size : BitVec 2) : Prop :=
  match p with
  | .host _ => hostClass op size.toNat = true
  | _ => True

/-- The answer of a home to a packet: bulk data is answered on class 2, every other access on class 1 (R7, R408). -/
def Packet.reply (p : Packet) (k : RKind) : Reply :=
  { id := p.id, src := p.src, posted := p.posted, sc := p.sc, cnt := p.cnt, va := p.va, acc := p.kind.acc, home := p.home
    cls := if p.cls = 2 then 2 else 1, kind := k }

/-! ### Engine words (R256-R259) -/

/-- The running job in progress is about to perform a word of a class that its kind serves: the operands, as the word's
stack comment writes them, lie on its stack over the rest, and what the word pushes has room (R256, R257). -/
structure Working (s : State) (j : Job) (cls : Nat) (ops rest : List Word) (pushes : Nat := 0) : Prop where
  job : s.jobNo s.job = some j
  live : j.live = true
  kind : serves j.kind cls = true
  stack : j.stack = ops.reverse ++ rest
  room : rest.length + pushes ≤ 8

/-- The job after a word that leaves a stack: the next word begins, no lock, write to come or fetched data stays (R257). -/
def Job.goesOn (j : Job) (stack : List Word) : Job :=
  { j with stack := stack, ip := j.ip + 1, ph := .start, unitIdx := 0, fetched := [], want := [], locks := [], left := [], out := none }

/-- A word has been performed and nothing but its job has changed. -/
def State.worked (s : State) (j : Job) (rest : List Word) : Host.Outcome State Fault Refusal := .next (s.putJob (j.goesOn rest))

/-- The unit in progress has no write left to make. -/
abbrev Job.idle (j : Job) : Prop := ∀ n p r, j.out ≠ some (n, p :: r)

/-- A write without the claim that it ends. -/
def OutPiece.bare : OutPiece → OutPiece
  | .bytes dest bs a b _ => .bytes dest bs a b none
  | p => p

/-- A unit has its results: the writes ps are to be made in this order, then unit n follows; the sectors of left are still to
be written after them; nothing but the job has changed (R215, R257). -/
def Emits (s : State) (j : Job) (n : Nat) (left : List ClaimKey) (ps : List OutPiece) (o : Host.Outcome State Fault Refusal) : Prop :=
  ∃ qs : List OutPiece, o = .next (s.putJob { j with out := some (n, qs), left := left }) ∧ qs.map OutPiece.bare = ps

/-- The engine words that work in units, whose writes are made one at a time (R215, R257, R310, R318, R326, R332, R339). -/
def launchWord : Instr → Bool
  | .mmRun | .mmRing | .mmGmm | .cpGo | .cpFill | .cpGath | .cpScat | .rtCap | .rtRun | .rtEmit | .rtStat | .clGo | .lgRun => true
  | _ => false

/-- The job once the first of its writes is made: P5 and P6 as the write says, the claim that it ended given up (R215). -/
def Job.wrote (j : Job) (n : Nat) (p5 p6 : Option Nat) (free : Option ClaimKey) (r : List OutPiece) : Job :=
  { j with
    out := some (n, r)
    claims := match free with
      | some k => k.off j.claims
      | none => j.claims
    params := match p5, p6 with
      | none, none => j.params
      | some v, none => j.params.set 5 (BitVec.ofNat 64 v)
      | none, some v => j.params.set 6 (BitVec.ofNat 64 v)
      | some v, some w => (j.params.set 5 (BitVec.ofNat 64 v)).set 6 (BitVec.ofNat 64 w) }

/-- Class, words popped and words pushed of every engine word (R256, R258, R269, R292, R308, R322, R325, R330, R335). -/
def engineShape : Instr → Option (Nat × Nat × Nat)
  | .lit _ => some (0, 0, 1)
  | .ext _ | .ldp => some (0, 1, 1)
  | .engNop | .end_ => some (0, 0, 0)
  | .dup => some (0, 1, 2)
  | .drop | .sig | .skz => some (0, 1, 0)
  | .engSwap => some (0, 2, 2)
  | .engOver => some (0, 2, 3)
  | .rot => some (0, 3, 3)
  | .engAdd | .engSub | .engMul | .engShl | .engShr | .engAnd | .engOr => some (0, 2, 1)
  | .stp => some (0, 2, 0)
  | .mmFmt | .mmAcc | .mmGmm => some (1, 1, 0)
  | .mmScale => some (1, 5, 0)
  | .mmGeo | .mmB | .mmDrain | .mmDrainla => some (1, 3, 0)
  | .mmA | .mmRound => some (1, 2, 0)
  | .mmDrainmb => some (1, 4, 0)
  | .mmRun | .mmRing => some (1, 0, 0)
  | .bfLen | .bfSched | .bfPass => some (2, 1, 0)
  | .bfLoad | .bfCmul | .bfStore => some (2, 4, 0)
  | .bfStage => some (2, 2, 0)
  | .bfTwid => some (2, 3, 0)
  | .cpDim | .cpGo | .cpFill => some (3, 3, 0)
  | .cpGath | .cpScat => some (3, 4, 0)
  | .cpCvt => some (3, 1, 0)
  | .cpClr => some (3, 0, 0)
  | .rtCfg | .rtBind => some (4, 2, 0)
  | .rtCap | .rtRun | .rtEmit => some (4, 3, 0)
  | .rtStat => some (4, 1, 0)
  | .clGrp | .clRs | .clAg => some (5, 4, 0)
  | .clChain | .clGo => some (5, 0, 0)
  | .lgGate => some (6, 4, 0)
  | .lgRun => some (6, 5, 0)
  | .lgPf => some (6, 2, 0)
  | .exSet => some (7, 4, 0)
  | .exPin => some (7, 1, 2)
  | .exEvict => some (7, 1, 0)
  | .exRep => some (7, 3, 0)
  | _ => none

/-- The results of a word that only computes on the stack, from its operands, the top last (R256, R258). -/
def stackRule : Instr → List Word → Option (List Word)
  | .lit n, [] => some [n.zeroExtend 64]
  | .ext n, [t] => some [t <<< 14 ||| n.zeroExtend 64]
  | .engNop, [] => some []
  | .dup, [a] => some [a, a]
  | .drop, [_] => some []
  | .engSwap, [a, b] => some [b, a]
  | .engOver, [a, b] => some [a, b, a]
  | .rot, [a, b, c] => some [b, c, a]
  | .engAdd, [a, b] => some [a + b]
  | .engSub, [a, b] => some [a - b]
  | .engMul, [a, b] => some [a * b]
  | .engShl, [a, b] => some [a <<< (b &&& 63)]
  | .engShr, [a, b] => some [a >>> (b &&& 63)]
  | .engAnd, [a, b] => some [a &&& b]
  | .engOr, [a, b] => some [a ||| b]
  | _, _ => none

/-- The registers that a word sets where its operands lie within their limits, with the word's class (R263, R270, R287,
R290, R309, R325, R329-R331, R335). -/
def wordRule (j : Job) : Instr → List Word → Option (Nat × Job)
  | .mmFmt, [f] => if f.toNat < 1024 ∧ (mmFmts f.toNat).isSome then some (1, { j with mm := { j.mm with fmt := f.toNat } }) else none
  | .mmScale, [m, a, p, b, q] =>
    if m.toNat ≤ 2 ∧ a.toNat < 131072 ∧ p.toNat < 131072 ∧ canonical b = true ∧ q.toNat < 2 ^ 32
    then some (1, { j with mm := { j.mm with smode := m.toNat, sa := a.toNat, sas := p.toNat, sb := b.toNat, sbs := q.toNat } }) else none
  | .mmGeo, [m, n, k] => if m.toNat ≤ 2 ^ 20 ∧ n.toNat ≤ 65536 ∧ k.toNat ≤ 2 ^ 20
    then some (1, { j with mm := { j.mm with m := m.toNat, n := n.toNat, k := k.toNat } }) else none
  | .mmA, [a, p] => if bits a 5 0 = 0 ∧ bits p 5 0 = 0 ∧ a.toNat ≤ 131008 ∧ p.toNat ≤ 131008
    then some (1, { j with mm := { j.mm with aoff := a.toNat, astr := p.toNat } }) else none
  | .mmB, [p, b, q] =>
    if bits p 1 0 ≠ 3 ∧ ¬(bits p 1 0 = 2 ∧ p.getLsbD 2 = true) ∧ bits p 31 3 = 0 ∧ bits p 37 32 = 0 ∧ bits p 63 50 = 0 ∧ bits b 5 0 = 0 ∧ bits q 5 0 = 0
    then some (1, { j with mm := { j.mm with path := bits p 1 0, keep := p.getLsbD 2, toff := bits p 63 32, bb := b.toNat, bstr := q.toNat } })
    else none
  | .mmAcc, [f] => if f.toNat < 4 then some (1, { j with mm := { j.mm with accIn := f.getLsbD 0, accOut := f.getLsbD 1 } }) else none
  | .mmRound, [m, d] =>
    if m.toNat < 256 ∧ bits m 3 0 ≤ 11 ∧ bits m 5 4 ≠ 3 ∧ (m.getLsbD 7 = true → intCode (bits m 3 0) = true)
    then some (1, { j with mm := { j.mm with rm := m.toNat, seed := bits d 31 0 } }) else none
  | .mmDrain, [d, p, m] =>
    if d.toNat < 2 ^ 36 ∧ bits d 5 0 = 0 ∧ bits p 5 0 = 0 ∧ p.toNat ≤ 131072 ∧ m.toNat < 128
    then some (1, { j with mm := { j.mm with drain := 1, dst := d.toNat, str := p.toNat, mode := m.toNat } }) else none
  | .mmDrainla, [d, p, m] =>
    if d.toNat < 2 ^ 36 ∧ bits d 5 0 = 0 ∧ bits p 5 0 = 0 ∧ p.toNat ≤ 131072 ∧ m.toNat < 256
    then some (1, { j with mm := { j.mm with drain := 2, dst := d.toNat, str := p.toNat, mode := m.toNat } }) else none
  | .mmDrainmb, [m, t, e, k] =>
    if m.toNat < 2 ^ 36 ∧ bits m 16 7 = 0 ∧ 1 ≤ bits m 6 0 ∧ bits m 6 0 ≤ 64 ∧ t.toNat < 2 ^ 32 ∧ e.toNat ≤ 65534 ∧ 1 ≤ k.toNat ∧ k.toNat ≤ 8
    then some (1, { j with mm := { j.mm with drain := 3, mbMap := m.toNat, tok0 := t.toNat, ex0 := e.toNat, mbK := k.toNat, mode := 0 } }) else none
  | .bfLen, [p] => if planBad p.toNat = false then some (2, { j with plan := some p.toNat }) else none
  | .bfSched, [x] => if x.toNat < 2 ^ 25 then some (2, { j with sched := x.toNat }) else none
  | .cpDim, [e, a, b] => if 1 ≤ e.toNat ∧ e.toNat ≤ 2 ^ 32 ∧ j.dims.length < 16
    then some (3, { j with dims := j.dims ++ [{ ext := e.toNat, sstr := a.toInt, dstr := b.toInt }] }) else none
  | .cpCvt, [f] =>
    if bits f 31 12 = 0 ∧ bits f 9 8 ≠ 3 ∧ (bits f 7 0 = 0 ∨ (cvtFmt (bits f 3 0) = true ∧ cvtFmt (bits f 7 4) = true))
    then some (3, { j with cvt := f.toNat }) else none
  | .cpClr, [] => some (3, { j with dims := [], cvt := 0 })
  | .rtCfg, [p, r] => if p.toNat < 256 ∧ 1 ≤ bits p 7 4 ∧ bits p 7 4 ≤ 8 ∧ r.toNat ≤ 0xFFFF
    then some (4, { j with rt := { j.rt with cfg := true, pol := p.toNat, res := r.toNat } }) else none
  | .rtBind, [t, n] => if canonical t = true ∧ bits t 5 0 = 0 ∧ 1 ≤ n.toNat ∧ n.toNat ≤ 65535
    then some (4, { j with rt := { j.rt with bound := true, tab := t.toNat, nexp := n.toNat } }) else none
  | .clRs, [a, b, n, f] =>
    if j.cl.went = false ∧ canonical a = true ∧ canonical b = true ∧ bits a 1 0 = 0 ∧ bits b 1 0 = 0 ∧ 1 ≤ n.toNat ∧ n.toNat ≤ 2 ^ 20 ∧ f.toNat < 2
      ∧ j.cl.cur.hasGrp = true ∧ n.toNat % 2 ^ j.cl.cur.g = 0 ∧ (j.cl.cur.steps.length + 1) * j.cl.cur.g ≤ 16
    then some (5, { j with cl := j.cl.setCur { j.cl.cur with steps := j.cl.cur.steps ++ [(true, a.toNat, b.toNat, n.toNat, f.toNat, 0)] } }) else none
  | .clAg, [a, b, n, f] =>
    if j.cl.went = false ∧ canonical a = true ∧ canonical b = true ∧ bits a 1 0 = 0 ∧ bits b 1 0 = 0 ∧ 1 ≤ n.toNat ∧ n.toNat ≤ 2 ^ 20 ∧ f.toNat < 2
      ∧ j.cl.cur.hasGrp = true ∧ n.toNat % 2 ^ j.cl.cur.g = 0 ∧ (j.cl.cur.steps.length + 1) * j.cl.cur.g ≤ 16
    then some (5, { j with cl := j.cl.setCur { j.cl.cur with steps := j.cl.cur.steps ++ [(false, a.toNat, b.toNat, n.toNat, f.toNat, 0)] } }) else none
  | .clChain, [] => if j.cl.went = false ∧ j.cl.lists.length < 4 then some (5, { j with cl := { j.cl with lists := j.cl.lists ++ [{}] } }) else none
  | .lgGate, [g, p, n, d] =>
    if canonical g = true ∧ g.getLsbD 0 = false ∧ p.getLsbD 0 = false ∧ 1 ≤ n.toNat ∧ n.toNat ≤ 4096 ∧ 1 ≤ d.toNat ∧ d.toNat ≤ 16384
    then some (6, { j with gate := some (g.toNat, p.toNat, n.toNat, d.toNat) }) else none
  | _, _ => none

/-- The tile register that a word of class 2 writes, and its points and exponent, where the operands lie within their
limits, the reads are complete and no exponent leaves its range (R289, R292, R294, R296, R297). -/
def tileRule (s : State) (j : Job) (p : Nat) : Instr → List Word → Option (Nat × TileOut)
  | .bfStage, [t, k] => if t.toNat < 8 ∧ 1 ≤ k.toNat ∧ k.toNat ≤ (planRadices p).length
    then (bfStage p j.sched (s.tileIn j p t.toNat) k.toNat).map (fun x => (t.toNat, x)) else none
  | .bfPass, [t] => if t.toNat < 8 ∧ 0 < (planRadices p).length
    then ((List.range (planRadices p).length).foldl (fun x k => x.bind (fun x => bfStage p j.sched x (k + 1)))
      (some (s.tileIn j p t.toNat))).map (fun x => (t.toNat, x)) else none
  | .bfTwid, [t, n, e] =>
    let x := s.tileIn j p t.toNat
    let acc := x.pts.zipIdx.map (fun z => Cpx.mul z.1 (twiddle (planInv p) n.toNat (e.toNat * z.2 % n.toNat)))
    let sh := if j.sched / 2 ^ 24 % 2 = 1 then blkShift acc 30 else 0
    let r := roundPoints acc (30 + sh)
    if t.toNat < 8 ∧ 1 ≤ n.toNat ∧ n.toNat ≤ 2 ^ 24 ∧ e.toNat < 2 ^ 24 ∧ x.t + sh ≤ 32767 ∧ -32768 ≤ x.t + sh
    then some (t.toNat, { pts := r.1, t := x.t + sh, sat := r.2.1, nx := r.2.2 }) else none
  | .bfCmul, [d, a, b, m] =>
    let x := s.tileIn j p a.toNat
    let y := s.tileIn j p b.toNat
    let acc := (x.pts.zip y.pts).map (fun z => Cpx.mul z.1 (if m.getLsbD 4 then (z.2.1, -z.2.2) else z.2))
    let r := roundPoints acc (32 + bits m 3 0)
    let e := x.t + y.t + 32 + bits m 3 0
    if d.toNat < 8 ∧ a.toNat < 8 ∧ b.toNat < 8 ∧ m.toNat < 32 ∧ -32768 ≤ e ∧ e ≤ 32767
    then some (d.toNat, { pts := r.1, t := e, sat := r.2.1, nx := r.2.2 }) else none
  | .bfLoad, [t, a, q, f] =>
    match pointFmt (bits f 2 0) with
    | none => none
    | some (e, w, c) =>
      if j.ph = .active ∧ moveOk t.toNat a q.toNat f.toNat = true ∧ bits f 15 7 = 0 ∧ bits f 63 32 = 0 ∧ spanBad a.toNat q.toNat (planLen p) (w * c) = false then
        match (List.range (planLen p)).mapM (fun i => s.eRead j ((a.toNat + pointIdx p (f.getLsbD 3) i * q.toNat : Nat) : Int) (w * c)) with
        | .error _ => none
        | .ok bs => (loadTile f.toNat (bs.map (fun b => (e.val (ofBytes (b.take w)), if c = 2 then e.val (ofBytes (b.drop w)) else .fin false 0 0)))).map
            (fun x => (t.toNat, x))
      else none
  | _, _ => none

/-- The copy that a launch word names: the source, or the value filled, the destination, the element size and the index
list (R330). -/
def copyRule : Instr → List Word → Option CpArgs
  | .cpGo, [a, b, e] => some { kind := .go, src := a.toNat, dst := b.toNat, esz := e.toNat }
  | .cpFill, [b, v, e] => some { kind := .fill, src := v.toNat, dst := b.toNat, esz := e.toNat }
  | .cpGath, [a, b, e, x] => some { kind := .gath, src := a.toNat, dst := b.toNat, esz := e.toNat, idx := x.toNat }
  | .cpScat, [a, b, e, x] => some { kind := .scat, src := a.toNat, dst := b.toNat, esz := e.toNat, idx := x.toNat }
  | _, _ => none

/-- A launch has begun (R215, R218, R272): its claims are asked for, its locks held, and nothing else has changed. -/
def State.begun (s : State) (j : Job) (want : List ClaimKey) (locks : List (Nat × Nat × Nat)) : State :=
  { s.putJob { j with want := want, locks := locks, since := s.nextId, ph := if want = [] then .active else .claiming }
    with nextId := s.nextId + 1 }

/-! ### A step of a core and of an engine (R20, R33, R107, R120, R257) -/

/-- The slot of core n that is tried first (R120). -/
def State.turnOf (s : State) (n : Nat) : Nat := (s.coreAt n).ptr % 4

/-- The slot of core n whose turn it is, about to be tried: it no longer stalls, and no group is begun (R120). -/
def State.turned (u : State) (n : Nat) (late : Bool) : State :=
  { u.modSlot n (u.turnOf n) (fun x => { x with stalled := false, waitAt := none }) with core := n, slot := u.turnOf n, job := 0, late := late, grp := {} }

/-- Core n can issue from the slot whose turn it is: the package runs, the slot holds a thread that waits for nothing and is
not stopped, no trap is due, its quantum has begun where it runs in an ordered launch, and the fetch of its group gives these
syllables (R33, R107, R120, R222). -/
structure Issues (u : State) (n : Nat) (late : Bool) (ws : List Syll) (tl : List TlbEntry) (ls : List (Nat × Syll)) (ends : Bool) : Prop where
  powered : u.halted = false
  runs : (u.slotAt n (u.turnOf n)).runnable = true
  going : u.thStopped n (u.thAt n (u.turnOf n)) = false
  onTime : (u.thAt n (u.turnOf n)).sys = true ∨ (u.thAt n (u.turnOf n)).deadline = none
  noTrap : (u.thAt n (u.turnOf n)).trapNext = none
  inRound : (u.turned n late).outOfRound (u.thAt n (u.turnOf n)) = false
  fetch : (u.turned n late).fetchGroup (hedgeOf n) (u.thAt n (u.turnOf n)).ctx (u.thAt n (u.turnOf n)).sys 4 (u.thAt n (u.turnOf n)).pc [] [] []
    = .ok ws tl ls ends

/-- The state in which the syllables of a fetched group are performed: the slot is the one whose turn it is, the translations
and code lines used are kept (R186, R204), and m syllables follow the first. -/
def State.fetched (u : State) (n : Nat) (late : Bool) (tl : List TlbEntry) (ls : List (Nat × Syll)) (m : Nat) : State :=
  { (u.turned n late).keepFetch (hedgeOf n) tl ls with grp := { left := m } }

/-- What a step of core n leaves of the outcome of the group that it tried first: where the group has issued, the cycle ends
and the next slot has the next turn (R120). -/
def State.cycled (u : State) (n : Nat) (o : Host.Outcome State Fault Refusal) : Host.Outcome State Fault Refusal :=
  match o with
  | .next t => .next (t.cycleDone n ((u.turnOf n + 1) % 4))
  | e => e

end Sys2Proof.Machine
end

