-- ==== Sys2Proof/Certificates/Slice0/Obligations.lean ====
section
/-! DEFINITION. The statements for the provers. -/

open Sys2Proof Sys2Proof.Machine

/-! ### Scalar instructions -/

/-- Each register-to-register, select, immediate, shift, long-immediate, bit, address, field and counter instruction,
alone in its group, completes: the destination holds the value of its rule (a port destination appends it, w0 discards
it), the ports read are popped, the prefix falls back, the PC advances by 4, and nothing else changes (R59-R71). -/
def Sys2Proof.Clauses.ScalarResults : Prop :=
  ∀ (s : State) (i : Instr) (src : List Reg) (d : Reg) (v : Word), Alone s → i.wf = true →
    scalarRule s i = some (src, d, v) → s.fed src →
    Leaves (exec i s) (Retires s { pops := portsOf src, reg := some (d, v), warn := fallAll s.curPfx })

/-- A general register that an instruction of the scalar rules writes reads as the value afterwards, w0 still reads as
zero, and every other general register and every vector register reads as before (R13, R59). -/
def Sys2Proof.Clauses.ScalarRegisterFile : Prop :=
  ∀ (s t : State) (i : Instr) (src : List Reg) (d : Reg) (v : Word), Alone s → i.wf = true →
    scalarRule s i = some (src, d, v) → s.fed src → exec i s = .next t →
    (∀ r : Reg, r.toNat < 28 → t.val r = if r = 0 then 0 else if r = d then v else s.val r)
      ∧ ∀ r : Reg, r.toNat < 8 → t.vval r = s.vval r

/-- R63 whole: division never traps. div, divu, rem and remu, each alone in its group, complete for every pair of operands with
the quotient or the remainder: rounded toward zero, the remainder with the sign of the dividend; a zero divisor gives all ones
and the dividend, the most negative number over −1 gives itself and 0; no flag or warning bit records it.
Completes: div, divu, rem, remu. -/
def Obligations.DivisionLaw : Prop :=
  (∀ (s : State) (d a b : Reg), Alone s → (Instr.div d a b).wf = true → s.fed [a, b] →
    let e := fun (v : Word) => ({ pops := portsOf [a, b], reg := some (d, v), warn := fallAll s.curPfx } : Result)
    Leaves (exec (.div d a b) s) (Retires s (e (quotient true (s.val a) (s.val b))))
      ∧ Leaves (exec (.divu d a b) s) (Retires s (e (quotient false (s.val a) (s.val b))))
      ∧ Leaves (exec (.rem d a b) s) (Retires s (e (remainder true (s.val a) (s.val b))))
      ∧ Leaves (exec (.remu d a b) s) (Retires s (e (remainder false (s.val a) (s.val b)))))
  ∧ ∀ a b : Word,
    (b ≠ 0 → (quotient false a b).toNat * b.toNat + (remainder false a b).toNat = a.toNat
        ∧ (remainder false a b).toNat < b.toNat)
      ∧ (b ≠ 0 → ¬(a = BitVec.intMin 64 ∧ b = -1) →
        (quotient true a b).toInt * b.toInt + (remainder true a b).toInt = a.toInt
          ∧ (remainder true a b).toInt.natAbs < b.toInt.natAbs
          ∧ ((remainder true a b).toInt = 0 ∨ ((remainder true a b).toInt < 0 ↔ a.toInt < 0)))
      ∧ (quotient true (BitVec.intMin 64) (-1) = BitVec.intMin 64 ∧ remainder true (BitVec.intMin 64) (-1) = 0)
      ∧ (quotient true a 0 = BitVec.allOnes 64 ∧ quotient false a 0 = BitVec.allOnes 64
        ∧ remainder true a 0 = a ∧ remainder false a 0 = a)

/-- The bit operations of R68 and R71, bit by bit: clz and ctz find the highest and lowest one bit and give 64 for
zero, popc counts, bswap mirrors the bytes, bext and bins move a field. -/
def Sys2Proof.Clauses.BitOperations : Prop :=
  ∀ x y : Word,
    (x = 0 → clzOf x = 64 ∧ ctzFrom x 0 64 = 64)
      ∧ (x ≠ 0 → clzOf x < 64 ∧ x.getLsbD (63 - clzOf x) = true ∧ (∀ i, 63 - clzOf x < i → x.getLsbD i = false)
        ∧ x.getLsbD (ctzFrom x 0 64) = true ∧ ∀ i, i < ctzFrom x 0 64 → x.getLsbD i = false)
      ∧ popOf x 64 = ((List.range 64).filter (fun i => x.getLsbD i)).length
      ∧ (∀ i, i < 64 → (bswapOf x).getLsbD i = x.getLsbD (8 * (7 - i / 8) + i % 8))
      ∧ ∀ pos len : Nat, pos + len < 64 → ∀ i, i < 64 →
        (bextOf x pos len).getLsbD i = (decide (i ≤ len) && x.getLsbD (pos + i))
          ∧ (binsOf y x pos len).getLsbD i = if pos ≤ i ∧ i ≤ pos + len then x.getLsbD (i - pos) else y.getLsbD i

/-! ### Branches -/

/-- Each branch and jump, alone in its group, completes: a taken one whose target is canonical and aligned sets the PC
to it, one not taken goes on at the next syllable, jal and jalr write the address after themselves, and a pending prefix
is discarded with its warning (R37, R60, R72-R75). -/
def Sys2Proof.Clauses.BranchResults : Prop :=
  ∀ (s : State) (i : Instr) (src : List Reg) (link : Option (Reg × Word)) (tgt : Option Int), Alone s → i.wf = true →
    branchRule s i = some (src, link, tgt) → s.fed src → (∀ t ∈ tgt, targetOk t) →
    Leaves (exec i s) (Retires s { pops := portsOf src, reg := link, warn := fallControl s.curPfx,
                                   next := tgt.map (BitVec.ofInt 64) })

/-- A taken branch or jump whose target is not canonical takes the address trap, one whose target is not aligned the
align trap, with the target as the trap address, and no syllable of its group takes effect (R75, R350). -/
def Sys2Proof.Clauses.BranchTraps : Prop :=
  ∀ (s : State) (i : Instr) (src : List Reg) (link : Option (Reg × Word)) (t : Int), Alone s → i.wf = true →
    branchRule s i = some (src, link, some t) → s.fed src → ¬targetOk t →
    exec i s = .next (s.takeTrap s.core s.slot
      { code := if 0 ≤ t ∧ t < 2 ^ 64 ∧ canonical (BitVec.ofInt 64 t) = true then 5 else 4, addr := BitVec.ofInt 64 t } s.th.pc s.th.sw)

/-- btag jumps to the table address plus four times the tag of the header that the slot would read next; the message is
claimed for the slot and no word is popped (R141). -/
def Sys2Proof.Clauses.BtagResult : Prop :=
  ∀ (s : State) (p : BitVec 1) (a : Reg) (m : RxMsg), Alone s → s.fed [a] →
    s.cor.portMsg s.th s.slot p.toNat = some m →
    targetOk ((s.val a).toNat + 4 * (bits m.hdr 42 37 : Int)) →
    RetiresThen s { pops := portsOf [a], warn := fallControl s.curPfx,
                    next := some (BitVec.ofInt 64 ((s.val a).toNat + 4 * (bits m.hdr 42 37 : Int))) }
      (fun u => u.modCore s.core (fun c => c.setRx p.toNat (rxClaim (c.rx p.toNat) m.id s.slot)))
      (exec (.btag p a) s)

/-! ### Local loads and stores -/

/-- ldl and vldl from an address in range, aligned and not claimed by a job, complete: the destination holds the bytes as
R14 lets a load see them, extended by the func (R76, R87). -/
def Sys2Proof.Clauses.LocalLoads : Prop :=
  ∀ s : State, Alone s → s.th.buf = [] →
    (∀ (f : BitVec 3) (d a : Reg) (off : BitVec 12), (Instr.ldl f d a off).wf = true → s.fed [a] →
      let ea := effAddr (s.val a) off 1
      let n := (loadForm f).1
      localOkAt ea n n → s.claimedL s.core ea.toNat n = false →
      Leaves (exec (.ldl f d a off) s) (Retires s
        { pops := portsOf [a], warn := fallAll s.curPfx
          reg := some (d, extended n (loadForm f).2 (leNum s.seen ea.toNat n)) }))
    ∧ ∀ (d a : Reg) (k : BitVec 6), (Instr.vldl d a k).wf = true → s.fed [a] →
      let ea := effAddr (s.val a) k 64
      localOkAt ea 64 64 → s.claimedL s.core ea.toNat 64 = false →
      Leaves (exec (.vldl d a k) s) (Retires s
        { pops := portsOf [a], warn := (s.lanes specNone).warn
          vec := some (d, BitVec.ofNat 512 (leNum s.seen ea.toNat 64)) })

/-- stl and vstl to an address in range, aligned, not claimed or locked by a job and not refused by R14 complete: exactly
the bytes of the access are written, little-endian, but for those that R14 ignores (R14, R76, R77, R87). -/
def Sys2Proof.Clauses.LocalStores : Prop :=
  ∀ s : State, Alone s → s.chains = [] →
    (∀ (f : BitVec 3) (d a : Reg) (off : BitVec 12), (Instr.stl f d a off).wf = true → s.fed [a, d] →
      let ea := effAddr (s.val a) off 1
      let n := 2 ^ f.toNat
      localOkAt ea n n → s.lockedL s.core ea.toNat n = false → s.storable ea.toNat n →
      Leaves (exec (.stl f d a off) s) (Retires s
        { pops := portsOf [a, d], warn := fallAll s.curPfx
          stores := [(ea.toNat, toBytes n (s.val d).toNat)] }))
    ∧ ∀ (d a : Reg) (k : BitVec 6), (Instr.vstl d a k).wf = true → s.fed [a] →
      let ea := effAddr (s.val a) k 64
      localOkAt ea 64 64 → s.lockedL s.core ea.toNat 64 = false → s.storable ea.toNat 64 →
      Leaves (exec (.vstl d a k) s) (Retires s
        { pops := portsOf [a], warn := (s.lanes specNone).warn
          stores := [(ea.toNat, toBytes 64 (s.vval d).toNat)] })

/-- A local access outside the 131,072 bytes takes the address trap and a misaligned one in range the align trap, with
the kind of access and the effective address recorded; nothing is loaded or stored (R76, R87, R349). -/
def Sys2Proof.Clauses.LocalTraps : Prop :=
  ∀ s : State, Alone s → ∀ (i : Instr) (ea : Int) (n acc : Nat), i.wf = true →
    (∃ (f : BitVec 3) (d a : Reg) (off : BitVec 12), (s.fed [a] ∧ i = .ldl f d a off ∧ ea = effAddr (s.val a) off 1 ∧ n = (loadForm f).1 ∧ acc = 1)
      ∨ (s.fed [a, d] ∧ i = .stl f d a off ∧ ea = effAddr (s.val a) off 1 ∧ n = 2 ^ f.toNat ∧ acc = 2))
    ∨ (∃ (d a : Reg) (k : BitVec 6), s.fed [a] ∧ ea = effAddr (s.val a) k 64 ∧ n = 64
      ∧ ((i = .vldl d a k ∧ acc = 1) ∨ (i = .vstl d a k ∧ acc = 2))) →
    ¬localOkAt ea n n →
    exec i s = .next (s.takeTrap s.core s.slot
      { code := if 0 ≤ ea ∧ ea + n ≤ 131072 then 5 else 4, acc := acc, addr := BitVec.ofInt 64 ea } s.th.pc s.th.sw)

/-! ### The prefix and the control registers -/

/-- A legal pfx alone in its group leaves its value pending in SW for the next syllable and discards an earlier one with
its warning (R36, R37, R78). -/
def Sys2Proof.Clauses.PrefixPends : Prop :=
  ∀ (s : State) (v : BitVec 24), Alone s → (Instr.pfx v).wf = true →
    Leaves (exec (.pfx v) s) (fun t => Retires s { warn := fallPfx s.curPfx, pfx := some v } t
      ∧ swPp (t.thAt s.core s.slot).sw = true ∧ swPfx (t.thAt s.core s.slot).sw = v)


/-- csrr of a register that the mode may read completes: the destination holds the register (R79-R82). -/
def Sys2Proof.Clauses.CsrReadResult : Prop :=
  ∀ (s : State) (d : Reg) (n : BitVec 10), Alone s → (Instr.csrr d n).wf = true →
    (s.th.sys = true ∨ csrUserRead n.toNat = true) →
    Leaves (exec (.csrr d n) s)
      (Retires s { reg := some (d, s.csrRead s.core s.slot n.toNat), warn := fallAll s.curPfx })

/-- csrw, csrs and csrc complete. Of a register that holds what is written, in system mode: the register reads as the
written value under its mask, the destination holds the old value, and device memory, host memory, the network, every
other core and every byte of the own local memory outside the destination are unchanged. Of SW, in either mode: the writable
fields take the value, a fallback of the prefix raises its warning after that, and the prefix is spent. Of WP and SWP, in
system mode: the index takes its field. Of any other register, in system mode: what the register's own write does (R17, R18,
R36, R79-R82). A register whose write must wait leaves the group stalled. -/
def Sys2Proof.Clauses.CsrWriteResults : Prop :=
  ∀ (s : State) (i : Instr) (d a : Reg) (n : BitVec 10) (v : Word), Alone s → i.wf = true →
    csrWriteRule s i = some (d, n, a, v) → s.fed [a] →
    let old := s.csrRead s.core s.slot n.toNat
    let gets := fun (t : State) => (∀ x, t.localByte s.core x = ({ reg := some (d, old) } : Result).byte s x)
      ∧ (t.thAt s.core s.slot).pc = s.th.pc + 4
    (∀ m : Word, s.th.sys = true → csrHolds n.toNat = some m → s.csrBusy n.toNat = false →
      Leaves (exec i s) (fun t => t.csrRead s.core s.slot n.toNat = v &&& m ∧ gets t
        ∧ t.hbm = s.hbm ∧ t.hostMem = s.hostMem ∧ t.net = s.net ∧ ∀ c, c ≠ s.core → t.coreAt c = s.coreAt c))
    ∧ (n = 0 → Leaves (exec i s) (fun t => gets t ∧ t.hbm = s.hbm ∧ t.hostMem = s.hostMem ∧ t.net = s.net
        ∧ ∀ b, b < 64 → (t.thAt s.core s.slot).sw.getLsbD b = (
          if b < 3 then (if bits v 2 0 ≤ 4 then v.getLsbD b else s.th.sw.getLsbD b)
          else if 8 ≤ b ∧ b < 12 then v.getLsbD b
          else if 16 ≤ b ∧ b < 29 then (v.getLsbD b || (fallAll s.curPfx).getLsbD (b - 16))
          else if 36 ≤ b ∧ b ≤ 60 then false else s.th.sw.getLsbD b)))
    ∧ (n = 1 → s.th.sys = true → Leaves (exec i s) (fun t => gets t ∧ (t.thAt s.core s.slot).wp = bits v 16 10
        ∧ (t.slotAt s.core s.slot).swp = (s.slotAt s.core s.slot).swp))
    ∧ (n = 2 → s.th.sys = true → Leaves (exec i s) (fun t => gets t ∧ (t.slotAt s.core s.slot).swp = bits v 16 10
        ∧ (t.thAt s.core s.slot).wp = s.th.wp))
    ∧ (3 ≤ n.toNat → s.th.sys = true → csrKnown n.toNat = true →
      (s.csrBusy n.toNat = true → exec i s = .next (s.stallAt s.core s.slot))
      ∧ (s.csrBusy n.toNat = false → a.toNat < 28 → s.slot < 4 →
        ∀ r : State, exec (.registerWrite (4 * s.core + s.slot) n v) s = .next r →
          Leaves (exec i s) (fun t => t.csrRead s.core s.slot n.toNat = r.csrRead s.core s.slot n.toNat ∧ t.pkg = r.pkg
            ∧ t.hedges = r.hedges ∧ t.dies = r.dies ∧ (t.thAt s.core s.slot).pc = s.th.pc + 4)))

/-- A CSR instruction that the mode does not allow takes the privilege trap at its own address and writes nothing
(R33, R79-R81). -/
def Sys2Proof.Clauses.CsrPrivilege : Prop :=
  ∀ (s : State) (i : Instr) (d : Reg) (n : BitVec 10), Alone s → i.wf = true → s.th.sys = false →
    ((i = .csrr d n ∧ csrUserRead n.toNat = false)
      ∨ ∃ a, s.fed [a] ∧ n ≠ 0 ∧ (i = .csrw d n a ∨ i = .csrs d n a ∨ i = .csrc d n a)) →
    exec i s = .next (s.takeTrap s.core s.slot { code := 3, addr := s.th.pc } s.th.pc s.th.sw)

/-- A register write of a unit that need not wait completes: a register that holds what is written reads back under its mask
and no memory changes; SW takes its writable fields, WP, SWP and the counts in the upper halves of the queue registers their own
field; ORDCFG takes a quantum length in range; a read-only register stays; the registers with behaviour of their own act as
their own writes do. One that must wait changes nothing (R17, R18, R80-R82, R187, R220, R371, R423, R425). -/
def Sys2Proof.Clauses.RegisterWriteResult : Prop :=
  ∀ (s : State) (u : Nat) (n : BitVec 10) (v : Word), (Instr.registerWrite u n v).wf = true →
    let go := exec (.registerWrite u n v) s
    let now := fun (t : State) => t.csrRead (u / 4) (u % 4) n.toNat
    let kept := fun (t : State) => t.hbm = s.hbm ∧ t.hostMem = s.hostMem ∧ t.net = s.net ∧ ∀ c x, t.localByte c x = s.localByte c x
    let takes := fun (h l : Nat) => Leaves go (fun t => bits (now t) h l = bits v h l ∧ kept t)
    (s.csrBusy n.toNat = true → go = .next s)
    ∧ (s.csrBusy n.toNat = false → ∀ m, csrHolds n.toNat = some m → Leaves go (fun t => now t = v &&& m ∧ kept t))
    ∧ (n = 0 → Leaves go (fun t => kept t ∧ ∀ i, i < 64 → (now t).getLsbD i = (
        if i < 3 then (if bits v 2 0 ≤ 4 then v.getLsbD i else (now s).getLsbD i)
        else if (8 ≤ i ∧ i < 12) ∨ (16 ≤ i ∧ i < 29) then v.getLsbD i else (now s).getLsbD i)))
    ∧ ((n = 1 ∨ n = 2) → takes 16 10)
    ∧ ((n = 0x110 ∨ n = 0x111 ∨ n = 0x112 ∨ n = 0x180) → takes 63 32)
    ∧ (n = 0x20D → Leaves go (fun t => kept t
        ∧ bits (now t) 4 0 = (if 8 ≤ bits v 4 0 ∧ bits v 4 0 ≤ 16 then bits v 4 0 else s.pkg.lgq)))
    ∧ (n = 0x20E → v.getLsbD 63 = true →
        go = .next (s.modPkg (fun p => { p with startReq := some (v.getLsbD 62, v.getLsbD 62 && v.getLsbD 61) })))
    ∧ (n = 0x20E → v.getLsbD 63 = false → go = .next s)
    ∧ ((0x240 ≤ n.toNat ∧ n.toNat < 0x2C0) → Leaves go (fun t => bits (now t) 31 0 = bits v 31 0
        ∧ (now t).getLsbD 63 = ((now s).getLsbD 63 && v.getLsbD 63) ∧ (v.getLsbD 63 = true → kept t)))
    ∧ ((n = 0x21 ∨ n = 0x25 ∨ n = 0x116 ∨ n = 0x184 ∨ n = 0x201 ∨ n = 0x204 ∨ n = 0x207 ∨ (0x230 ≤ n.toNat ∧ n.toNat < 0x238)
        ∨ 0x2C8 ≤ n.toNat) → go = .next s)
    ∧ (n = 0x28 → go = exec (.sccfgWrite (u / 4) v) s) ∧ (n = 0x29 → go = exec (.mbcfgWrite (u / 4) v) s)
    ∧ (n = 0x200 → go = exec (.calcfgWrite v) s) ∧ (n = 0x20B → go = exec (.llcpartWrite v) s)
    ∧ ((0x220 ≤ n.toNat ∧ n.toNat < 0x230) → go = exec (.optportWrite (n.toNat - 0x220) v) s)
    ∧ (n = 0x20A → s.pkg.sdctl.getLsbD 63 = false → ¬(bits v 62 59 = 3) → takes 63 58)
    ∧ (n = 0x212 → s.pkg.prectl.getLsbD 63 = false → bits v 62 61 ≠ 3 → takes 63 60)
    ∧ (n = 0x217 → s.pkg.svcctl.getLsbD 63 = false → bits v 62 60 < 6 → takes 63 60)
    ∧ (n = 0x2C4 → v.getLsbD 63 = true → Leaves go (fun t => t.pkg.attbusy = true ∧ kept t))

/-! ### Vector instructions -/

/-- Each lane-by-lane arithmetic, logic-shift, comparison and approximation instruction, alone in its group, completes:
every lane of vD holds its rule's value, the flags of all lanes are raised, and nothing else changes (R83-R97).
It rests on the model's choices and readings of log 29.
Completes: vaddF, vsubF, vmulF, vfmaF, vminF, vmaxF, vabsF, vnegF, vaddI, vsubI, vmulI, vminI, vmaxI, vshl, vshr,
vsar, vcmpF, vrcp, vrsqrt, vexp2, vlog2. -/
def Obligations.VectorLaneResults : Prop :=
  ∀ (s : State) (i : Instr) (x : LaneSpec) (d a b : Reg) (f : Lanes → Nat → Nat → Nat → Nat → Nat × Flags), Alone s →
    i.wf = true → laneRule s i = some (x, d, a, b, f) →
    let l := s.lanes x
    let r := fun j => f l j (lane (s.vval a) l.w j) (lane (s.vval b) l.w j) (lane (s.vval d) l.w j)
    Leaves (exec i s) (fun t => ∃ v : Vec,
      Retires s { vec := some (d, v), warn := l.warn, fl := joinFlags ((List.range (512 / l.w)).map (fun j => (r j).2)) } t
        ∧ ∀ j, j < 512 / l.w → lane v l.w j = (r j).1 % 2 ^ l.w)

/-- vmov, vand, vor, vxor and vsel, alone in the group, complete: vD holds the 512-bit result, whatever the prefix, and
nothing else changes (R88, R92, R94). -/
def Sys2Proof.Clauses.VectorWholeResults : Prop :=
  ∀ (s : State) (i : Instr) (d : Reg) (v : Vec), Alone s → i.wf = true → wholeRule s i = some (d, v) →
    Leaves (exec i s) (Retires s { vec := some (d, v), warn := (s.lanes specNone).warn })

/-- vbcast, vins, vperm and vcompact, alone in the group, complete: every lane of vD is the one their rule moves there,
and nothing else changes (R88, R101, R103). -/
def Sys2Proof.Clauses.VectorMoveResults : Prop :=
  ∀ (s : State) (i : Instr) (src : List Reg) (d : Reg) (f : Lanes → Nat → Nat), Alone s → i.wf = true →
    moveRule s i = some (src, d, f) → s.fed src →
    let l := s.lanes specMove
    Leaves (exec i s) (fun t => ∃ v : Vec, Retires s { pops := portsOf src, vec := some (d, v), warn := l.warn } t
      ∧ ∀ j, j < 512 / l.w → lane v l.w j = f l j)

/-- vext, alone in its group, completes: the destination holds lane B mod n of vA, zero-extended, sign-extended beside a
named signed integer format (R88). -/
def Sys2Proof.Clauses.VectorExtractResult : Prop :=
  ∀ (s : State) (d a b : Reg), Alone s → (Instr.vext d a b).wf = true → s.fed [b] →
    let l := s.lanes specMove
    let x := BitVec.ofNat l.w (lane (s.vval a) l.w ((s.val b).toNat % (512 / l.w)))
    Leaves (exec (.vext d a b) s) (Retires s
      { pops := portsOf [b], warn := l.warn
        reg := some (d, if l.named && intCode l.fa && !l.uns then x.signExtend 64 else x.zeroExtend 64) })

/-- vcvt of a legal part, alone in its group, completes: going down, the part's lanes of vD hold the converted lanes of
vA and the others keep theirs; going up, every lane holds the converted lane of the part (R95).
It rests on the model's choices and readings of log 30.
Completes: vcvt. -/
def Obligations.VectorConvertResult : Prop :=
  ∀ (s : State) (d a : Reg) (part : BitVec 5), Alone s → (Instr.vcvt d a part).wf = true →
    let l := s.lanes specCvt
    let ta := eltOf l.fa l.uns
    let td := eltOf l.fd l.uns
    let n := 512 / max ta.w td.w
    let base := part.toNat * n
    let conv := fun j i => td.conv (s.rnd l (cvtSat l) j) (ta.val (lane (s.vval a) ta.w i))
    part.toNat < cvtRatio l →
    Leaves (exec (.vcvt d a part) s) (fun t => ∃ (v : Vec) (fl : Flags),
      Retires s { vec := some (d, v), warn := l.warn, fl := fl } t
        ∧ ∀ j, j < 512 / td.w → lane v td.w j =
          if td.w ≤ ta.w then (if base ≤ j ∧ j < base + n then (conv j (j - base)).1 % 2 ^ td.w else lane (s.vval d) td.w j)
          else (conv j (base + j)).1 % 2 ^ td.w)

/-- vred.max, vred.min, vargmax and vargmin, alone in the group, complete: the scalar destination holds the value, or the
index, of the lane that the order of R58 selects, the lowest index among equals, and nothing else changes (R98, R100). -/
def Sys2Proof.Clauses.VectorSelections : Prop :=
  ∀ (s : State) (d a : Reg), Alone s → (Instr.vredMax d a).wf = true →
    let l := s.lanes specRank
    ∀ max : Bool,
      Leaves (exec (if max then .vredMax d a else .vredMin d a) s) (fun t => ∃ p, Selects l max (s.vval a) p
        ∧ Retires s { reg := some (d, laneScalar l (lane (s.vval a) l.w p)), warn := l.warn } t)
      ∧ Leaves (exec (if max then .vargmax d a else .vargmin d a) s) (fun t => ∃ p, Selects l max (s.vval a) p
        ∧ Retires s { reg := some (d, BitVec.ofNat 64 p), warn := l.warn } t)

/-- vred.add and vscan.add, alone in the group, complete: the exact sum of the lanes, or of the lanes up to each lane, is
rounded once, with the flags of the additions and roundings (R98, R99). -/
def Sys2Proof.Clauses.VectorSums : Prop :=
  ∀ (s : State) (d a : Reg), Alone s →
    let l := s.lanes specRed
    let n := 512 / l.w
    ((Instr.vredAdd d a).wf = true →
      Leaves (exec (.vredAdd d a) s) (Retires s
        { reg := some (d, scalarOf l.elt (sumUpTo s l (s.vval a) n 0).1), warn := l.warn, fl := (sumUpTo s l (s.vval a) n 0).2 }))
    ∧ ((Instr.vscanAdd d a).wf = true →
      Leaves (exec (.vscanAdd d a) s) (fun t => ∃ v : Vec,
        Retires s { vec := some (d, v), warn := l.warn, fl := joinFlags ((List.range n).map (fun j => (sumUpTo s l (s.vval a) (j + 1) j).2)) } t
          ∧ ∀ j, j < n → lane v l.w j = (sumUpTo s l (s.vval a) (j + 1) j).1 % 2 ^ l.w))

/-- vsort, alone in its group, completes: the lanes of vD ascend in the order of R58 and are the lanes of vA, each as
often, with NaNs canonical; vtopk leaves the 8 entries of highest key among the 16, in descending order (R100, R102). -/
def Sys2Proof.Clauses.VectorSorting : Prop :=
  ∀ (s : State) (d a b : Reg), Alone s →
    ((Instr.vsort d a).wf = true →
      let l := s.lanes specRank
      Leaves (exec (.vsort d a) s) (fun t => ∃ v : Vec, Retires s { vec := some (d, v), warn := l.warn } t
        ∧ (∀ i j, i < j → j < 512 / l.w → l.elt.rank (lane v l.w i) ≤ l.elt.rank (lane v l.w j))
        ∧ ((lanes v l.w).Perm ((lanes (s.vval a) l.w).map (canonLane l.elt)))))
    ∧ ((Instr.vtopk d a b).wf = true →
      let l := s.lanes specTopk
      let key := fun (e : Nat) => l.elt.rank (e / 2 ^ 32)
      Leaves (exec (.vtopk d a b) s) (fun t => ∃ (v : Vec) (kept rest : List Nat), Retires s { vec := some (d, v), warn := l.warn } t
        ∧ (kept ++ rest).Perm (lanes (s.vval a) 64 ++ lanes (s.vval b) 64) ∧ kept.length = 8
        ∧ kept.Pairwise (fun x y => key y < key x ∨ (key y = key x ∧ x % 2 ^ 32 ≤ y % 2 ^ 32))
        ∧ (∀ x ∈ kept, ∀ y ∈ rest, key y < key x ∨ (key y = key x ∧ x % 2 ^ 32 ≤ y % 2 ^ 32))
        ∧ lanes v 64 = kept.map (fun e => canonLane l.elt (e / 2 ^ 32) * 2 ^ 32 + e % 2 ^ 32)))

/-- vrevd, alone in its group, completes: every lane of vA stands at its digit-reversed index in vD (R103). -/
def Sys2Proof.Clauses.VectorDigitReversal : Prop :=
  ∀ (s : State) (d a b : Reg), Alone s → (Instr.vrevd d a b).wf = true → s.fed [b] →
    let l := s.lanes specMove
    let lg := Nat.log2 (512 / l.w)
    let ws := digitWidths lg ((List.range (bits (s.val b) 2 0)).map (fun j => bits (s.val b) (3 * j + 5) (3 * j + 3))) 0
    Leaves (exec (.vrevd d a b) s) (fun t => ∃ v : Vec, Retires s { pops := portsOf [b], vec := some (d, v), warn := l.warn } t
      ∧ ∀ j, j < 512 / l.w → lane v l.w (digitRev ws lg j) = lane (s.vval a) l.w j)

/-! ### Long accumulators -/

/-- awclr, awin, awinm, vawin and awadd on accumulators in range and aligned, neither claimed, locked nor refused, complete:
the 80 bytes hold the new accumulator, but for bytes that R14 ignores, and the flags are raised (R104-R106). -/
def Sys2Proof.Clauses.AccumulatorUpdates : Prop :=
  ∀ (s : State) (i : Instr) (src : List Reg) (w : BitVec 16) (x : Nat) (r : LaVal × Flags) (y : Option Nat), Alone s →
    i.wf = true → s.th.buf = [] → s.chains = [] → laRule s i = some (src, w, x, r, y) → s.fed src →
    localOkAt x 80 16 → s.storable x 80 → s.lockedL s.core x 80 = false →
    (∀ z ∈ y, localOkAt z 80 16 ∧ s.claimedL s.core z 80 = false) →
    Leaves (exec i s) (Retires s { pops := portsOf src, warn := w, fl := r.2, stores := [(x, toBytes 80 (laEncode r.1).toNat)] })

/-- awrd, alone in its group, completes: the destination holds the accumulator rounded once to fd (R56, R105). -/
def Sys2Proof.Clauses.AccumulatorRead : Prop :=
  ∀ (s : State) (d a : Reg), Alone s → (Instr.awrd d a).wf = true → s.th.buf = [] → s.fed [a] →
    let x := (s.val a).toNat
    let l := s.lanes specAwrd
    let r := laRound (laDecode (s.laAt x)) (eltOf l.fd l.uns) (s.rnd l (cvtSat l) 0)
    localOkAt x 80 16 → s.lockedL s.core x 80 = false →
    Leaves (exec (.awrd d a) s) (Retires s
      { pops := portsOf [a], reg := some (d, scalarOf (eltOf l.fd l.uns) r.1), warn := l.warn, fl := r.2 })

/-! ### Global, coordinate and atomic accesses -/

/-- ldg, vldg, ldr and waitw that pass their checks send one request to the home of the address and hold the group until
the reply, with the destination it will write; nothing else changes (R152, R162, R191, R193-R195). -/
def Sys2Proof.Clauses.LoadsRequest : Prop :=
  ∀ (s : State) (d a b : Reg) (o : BitVec 1) (off : BitVec 11) (p : Place) (tl : List TlbEntry), Alone s → s.fed [a] →
    let ea := globalAddr (s.val a) off
    (∀ f : BitVec 3, (Instr.ldg f o d a off).wf = true → s.global ea (loadForm f).1 1 = .ok p tl →
      Leaves (exec (.ldg f o d a off) s) (Requests s (portsOf [a]) (fallAll s.curPfx)
        (s.packet p (BitVec.ofInt 64 ea) (.load (loadForm f).1)) (loadDst f d) tl))
    ∧ ((Instr.vldg o d a off).wf = true → s.global ea 64 1 = .ok p tl →
      Leaves (exec (.vldg o d a off) s) (Requests s (portsOf [a]) (fallAll s.curPfx)
        (s.packet p (BitVec.ofInt 64 ea) (.load 64)) (.vec d.toNat) tl))
    ∧ (∀ f : BitVec 2, (Instr.ldr f d a off).wf = true → s.coord (s.val a) off (2 ^ f.toNat) 1 = .ok p tl →
      Leaves (exec (.ldr f d a off) s) (Requests s (portsOf [a]) (fallAll s.curPfx)
        (s.packet p (s.val a + off.signExtend 64) (.load (2 ^ f.toNat))) (.reg d.toNat (8 * 2 ^ f.toNat) false) tl))
    ∧ ((Instr.waitw d a b).wf = true → s.fed [b] → s.global (s.val a).toNat 8 1 = .ok p tl →
      Leaves (exec (.waitw d a b) s) (Requests s (portsOf [a, b]) (fallAll s.curPfx)
        (s.packet p (s.val a) (.waitw (s.val b))) (.reg d.toNat 64 false) tl))

/-- stg, vstg and str that pass their checks complete: the store leaves for its home with exactly the bytes and mask of
the access, counted on sc0, and nothing else changes (R124, R191, R192, R194, R195). -/
def Sys2Proof.Clauses.StoresPost : Prop :=
  ∀ (s : State) (d a : Reg) (o : BitVec 1) (off : BitVec 11) (p : Place) (tl : List TlbEntry), Alone s → s.scFull 0 = false →
    (o = 1 → s.fenceOpen 5 = false) → s.fed [a] →
    let ea := globalAddr (s.val a) off
    (∀ f : BitVec 2, s.fed [d] → s.global ea (2 ^ f.toNat) 2 = .ok p tl →
      RetiresThen s { pops := portsOf [a, d], warn := fallAll s.curPfx }
        (s.posts tl 0 (s.storePacket p (BitVec.ofInt 64 ea) (2 ^ f.toNat) (s.val d).toNat 0)) (exec (.stg f o d a off) s))
    ∧ ((Instr.vstg o d a off).wf = true → s.global ea 64 2 = .ok p tl →
      RetiresThen s { pops := portsOf [a], warn := fallAll s.curPfx }
        (s.posts tl 0 (s.storePacket p (BitVec.ofInt 64 ea) 64 (s.vval d).toNat 0)) (exec (.vstg o d a off) s))
    ∧ (∀ f : BitVec 2, s.fed [d] → s.coord (s.val a) off (2 ^ f.toNat) 2 = .ok p tl →
      RetiresThen s { pops := portsOf [a, d], warn := fallAll s.curPfx }
        (s.posts tl 0 (s.storePacket p (s.val a + off.signExtend 64) (2 ^ f.toNat) (s.val d).toNat 0)) (exec (.str f d a off) s))

/-- A global load or store whose check of R162 fails takes that trap and sends nothing (R162, R191). -/
def Sys2Proof.Clauses.GlobalAccessTraps : Prop :=
  ∀ (s : State) (d a : Reg) (o : BitVec 1) (off : BitVec 11) (i : TrapInfo), Alone s → s.fed [a] → i.code ≠ 12 →
    let ea := globalAddr (s.val a) off
    let out := (.next (s.takeTrap s.core s.slot i s.th.pc s.th.sw) : Host.Outcome State Fault Refusal)
    (∀ f : BitVec 3, (Instr.ldg f o d a off).wf = true → s.global ea (loadForm f).1 1 = .trap i → exec (.ldg f o d a off) s = out)
    ∧ ((Instr.vldg o d a off).wf = true → s.global ea 64 1 = .trap i → exec (.vldg o d a off) s = out)
    ∧ (∀ f : BitVec 2, s.fed [d] → s.global ea (2 ^ f.toNat) 2 = .trap i → exec (.stg f o d a off) s = out)
    ∧ ((Instr.vstg o d a off).wf = true → s.global ea 64 2 = .trap i → exec (.vstg o d a off) s = out)

/-- ldr and str trap on an offset outside the 131,072 bytes, on a misaligned one and on a package that cannot be reached (R195);
an atomic takes the trap of its check as a read-modify-write, or code 9 where the path does not carry it (R197, R198, R350). In
user mode a store that reaches offsets 768 to 863 of a bound workspace takes the privilege trap with its first such byte
(R14, R76). An accumulator out of range or misaligned traps with its offset, a second one after the first, and one that reaches
those offsets takes the privilege trap (R104, R105, R349). A task descriptor out of range or misaligned traps (R143).
Nothing is performed. -/
def Sys2Proof.Clauses.OtherAccessTraps : Prop :=
  ∀ s : State, Alone s →
    let out := fun i : TrapInfo => (.next (s.takeTrap s.core s.slot i s.th.pc s.th.sw) : Host.Outcome State Fault Refusal)
    (∀ (i : Instr) (f : BitVec 2) (d a : Reg) (off : BitVec 11) (acc : Nat), i.wf = true → s.fed [a] →
      (((i = .ldr f d a off ∨ i = .ldrMig f d a off) ∧ acc = 1) ∨ (i = .str f d a off ∧ s.fed [d] ∧ acc = 2)) →
      let t : Int := (bits (s.val a) 16 0 : Int) + off.toInt
      let n := 2 ^ f.toNat
      let va := s.val a + off.signExtend 64
      (¬localOkAt t n n → exec i s = out { code := if 0 ≤ t ∧ t + n ≤ 131072 then 5 else 4, acc := acc, addr := va })
      ∧ (localOkAt t n n → s.reachable (bits (s.val a) 35 29) = false → exec i s = out { code := 4, acc := acc, addr := va }))
    ∧ (∀ (i : Instr) (op : Nat) (z o : BitVec 2) (nr : BitVec 1) (d a b : Reg), i.wf = true →
      amoRule i = some (op, z, o, nr, d, a, b) → s.fed (amoSources op z d a b) →
      (∀ c : TrapInfo, s.global (s.val a).toNat (4 * 2 ^ z.toNat) 3 = .trap c → c.code ≠ 12 → exec i s = out c)
      ∧ (∀ (p : Place) (tl : List TlbEntry), s.global (s.val a).toNat (4 * 2 ^ z.toNat) 3 = .ok p tl → ¬pathCarries p op z →
        exec i s = out { code := 9, acc := 3, addr := s.val a }))
    ∧ (∀ (i : Instr) (d a : Reg) (ea : Int) (n j : Nat), i.wf = true → s.th.sys = false →
      ((∃ (f : BitVec 2) (off : BitVec 12), i = .stl (f.zeroExtend 3) d a off ∧ s.fed [a, d] ∧ ea = effAddr (s.val a) off 1 ∧ n = 2 ^ f.toNat)
        ∨ (∃ k : BitVec 6, i = .vstl d a k ∧ s.fed [a] ∧ ea = effAddr (s.val a) k 64 ∧ n = 64)) →
      localOkAt ea n n → s.lockedL s.core ea.toNat n = false → j < n → inBound (s.bound s.core) 768 864 (ea.toNat + j) = true →
      (∀ x, x < j → inBound (s.bound s.core) 768 864 (ea.toNat + x) = false) →
      exec i s = out { code := 3, acc := 2, addr := BitVec.ofNat 64 (ea.toNat + j) })
    ∧ (∀ (i : Instr) (src : List Reg) (w : BitVec 16) (x : Nat) (r : LaVal × Flags) (y : Option Nat), i.wf = true →
      laRule s i = some (src, w, x, r, y) → s.fed src →
      let acc := if (∃ a, i = .awclr a) then 2 else 3
      (¬localOkAt x 80 16 → exec i s = out { code := if x + 80 ≤ 131072 then 5 else 4, acc := acc, addr := BitVec.ofNat 64 x })
      ∧ (localOkAt x 80 16 →
        (∀ z, y = some z → ¬localOkAt z 80 16 →
          exec i s = out { code := if z + 80 ≤ 131072 then 5 else 4, acc := 1, addr := BitVec.ofNat 64 z })
        ∧ ((∀ z ∈ y, localOkAt z 80 16) → s.th.sys = false → (∃ j, j < 80 ∧ inBound (s.bound s.core) 768 864 (x + j) = true) →
          exec i s = out { code := 3, acc := acc, addr := BitVec.ofNat 64 x })))
    ∧ (∀ d a : Reg, (Instr.awrd d a).wf = true → s.fed [a] → ¬localOkAt (s.val a).toNat 80 16 →
      exec (.awrd d a) s = out { code := if (s.val a).toNat + 80 ≤ 131072 then 5 else 4, acc := 1, addr := s.val a })
    ∧ (∀ d a : Reg, (Instr.tcreate d a).wf = true → s.fed [a] → ¬localOkAt (s.val a).toNat 32 32 →
      exec (.tcreate d a) s = out { code := if (s.val a).toNat + 32 ≤ 131072 then 5 else 4, acc := 1, addr := s.val a })

/-- An atomic that returns its old value and passes its checks sends one request with its operation, size and operands
and holds the group until the reply (R197, R198, R201). -/
def Sys2Proof.Clauses.AtomicsRequest : Prop :=
  ∀ (s : State) (i : Instr) (op : Nat) (z o : BitVec 2) (d a b : Reg) (p : Place) (tl : List TlbEntry), Alone s → i.wf = true →
    amoRule i = some (op, z, o, 0, d, a, b) → s.fed (amoSources op z d a b) → s.global (s.val a).toNat (4 * 2 ^ z.toNat) 3 = .ok p tl →
    pathCarries p op z → ((o = 2 ∨ o = 3) → s.fenceOpen 5 = false) →
    Leaves (exec i s) (Requests s (portsOf (amoSources op z d a b)) (fallAll s.curPfx)
      (s.packet p (s.val a) (.amo op z.toNat (s.amoVal z b) (if op = 9 then s.amoVal z d else 0) false))
      (if z = 2 then .pair d.toNat else .reg d.toNat (32 * 2 ^ z.toNat) false) tl)

/-- A non-returning atomic that passes its checks completes: it leaves for its home counted on the scoreboard counter its
d field names (R124, R197, R198). -/
def Sys2Proof.Clauses.AtomicsPost : Prop :=
  ∀ (s : State) (i : Instr) (op : Nat) (z o : BitVec 2) (d a b : Reg) (p : Place) (tl : List TlbEntry), Alone s → i.wf = true →
    amoRule i = some (op, z, o, 1, d, a, b) → s.fed (amoSources op z d a b) → s.global (s.val a).toNat (4 * 2 ^ z.toNat) 3 = .ok p tl →
    pathCarries p op z → ((o = 2 ∨ o = 3) → s.fenceOpen 5 = false) → s.scFull d.toNat = false →
    RetiresThen s { pops := portsOf (amoSources op z d a b), warn := fallAll s.curPfx }
      (s.posts tl d.toNat (s.packet p (s.val a) (.amo op z.toNat (s.amoVal z b) 0 true))) (exec i s)

/-- Rounding of n/d times a power of two under the five modes of R18 (R52, R53). A value of the format keeps its encoding and
raises nothing. A value strictly between two neighbours, mc and mc + 1 units of its spacing, becomes the neighbour that the mode
names: the nearer one and the even one of two as near, the one toward zero, the greater, the lesser, or the one that the 24 bits
choose; it is inexact, and underflows below the least normal value. One past the largest finite value overflows. The result
depends on the exact value alone. Sums, products and multiply-adds of finite numbers round the exact result once (R90), and
integers round with unit spacing and clamp with invalid alone. -/
def Sys2Proof.Clauses.RoundingLaw : Prop :=
  (∀ (f : Fmt) (o : Rnd) (neg : Bool) (c mc N D : Nat) (ec : Int), o.rm ≤ 4 → c ≤ f.maxCode → f.decode c = .fin false mc ec → 0 < D →
    (0 < mc → roundQ f o neg (mc * D) D ec = (f.sgn neg c, {}))
    ∧ (mc * D < N → N < (mc + 1) * D →
      (¬roundsUp o neg mc (N - mc * D) D → roundQ f o neg N D ec = (f.sgn neg c, { nx := true, uf := decide (c < 2 ^ f.m) }))
      ∧ (roundsUp o neg mc (N - mc * D) D → c < f.maxCode →
        roundQ f o neg N D ec = (f.sgn neg (c + 1), { nx := true, uf := decide (c < 2 ^ f.m) }))
      ∧ (roundsUp o neg mc (N - mc * D) D → c = f.maxCode → roundQ f o neg N D ec = (overflowed f o neg, { of := true, nx := true })))
    ∧ (c = f.maxCode → (mc + 1) * D ≤ N → roundQ f o neg N D ec = (overflowed f o neg, { of := true, nx := true })))
  ∧ (∀ (f : Fmt) (o : Rnd) (neg : Bool) (n d j : Nat) (e : Int), 0 < n → 0 < d →
    roundQ f o neg (n * 2 ^ j) d e = roundQ f o neg n d (e + j) ∧ (0 < j → roundQ f o neg (n * j) (d * j) e = roundQ f o neg n d e))
  ∧ (∀ (f : Fmt) (o : Rnd) (n k b : Bool) (m p c : Nat) (e g h : Int),
    let num := fun (neg : Bool) (m : Nat) (e z : Int) => (if neg then -1 else 1) * ((m * 2 ^ (e - z).toNat : Nat) : Int)
    let x := num n m e (min e g) + num k p g (min e g)
    let y := num b c h (min h (e + g)) + num (n != k) (m * p) (e + g) (min h (e + g))
    (x ≠ 0 → sumRound f o (.fin n m e) (.fin k p g) = roundQ f o (decide (x < 0)) x.natAbs 1 (min e g))
    ∧ (m * p ≠ 0 → mulRound f o (.fin n m e) (.fin k p g) = roundQ f o (n != k) (m * p) 1 (e + g))
    ∧ (y ≠ 0 → fmaRound f o (.fin b c h) (.fin n m e) (.fin k p g) = roundQ f o (decide (y < 0)) y.natAbs 1 (min h (e + g))))
  ∧ ∀ (w : Nat) (uns : Bool) (o : Rnd) (neg : Bool) (m j : Nat), o.rm ≤ 4 → 0 < w →
    let q := m / 2 ^ j
    let v : Int := (if neg then -1 else 1) * ((if roundsUp o neg q (m % 2 ^ j) (2 ^ j) then q + 1 else q : Nat) : Int)
    let lo : Int := if uns then 0 else -(2 ^ (w - 1) : Nat)
    let hi : Int := if uns then (2 ^ w : Nat) - 1 else (2 ^ (w - 1) : Nat) - 1
    roundToInt w uns o neg m (-(j : Int)) = ((BitVec.ofInt w (max lo (min hi v))).toNat,
      if v < lo ∨ hi < v then { nv := true } else { nx := decide (m % 2 ^ j ≠ 0) })

/-- What an atomic leaves at its home, for operands of 4 or 8 bytes (R198, R199): sums wrap, minima and maxima order by
signed or unsigned value, cas stores only on equality, and incb never passes its cap. -/
def Sys2Proof.Clauses.AtomicArithmetic : Prop :=
  ∀ (n m b d : Nat), (n = 4 ∨ n = 8) → m < 256 ^ n → b < 256 ^ n → d < 256 ^ n →
    (amoResult 0 n m b d).1 = (m + b) % 256 ^ n
      ∧ (amoResult 8 n m b d).1 = b
      ∧ (amoResult 9 n m b d).1 = (if m = d then b else m)
      ∧ (amoResult 6 n m b d).1 = min m b ∧ (amoResult 7 n m b d).1 = max m b
      ∧ ((amoResult 4 n m b d).1 = m ∨ (amoResult 4 n m b d).1 = b)
      ∧ (BitVec.ofNat (8 * n) (amoResult 4 n m b d).1).toInt = min (BitVec.ofNat (8 * n) m).toInt (BitVec.ofNat (8 * n) b).toInt
      ∧ (BitVec.ofNat (8 * n) (amoResult 5 n m b d).1).toInt = max (BitVec.ofNat (8 * n) m).toInt (BitVec.ofNat (8 * n) b).toInt
      ∧ (let h := 256 ^ (n / 2)
         m % h ≤ m / h → (amoResult 10 n m b d).1 / h = m / h ∧ (amoResult 10 n m b d).1 % h = min (m % h + b % h) (m / h))

/-- ldr.x.mig in user mode to a core other than its own, with nothing unacknowledged, unread or half composed, asks to migrate:
its load leaves as one that the target's window decides on, and the group waits for the verdict in its slot; from system mode,
to the own core, or with a register above w15 it is a plain ldr (R128, R129, R196, R211).
It rests on the model's choices and readings of log 15.
Completes: ldrMig. -/
def Obligations.MigratingLoad : Prop :=
  ∀ (s : State) (f : BitVec 2) (d a : Reg) (off : BitVec 11) (p : Place) (tl : List TlbEntry), Alone s → s.fed [a] →
    (Instr.ldrMig f d a off).wf = true → s.coord (s.val a) off (2 ^ f.toNat) 1 = .ok p tl →
    let pkt := s.packet p (s.val a + off.signExtend 64) (.load (2 ^ f.toNat))
    let plain := s.th.sys = true ∨ 15 < d.toNat ∨ 15 < a.toNat ∨ ∀ m x, p = .loc (some m) x → m = s.core
    (plain → Leaves (exec (.ldrMig f d a off) s) (Requests s (portsOf [a]) (fallAll s.curPfx) pkt (.reg d.toNat (8 * 2 ^ f.toNat) false) tl))
    ∧ (¬plain → s.migRefused = false → s.unacked s.th.uid s.core 5 = false →
      Leaves (exec (.ldrMig f d a off) s) (Requests s (portsOf [a]) (fallAll s.curPfx) { pkt with kind := .mig (2 ^ f.toNat) }
        (.reg d.toNat (8 * 2 ^ f.toNat) false) tl))

/-- A fence whose wait has ended and that no deferred trap meets completes as a step that only goes on; fence.i also drops
the hedge's instruction cache; one whose accesses or jobs are open leaves the state as it is but for the stall (R202-R204). -/
def Sys2Proof.Clauses.FenceResults : Prop :=
  ∀ (s : State) (scope : BitVec 3), Alone s → (Instr.fence scope).wf = true → s.th.deferred = none →
    (s.fenceOpen scope.toNat = false → Leaves (exec (.fence scope) s) (Retires s { warn := fallAll s.curPfx }))
    ∧ (s.fenceOpen 5 = false → RetiresThen s { warn := fallAll s.curPfx }
        (fun u => u.modHedge (hedgeOf s.core) (fun h => { h with icache := [] })) (exec .fenceI s))
    ∧ (s.fenceOpen scope.toNat = true → exec (.fence scope) s = .next (s.stallAt s.core s.slot))
    ∧ (s.fenceOpen 5 = true → exec .fenceI s = .next (s.stallAt s.core s.slot))

/-- pf completes whatever it names: to device memory that a cache may hold, or to another package, it posts a prefetch
counted on its counter; in every other case it only goes on (R205). -/
def Sys2Proof.Clauses.PrefetchResult : Prop :=
  ∀ (s : State) (sc a : Reg), Alone s → (Instr.pf sc a).wf = true → s.fed [a] → s.scFull sc.toNat = false →
    let r := s.global (s.val a).toNat 1 1
    let e : Result := { pops := portsOf [a], warn := fallAll s.curPfx }
    (∀ pa pol tl, r = .ok (.dev pa pol) tl → pol % 4 ≠ 2 →
      RetiresThen s e (s.posts tl sc.toNat (s.packet (.dev pa pol) (s.val a) .pf)) (exec (.pf sc a) s))
    ∧ (∀ q c tl, r = .ok (.remote q c) tl →
      RetiresThen s e (s.posts [] sc.toNat (s.packet (.remote q c) (s.val a) .pf)) (exec (.pf sc a) s))
    ∧ (((∃ i, r = .trap i) ∨ (∃ m x tl, r = .ok (.loc m x) tl) ∨ (∃ pa tl, r = .ok (.host pa) tl) ∨ ∃ pa pol tl, r = .ok (.dev pa pol) tl ∧ pol % 4 = 2) →
      Leaves (exec (.pf sc a) s) (Retires s e))

/-- tlook, tfill and tinv complete on the core's tag table. A hit gives the slot with its dirty bit and sets its reference bit; a
miss gives the victim of R170, the lowest invalid entry, else the first from the pointer on without a reference, else the
pointer's own with every reference cleared, and moves the pointer behind it; without a software cache tlook gives all ones. A
fill gives the old entry, sets the new one and clears every other entry of its tag; an invalidation gives and clears one entry
or, with A[9], all; an index outside the table gives all ones and changes nothing (R169-R171, R206, R207).
Completes: tlook, tfill, tinv. -/
def Obligations.SoftwareCache : Prop :=
  ∀ (s : State) (d a b : Reg), Alone s → s.fed [a] →
    let c := s.cor
    let old := fun (i : Nat) => c.tags.get 0 i
    let res := fun (src : List Reg) (v : Word) => ({ pops := portsOf src, reg := some (d, v), warn := fallAll s.curPfx } : Result)
    let gives := fun (i : Instr) (src : List Reg) (v : Word) => Leaves (exec i s) (Retires s (res src v))
    let sets := fun (i : Instr) (src : List Reg) (v : Word) (new : Nat → Word) (ptr : Nat) => Leaves (exec i s) (fun t =>
      ∃ (u : State) (tg : Tbl Word), Retires s (res src v) u ∧ (∀ j, tg.get 0 j = new j)
        ∧ t = u.modCore s.core (fun x => { x with tags := tg, scptr := ptr }))
    let tag := bits (s.val a) 63 8
    let v := fun (i : Nat) => (old i).getLsbD 7
    let ref := fun (i : Nat) => (old i).getLsbD 6
    let hit := fun (i : Nat) => v i = true ∧ bits (old i) 63 8 = tag
    let full := ∀ j, j < c.nslot → v j = true
    let used := full ∧ ∀ j, j < c.nslot → ref j = true
    ((Instr.tlook d a).wf = true →
      (c.nslot = 0 → gives (.tlook d a) [a] (BitVec.allOnes 64))
      ∧ (∀ i, i < c.nslot → hit i → (∀ j, j < i → ¬hit j) →
        sets (.tlook d a) [a] (fld 40 (bits (old i) 5 5) ||| fld 0 i) (fun j => if j = i then setBit (old i) 6 true else old j) c.scptr)
      ∧ (c.nslot ≠ 0 → (∀ j, j < c.nslot → ¬hit j) → ∃ k,
        (¬full → k < c.nslot ∧ v k = false ∧ ∀ j, j < k → v j = true)
        ∧ (full → ¬used → ∃ m, m < c.nslot ∧ k = (c.scptr + m) % c.nslot ∧ ref k = false ∧ ∀ m', m' < m → ref ((c.scptr + m') % c.nslot) = true)
        ∧ (used → k = c.scptr)
        ∧ ∃ new : Nat → Word, (¬used → new = old) ∧ (used → new = fun j => setBit (old j) 6 false)
          ∧ sets (.tlook d a) [a] (fld 41 (bits (old k) 5 5) ||| fld 40 (bits (old k) 7 7) ||| fld 32 k ||| 0xFFFFFFFF) new ((k + 1) % c.nslot)))
    ∧ ((Instr.tfill d a b).wf = true → s.fed [a, b] → let i := bits (s.val b) 7 0
      (c.nslot ≤ i → gives (.tfill d a b) [a, b] (BitVec.allOnes 64))
      ∧ (i < c.nslot → sets (.tfill d a b) [a, b] (old i)
        (fun j => if j = i then fld 8 tag ||| fld 7 1 ||| fld 6 1 ||| fld 5 (bits (s.val b) 8 8)
          else if bits (old j) 63 8 = tag then setBit (old j) 7 false else old j) c.scptr))
    ∧ ((Instr.tinv d a).wf = true → let i := bits (s.val a) 7 0
      ((s.val a).getLsbD 9 = true → sets (.tinv d a) [a] 0 (fun j => setBit (old j) 7 false) 0)
      ∧ ((s.val a).getLsbD 9 = false → c.nslot ≤ i → gives (.tinv d a) [a] (BitVec.allOnes 64))
      ∧ ((s.val a).getLsbD 9 = false → i < c.nslot →
        sets (.tinv d a) [a] (old i) (fun j => if j = i then setBit (setBit (old i) 7 false) 6 false else old j) c.scptr))

/-! ### Messages, tags and mailboxes -/

/-- send of a composed message, or sendv of a header and a vector, for one core of the own package, completes: the message
with its completed header enters the network for that core, a composition buffer sent is emptied, and nothing else
changes; an empty composition sends nothing (R133-R140).
Completes: send, sendv. -/
def Obligations.SendResults : Prop :=
  ∀ (s : State) (p : BitVec 1), Alone s → s.outgoing s.core p.toNat < 32 →
    let x := s.slotAt s.core s.slot
    let msg := fun (h : Word) (pay : List Word) (m : Nat) => ({
      id := s.nextId, cls := p.toNat, src := s.source, home := .core m, space := .core m, sslot := s.slot, queued := true
      kind := .msg (sendHeader h p.toNat pay.length s.slot :: pay) } : Packet)
    let one := fun (h : Word) (m : Nat) => s.headerOk (hedgeOf s.core) s.th h = true ∧ h.getLsbD 11 = false
      ∧ bits h 63 57 = s.pkgNo ∧ s.place (hedgeOf s.core) s.th.ctx (linOf (bits h 50 45) (bits h 56 51)) = some m
    (x.comp p.toNat = [] → Leaves (exec (.send p) s) (Retires s { warn := fallAll s.curPfx }))
    ∧ (∀ h pay m, x.comp p.toNat = h :: pay → one h m →
      RetiresThen s { warn := fallAll s.curPfx }
        (fun u => { u.modSlot s.core s.slot (fun y => y.setComp p.toNat []) with net := s.net ++ [msg h pay m], nextId := s.nextId + 1 })
        (exec (.send p) s))
    ∧ ∀ (a b : Reg) (m : Nat), (Instr.sendv p a b).wf = true → s.fed [a] → one (s.val a) m →
      RetiresThen s { pops := portsOf [a], warn := fallAll s.curPfx }
        (fun u => { u with
          net := s.net ++ [msg (s.val a) ((List.range 8).map (fun i => (s.vval b).extractLsb' (64 * i) 64)) m]
          nextId := s.nextId + 1 })
        (exec (.sendv p a b) s)

/-- tset and tclr put the old TAGEN into d and then set or clear the bits of A in it, bit 0 excepted; tpend puts the tags
with a held message and a clear enable, among those of A, into d (R111, R142). -/
def Sys2Proof.Clauses.TagEnables : Prop :=
  ∀ (s : State) (d a : Reg), Alone s → (Instr.tset d a).wf = true → s.fed [a] →
    let e := fun (v : Word) => ({ pops := portsOf [a], reg := some (d, v), warn := fallAll s.curPfx } : Result)
    let m : Word := s.val a &&& 0xFFFFFFFFFFFFFFFE
    RetiresThen s (e s.cor.tagen) (fun u => u.modCore s.core (fun c => { c with tagen := c.tagen ||| m })) (exec (.tset d a) s)
    ∧ RetiresThen s (e s.cor.tagen) (fun u => u.modCore s.core (fun c => { c with tagen := c.tagen &&& ~~~m })) (exec (.tclr d a) s)
    ∧ Leaves (exec (.tpend d a) s) (fun t => ∃ w : Word, Retires s (e (w &&& s.val a)) t ∧ ∀ i, i < 64 →
      (w.getLsbD i = true ↔ i ≠ 0 ∧ s.cor.tagen.getLsbD i = false
        ∧ ∃ q ∈ s.cor.rx0 ++ s.cor.rx1, q.owner = .held ∧ bits q.hdr 42 37 = i))

/-- With the mailbox region in force, mbx.ins inserts an entry of zero flags into its row, mbx.rd reads a row's status, and
mbx.clr resets one row or all; without it each takes the address trap with trap address 0 (R158-R160, R302-R304). -/
def Sys2Proof.Clauses.MailboxInstructions : Prop :=
  ∀ (s : State) (d a b : Reg), Alone s → (Instr.mbxRd d a).wf = true → s.fed [a, b] →
    let x := s.val a
    let y := s.val b
    let rows := if x.getLsbD 6 then List.range 64 else [bits x 5 0]
    (s.cor.mben = true →
      RetiresThen s { pops := portsOf [a, b], warn := fallAll s.curPfx }
        (fun u => (u.rowInsert s.core (bits x 5 0) [mkEntry (bits x 63 32) (bits x 31 16) (bits y 41 32) (bits y 31 0) 0]).noteLocal
          s.th.uid s.core (s.cor.entryAt (bits x 5 0) 0) 256)
        (exec (.mbxIns a b) s)
      ∧ Leaves (exec (.mbxRd d a) s) (Retires s { pops := portsOf [a], reg := some (d, s.cor.rows.get 0 (bits x 5 0)), warn := fallAll s.curPfx })
      ∧ RetiresThen s { pops := portsOf [a, b], warn := fallAll s.curPfx }
        (fun u => rows.foldl (fun u r => u.noteLocal s.th.uid s.core (s.cor.entryAt r 0) 256)
          (u.modCore s.core (fun c => c.clearRows rows (fld 32 (bits y 15 0)))))
        (exec (.mbxClr a b) s))
    ∧ (s.cor.mben = false →
      let out := (.next (s.takeTrap s.core s.slot { code := 4 } s.th.pc s.th.sw) : Host.Outcome State Fault Refusal)
      exec (.mbxIns a b) s = out ∧ exec (.mbxRd d a) s = out ∧ exec (.mbxClr a b) s = out)

/-- An insertion keeps, of the row's entries and then the new ones that are no sentinels, with NaN scores made canonical, the
best of each expert and of equals the earliest, highest score first and equal scores by lower expert; the first depth of them
and then sentinels are the row. It counts the arrival, what fell off the end and the copies dropped, each up to its cap, and
sets the valid count and done; no other byte changes (R303, R304). -/
def Sys2Proof.Clauses.RowInsertion : Prop :=
  ∀ (s : State) (n r : Nat) (new : List (BitVec 128)) (job : Option Nat), (s.coreAt n).mbdepth ≤ 16 →
    let c := s.coreAt n
    let w := c.rows.get 0 r
    let all := ((c.rowEntries r ++ new).filter (fun e => entExpert e != 0xFFFF)).map canonScore
    let t := s.rowInsert n r new job
    ∃ u : List (BitVec 128),
      u.Pairwise (fun x y => entRank y < entRank x ∨ (entRank x = entRank y ∧ entExpert x < entExpert y))
      ∧ (∀ e, e ∈ u ↔ ∃ i : Nat, all[i]? = some e ∧ ∀ (j : Nat) (f : BitVec 128), all[j]? = some f → entExpert f = entExpert e →
          entRank f < entRank e ∨ (entRank f = entRank e ∧ i ≤ j))
      ∧ (∀ i, i < c.mbdepth → BitVec.ofNat 128 ((t.coreAt n).lmem.num (c.entryAt r i) 16) = u.getD i sentinel)
      ∧ (∀ a, ¬(c.entryAt r 0 ≤ a ∧ a < c.entryAt r c.mbdepth) → t.localByte n a = s.localByte n a)
      ∧ (let v := (t.coreAt n).rows.get 0 r
         bits v 63 48 = min (bits w 63 48 + 1) 65535 ∧ bits v 47 32 = bits w 47 32
         ∧ bits v 31 24 = min (bits w 31 24 + (u.length - c.mbdepth)) 255 ∧ bits v 23 16 = min (bits w 23 16 + (all.length - u.length)) 255
         ∧ bits v 15 8 = min u.length c.mbdepth ∧ bits v 7 1 = 0
         ∧ (v.getLsbD 0 = true ↔ bits w 47 32 ≠ 0 ∧ bits w 47 32 ≤ min (bits w 63 48 + 1) 65535))

/-! ### Tasks, launches, joins, barriers, waits and queues -/

/-- tcreate of a descriptor in range, aligned and not claimed, with room in the run queue, completes: the task of the
descriptor enters the own run queue with the core's next sequence number, which d receives (R109, R143). -/
def Sys2Proof.Clauses.TaskCreateResult : Prop :=
  ∀ (s : State) (d a : Reg), Alone s → (Instr.tcreate d a).wf = true → s.fed [a] → s.th.buf = [] →
    let x := (s.val a).toNat
    let w := fun (i : Nat) => (BitVec.ofNat 64 (leNum s.seen (x + 8 * i) 8) : Word)
    localOkAt x 32 32 → s.claimedL s.core x 32 = false → s.rqRoom s.core = true →
    Leaves (exec (.tcreate d a) s) (fun t => ∃ e : RqEntry, (t.coreAt s.core).rq = s.cor.rq ++ [e] ∧ e.fresh = true
      ∧ e.th.pc = w 0 ∧ e.arg = w 1 ∧ e.budget = bits (w 2) 63 44
      ∧ e.prio = (if s.th.sys = false ∧ bits (w 2) 43 42 = 0 then 1 else bits (w 2) 43 42)
      ∧ e.sb = (if (w 2).getLsbD 35 then some (bits (w 2) 34 33) else none)
      ∧ e.th.rbase = bits (w 2) 32 24 ∧ e.th.rsize = bits (w 2) 23 15
      ∧ e.th.ctx = s.th.ctx ∧ e.th.seq = s.cor.taskCount ∧ e.th.home = s.core ∧ e.th.sw = 0
      ∧ (t.coreAt s.core).taskCount = s.cor.taskCount + 1
      ∧ (∀ y, t.localByte s.core y = ({ reg := some (d, BitVec.ofNat 64 s.cor.taskCount.toNat) } : Result).byte s y)
      ∧ (t.thAt s.core s.slot).pc = s.th.pc + 4 ∧ t.hbm = s.hbm ∧ t.net = s.net)

/-- tdec with an aligned record address on a package that can be reached completes: the decrement leaves for the record's
core, counted on its counter; a misaligned address takes the align trap, then an unreachable package the address trap (R144). -/
def Sys2Proof.Clauses.DependenceDecrement : Prop :=
  ∀ (s : State) (sc a b : Reg), Alone s → (Instr.tdec sc a b).wf = true → s.fed [a, b] →
    let x := s.val a
    (bits x 5 0 = 0 → s.reachable (bits x 35 29) = true → s.scFull sc.toNat = false →
      RetiresThen s { pops := portsOf [a, b], warn := fallAll s.curPfx }
        (s.posts [] sc.toNat (s.packet (s.coordPlace x) x (.tdec (bits (s.val b) 31 0)))) (exec (.tdec sc a b) s))
    ∧ (bits x 5 0 ≠ 0 → exec (.tdec sc a b) s
        = .next (s.takeTrap s.core s.slot { code := 5, acc := 3, addr := x } s.th.pc s.th.sw))
    ∧ (bits x 5 0 = 0 → s.reachable (bits x 35 29) = false → exec (.tdec sc a b) s
        = .next (s.takeTrap s.core s.slot { code := 4, acc := 3, addr := x } s.th.pc s.th.sw))

/-- A user-mode texit whose counters are zero and that no deferred trap meets ends its task: the slot and the workspace
are free, PC and SW are in the workspace, the launch counts the end, no message stays bound to it, and it leaves its chain,
whose baton it passes on; with a counter open it waits. A texit in system mode ends the task of the frame as faulted, once its
counters are zero, and no deferred trap is taken. A thread that is a guest gives back the guest workspace with its own. The
thread of an ordered launch that has spawned goes on as its next iteration (R20, R126, R129, R145, R155, R361). -/
def Sys2Proof.Clauses.TaskExit : Prop :=
  (∀ s : State, Alone s → s.th.sys = false → s.th.respawn = none → s.th.home = s.core →
    (((s.coreAt s.core).anySc s.th.homeWp = false → s.th.deferred = none → s.th.homeWp < 128 →
      Leaves (exec .texit s) (fun t => (t.slotAt s.core s.slot).st = .free ∧ (t.slotAt s.core s.slot).swp = (s.slotAt s.core s.slot).swp
        ∧ (if s.th.homeWp < 64 then (t.coreAt s.core).wsfree0.getLsbD s.th.homeWp else (t.coreAt s.core).wsfree1.getLsbD (s.th.homeWp - 64)) = true
        ∧ (∀ id ∈ s.th.launch, ∀ l ∈ s.launches, l.1 = id → (id, { l.2 with counter := l.2.counter - 1, ended := (s.th.lin, s.th.k) :: l.2.ended }) ∈ t.launches)
        ∧ (∀ q ∈ (t.coreAt s.core).rx0 ++ (t.coreAt s.core).rx1, q.owner ≠ .task s.th.uid)
        ∧ (∀ c ∈ s.th.chain, (t.chains.get {} c).iters = (s.chains.get {} c).iters.filter (fun u => u != s.th.uid)
          ∧ (t.chains.get {} c).baton = ((s.chains.get {} c).baton && (s.chains.get {} c).iters.head? != some s.th.uid))
        ∧ t.hbm = s.hbm ∧ t.net = s.net ∧ (t.coreAt s.core).word (wsBase s.th.wp + 768) = s.th.pc + 4
        ∧ ∀ y, ¬(wsBase s.th.wp + 768 ≤ y ∧ y < wsBase s.th.wp + 784) → t.localByte s.core y = s.localByte s.core y)))
    ∧ ((s.coreAt s.core).anySc s.th.homeWp = true → exec .texit s = .next (s.stallAt s.core s.slot)))
  ∧ (∀ s : State, Alone s → s.th.sys = true → s.th.home = s.core →
    let wp := bits ((s.coreAt s.core).word (wsBase s.th.wp + 824)) 16 10
    ((s.coreAt s.core).anySc wp = false → Leaves (exec .texit s) (fun t => (t.slotAt s.core s.slot).st = .free
        ∧ (t.coreAt s.core).isFree wp = true
        ∧ (∀ id ∈ s.th.launch, ∀ l ∈ s.launches, l.1 = id → (id, { l.2 with
          counter := l.2.counter - 1, flt := min 65535 (l.2.flt + 1), ended := (s.th.lin, s.th.k) :: l.2.ended }) ∈ t.launches)
        ∧ (∀ q ∈ (t.coreAt s.core).rx0 ++ (t.coreAt s.core).rx1, q.owner ≠ .task s.th.uid) ∧ t.hbm = s.hbm ∧ t.net = s.net))
    ∧ ((s.coreAt s.core).anySc wp = true → exec .texit s = .next (s.stallAt s.core s.slot)))
  ∧ (∀ s : State, Visits s → s.th.respawn = none → (s.coreAt s.th.home).anySc s.th.homeWp = false → s.th.deferred = none →
    s.th.wp < 128 → s.th.homeWp < 128 →
    Leaves (exec .texit s) (fun t => (t.slotAt s.core s.slot).st = .free ∧ (t.coreAt s.core).isFree s.th.wp = true
      ∧ (t.coreAt s.th.home).isFree s.th.homeWp = true
      ∧ (∀ id ∈ s.th.launch, ∀ l ∈ s.launches, l.1 = id → (id, { l.2 with counter := l.2.counter - 1, ended := (s.th.lin, s.th.k) :: l.2.ended }) ∈ t.launches)
      ∧ t.hbm = s.hbm ∧ t.net = s.net))
  ∧ ∀ (s : State) (id d : Nat) (o : OrdTask) (pc : Word), InQuantum s id o → s.th.respawn = some (d, pc) → 0 < d → d < 28 →
    Leaves (exec .texit s) (fun t => (t.slotAt s.core s.slot).st ≠ .free ∧ (t.thAt s.core s.slot).pc = pc
      ∧ (t.thAt s.core s.slot).respawn = none ∧ (t.thAt s.core s.slot).spawned = false ∧ (t.thAt s.core s.slot).iter = s.th.iter + 1
      ∧ (∀ y, t.localByte s.core y = ({ reg := some (BitVec.ofNat 5 d, BitVec.ofNat 64 (s.th.iter + 1)) } : Result).byte s y)
      ∧ t.hbm = s.hbm ∧ t.net = s.net)

/-- yield with room in the run queue puts the thread behind the tasks of its priority, to go on at the next syllable, and
frees its slot; with a full run queue it only goes on (R146). -/
def Sys2Proof.Clauses.YieldResult : Prop :=
  ∀ s : State, Alone s → s.th.home = s.core →
    (s.cor.rqFree = true → Leaves (exec .yield s) (fun t => (t.slotAt s.core s.slot).st = .free
      ∧ ∃ e : RqEntry, (t.coreAt s.core).rq = s.cor.rq ++ [e] ∧ e.fresh = false ∧ e.ahead = false ∧ e.th.uid = s.th.uid
        ∧ e.th.pc = s.th.pc + 4 ∧ e.prio = s.th.prio ∧ e.th.wp = s.th.wp
        ∧ (t.coreAt s.core).word (wsBase s.th.wp + 768) = s.th.pc + 4))
    ∧ (s.cor.rqFree = false → Leaves (exec .yield s) (Retires s { warn := fallControl s.curPfx }))

/-- launch of a legal descriptor completes: identifier 0 while a persistent launch of the context is in force; else, with an
entry free and fewer than four ordered launches in force, an entry of the launch table with the descriptor's fields and one task
to place for each core of the rectangle and each of its threads, hedges ascending, cores ascending within a hedge, threads in
order; its join counter is their number and its identifier of die, entry and sequence is in d; else it waits. A descriptor
outside local memory, misaligned, of another context in user mode, or whose rectangle is not of this package takes the trap of
R149 (R113, R115, R119, R143, R147, R149, R220). The die in the identifier is that of the table that holds it (log 59).
It rests on the model's choices and readings of logs 59 and 75.
Completes: launch. -/
def Obligations.LaunchStarts : Prop :=
  ∀ (s : State) (d a : Reg), Alone s → (Instr.launch d a).wf = true → s.fed [a] → s.th.buf = [] →
    let go := exec (.launch d a) s
    let trap := fun (i : TrapInfo) => (.next (s.takeTrap s.core s.slot i s.th.pc s.th.sw) : Host.Outcome State Fault Refusal)
    let x := (s.val a).toNat
    let w := fun (i : Nat) => (BitVec.ofNat 64 (leNum s.seen (x + 8 * i) 8) : Word)
    let ld := LaunchDesc.of [w 0, w 1, w 2, w 3] s.th.ctx (!s.th.sys)
    let own := s.th.sys = true ∨ bits (w 3) 15 0 = 0
    let fits := ld.rectOk = true ∧ s.mapOk (hedgeOf s.core) ld.ctx ld.x0 ld.y0 ld.wx ld.wy = true
    let e := fun (v : Word) => ({ pops := portsOf [a], reg := some (d, v), warn := fallAll s.curPfx } : Result)
    (131072 < x + 32 → go = trap { code := 4, acc := 1, addr := s.val a })
    ∧ (x + 32 ≤ 131072 → x % 32 ≠ 0 → go = trap { code := 5, acc := 1, addr := s.val a })
    ∧ (localOkAt x 32 32 → s.claimedL s.core x 32 = false →
      (¬own → go = trap { code := 3, addr := s.th.pc })
      ∧ (own → ¬fits → go = trap { code := 4, addr := s.val a })
      ∧ (own → fits → (ld.pers = true ∧ s.persInForce ld.ctx = true) → Leaves go (Retires s (e 0)))
      ∧ (own → fits → ¬(ld.pers = true ∧ s.persInForce ld.ctx = true) →
        (s.launchWaits (hedgeOf s.core) ld = true → go = .next (s.stallAt s.core s.slot))
        ∧ (s.launchWaits (hedgeOf s.core) ld = false → Leaves go (fun t => ∃ (id : Nat) (l : Launch), t.launches = (id, l) :: s.launches
          ∧ id = 2 ^ 30 * l.die + 2 ^ 26 * l.entry + l.seq ∧ 1 ≤ l.seq ∧ l.seq < 2 ^ 26 ∧ l.entry < 16
          ∧ l.pc = w 0 ∧ l.arg = w 1 ∧ l.budget = bits (w 2) 63 44
          ∧ l.prio = (if s.th.sys = false ∧ bits (w 2) 43 42 = 0 then 1 else bits (w 2) 43 42)
          ∧ l.ord = (w 2).getLsbD 41 ∧ l.pers = (w 2).getLsbD 40 ∧ l.thr = bits (w 2) 39 38 + 1
          ∧ l.rbase = bits (w 2) 37 29 ∧ l.rsize = bits (w 2) 28 20
          ∧ l.x0 = bits (w 3) 63 58 ∧ l.y0 = bits (w 3) 57 52 ∧ l.wx = bits (w 3) 51 45 ∧ l.wy = bits (w 3) 44 38
          ∧ l.ctx = (if bits (w 3) 15 0 = 0 then s.th.ctx else bits (w 3) 15 0)
          ∧ l.counter = l.wx * l.wy * l.thr ∧ l.flt = 0 ∧ l.kill = 0 ∧ l.ended = []
          ∧ (∀ c k, (c, k) ∈ l.todo ↔ c < 4096 ∧ l.x0 ≤ xOf c ∧ xOf c < l.x0 + l.wx ∧ l.y0 ≤ yOf c ∧ yOf c < l.y0 + l.wy ∧ k < l.thr)
          ∧ l.todo.Pairwise (fun p q => hedgeOf p.1 < hedgeOf q.1 ∨ (hedgeOf p.1 = hedgeOf q.1
            ∧ (yOf p.1 < yOf q.1 ∨ (yOf p.1 = yOf q.1 ∧ (xOf p.1 < xOf q.1 ∨ (xOf p.1 = xOf q.1 ∧ p.2 < q.2))))))
          ∧ l.die = dieOf ((s.place (hedgeOf s.core) l.ctx (linOf l.x0 l.y0)).getD 0)
          ∧ l.seq = (s.die l.die).launchSeq % (2 ^ 26 - 1) + 1 ∧ (t.die l.die).launchSeq = l.seq
          ∧ (l.die, l.entry) ∉ s.launches.map (fun y => (y.2.die, y.2.entry))
          ∧ (l.ord = true → t.ords.has id = true)
          ∧ (∀ y, t.localByte s.core y = (e (BitVec.ofNat 64 id)).byte s y)
          ∧ (t.thAt s.core s.slot).pc = s.th.pc + 4 ∧ t.hbm = s.hbm ∧ t.net = s.net))))

/-- join of an identifier that names no launch completes with bit 62; of a launch that has completed and that no other
thread awaits, with its status, and the entry is freed; of one that has not, the slot holds (R150). -/
def Sys2Proof.Clauses.JoinResult : Prop :=
  ∀ (s : State) (d a : Reg), Alone s → (Instr.join d a).wf = true → s.fed [a] →
    let id := (s.val a).toNat
    let e := fun (v : Word) => ({ pops := portsOf [a], reg := some (d, v), warn := fallAll s.curPfx } : Result)
    (s.launches.find? (fun l => l.1 == id) = none → Leaves (exec (.join d a) s) (Retires s (e (fld 62 1))))
    ∧ ∀ l, s.launches.find? (fun l => l.1 == id) = some (id, l) →
      (l.counter = 0 → (∀ c ∈ s.cores, ∀ x ∈ c.2.slots, ∀ h, x.2.hold = some h → h.1 ≠ .join id) →
        RetiresThen s (e (fld 63 1 ||| fld 16 l.flt ||| fld 0 l.kill))
          (fun u => ((u.modCore s.core (fun c => c.popHeld s.th.uid)).modSlot s.core s.slot (fun y => { y with hold := none })).freeLaunch id)
          (exec (.join d a) s))
      ∧ (l.counter ≠ 0 → Leaves (exec (.join d a) s) (fun t => ∃ fx : Fx, { t with cores := s.cores } = s
        ∧ t.slotAt s.core s.slot = { s.slotAt s.core s.slot with hold := some (.join id, fx), stalled := false } ∧ fx.dst = .reg d.toNat 64 false))

/-- bar at a legal subgroup that holds the thread: the arrival is counted and the slot holds while members are missing; when
every other member has ended it completes at once with the number that ended. Outside a launch or at an illegal subgroup it
takes the address trap (R114, R151). -/
def Sys2Proof.Clauses.BarrierArrival : Prop :=
  ∀ (s : State) (d a : Reg), Alone s → (Instr.bar d a).wf = true → s.fed [a] →
    let x := s.val a
    let trap := (.next (s.takeTrap s.core s.slot { code := 4, addr := x } s.th.pc s.th.sw) : Host.Outcome State Fault Refusal)
    (s.launchOf s.th = none → exec (.bar d a) s = trap)
    ∧ ∀ l id, s.th.launch = some id → s.launches.find? (fun y => y.1 == id) = some (id, l) →
      let b : Barrier := { id := 0, launch := id, rx := bits x 5 0, ry := bits x 11 6, lw := bits x 14 12, lh := bits x 17 15 }
      let legal := l.legal (l.x0 + b.rx) (l.y0 + b.ry) b.lw b.lh = true
        ∧ l.x0 + b.rx ≤ xOf s.th.lin ∧ xOf s.th.lin < l.x0 + b.rx + 2 ^ b.lw
        ∧ l.y0 + b.ry ≤ yOf s.th.lin ∧ yOf s.th.lin < l.y0 + b.ry + 2 ^ b.lh
      (¬legal → exec (.bar d a) s = trap)
      ∧ (legal → l.ord = false → s.barFull (hedgeOf s.core) l b = false →
        (∀ y ∈ s.barriers, y.key ≠ b.key ∧ y.id ≠ s.nextId) →
        (∀ c ∈ s.cores, ∀ y ∈ c.2.slots, ∀ h, y.2.hold = some h → h.1 ≠ .bar b.key) →
        let others := (l.members b).filter (fun m => m != (s.th.lin, s.th.k))
        ((∀ m ∈ others, m ∈ l.ended) →
          RetiresThen s { pops := portsOf [a], reg := some (d, BitVec.ofNat 64 (l.endedIn b)), warn := fallAll s.curPfx }
            (fun u => { (u.modCore s.core (fun c => c.popHeld s.th.uid)).modSlot s.core s.slot (fun y => { y with hold := none }) with
              nextId := s.nextId + 1 }) (exec (.bar d a) s))
        ∧ ((∃ m ∈ others, m ∉ l.ended) → Leaves (exec (.bar d a) s) (fun t => ∃ fx : Fx,
            t.barriers = s.barriers ++ [{ b with id := s.nextId, arrived := [(s.th.lin, s.th.k)] }]
            ∧ t.slotAt s.core s.slot = { s.slotAt s.core s.slot with hold := some (.bar b.key, fx), stalled := false } ∧ fx.dst = .reg d.toNat 64 false)))

/-- enq and deq whose header and local block pass their checks send one request to the queue's home, enq with the 64 bytes
of the item, and hold the group until the reply (R153, R154, R350). -/
def Sys2Proof.Clauses.QueueRequests : Prop :=
  ∀ (s : State) (d a b : Reg) (p : Place) (tl : List TlbEntry), Alone s → (Instr.enq d a b).wf = true → s.fed [a, b] →
    s.th.buf = [] → s.global (s.val a).toNat 64 2 = .ok p tl →
    let y := (s.val b).toNat
    localOkAt y 64 64 →
    (s.claimedL s.core y 64 = false →
      Leaves (exec (.enq d a b) s) (Requests s (portsOf [a, b]) (fallAll s.curPfx)
        (s.packet p (s.val a) (.enq ((List.range 8).map (fun i => BitVec.ofNat 64 (leNum s.seen (y + 8 * i) 8)))))
        (.reg d.toNat 64 false) tl))
    ∧ (s.lockedL s.core y 64 = false → s.storable y 64 →
      Leaves (exec (.deq d a b) s) (Requests s (portsOf [a, b]) (fallAll s.curPfx) (s.packet p (s.val a) .deq) (.item d.toNat y) tl))

/-- spawna, of the holder of the baton or of an iteration that itself runs ahead: once more in the same iteration it gives 0;
else, with room on the next core of the ring and fewer than 8 iterations, it creates the next iteration there, running ahead
from A, with the spawner's registers w1 to w27 and v0 to v7, its rounding mode, priority and remaining budget, behind the others
of the chain, and d, the child's d too, receives its number (R125, R155).
It rests on the model's choices and readings of logs 12, 63 and 64.
Completes: spawna. -/
def Obligations.SpawnAhead : Prop :=
  ∀ (s : State) (d a : Reg), (Alone s ∨ (Solo s ∧ swOrd s.th.sw = false ∧ swRa s.th.sw = true ∧ s.th.sys = false ∧ d.toNat < 28 ∧ a.toNat < 28)) →
    (Instr.spawna d a).wf = true → s.fed [a] → s.core < 4096 → s.cor.lmem.wf = true →
    let m := coreOfSlice (thicketOf s.core) ((sliceOf s.core + 1) % 8)
    let v : Word := BitVec.ofNat 64 (s.th.iter + 1)
    (s.th.spawned = true → Leaves (exec (.spawna d a) s)
      (Retires s { pops := portsOf [a], reg := some (d, 0), warn := fallAll s.curPfx }))
    ∧ (s.th.spawned = false → s.rqRoom m = true → (∀ c ∈ s.th.chain, (s.chains.get {} c).iters.length < 8) →
      Leaves (exec (.spawna d a) s) (fun t => ∃ e : RqEntry, (t.coreAt m).rq = (s.coreAt m).rq ++ [e] ∧ e.fresh = true
        ∧ e.ahead = true ∧ e.th.pc = s.val a ∧ swRa e.th.sw = true ∧ swMode e.th.sw = false ∧ swOrd e.th.sw = false
        ∧ e.th.ctx = s.th.ctx ∧ e.th.iter = s.th.iter + 1 ∧ e.th.home = m ∧ swRm e.th.sw = swRm s.th.sw ∧ e.prio = s.th.prio
        ∧ e.budget = (s.coreAt s.th.home).budget s.th.homeWp
        ∧ (∃ regs : Memory, e.regs = some regs ∧ ∀ y, ((8 ≤ y ∧ y < 224) ∨ (256 ≤ y ∧ y < 768)) → regs.read y
          = (let own := fun (z : Nat) => s.localByte s.core (wsBase s.th.wp + z)
            if 0 < d.toNat ∧ d.toNat < 28 then layBytes own (8 * d.toNat) 8 v.toNat y else own y))
        ∧ (∃ c, e.th.chain = some c ∧ (t.thAt s.core s.slot).chain = some c ∧ (∀ c' ∈ s.th.chain, c' = c)
          ∧ (t.chains.get {} c).iters = (if s.chains.has c then (s.chains.get {} c).iters else [s.th.uid]) ++ [e.th.uid])
        ∧ (t.thAt s.core s.slot).spawned = true ∧ (t.thAt s.core s.slot).pc = s.th.pc + 4
        ∧ ∀ y, t.localByte s.core y = ({ reg := some (d, v) } : Result).byte s y))

/-- baton outside a running-ahead iteration completes with warning bit 27 and nothing else; in one it begins to wait for the
baton, with its group held; scwait completes when the counter is at most A and no deferred trap is pending, waits while it is
above, and takes a pending deferred trap where the wait would end (R37, R124, R156, R157). -/
def Sys2Proof.Clauses.BatonAndCounterWait : Prop :=
  ∀ s : State,
    (Alone s → Leaves (exec .baton s) (Retires s { warn := fallAll s.curPfx ||| 0x800 }))
    ∧ (Solo s → s.th.sys = false → swRa s.th.sw = true → Leaves (exec .baton s) (fun t => ∃ fx : Fx, { t with cores := s.cores } = s
      ∧ t.slotAt s.core s.slot = { s.slotAt s.core s.slot with hold := some (.baton, fx), stalled := false }
      ∧ fx.acts = [.baton] ∧ fx.wr = [] ∧ fx.vwr = [] ∧ fx.st = [] ∧ ∀ c, c ≠ s.core → t.coreAt c = s.coreAt c))
    ∧ ∀ sc a : Reg, Alone s → (Instr.scwait sc a).wf = true → s.fed [a] →
      let c := (s.coreAt s.th.home).sc s.th.homeWp sc.toNat
      (c ≤ (s.val a).toNat → s.th.deferred = none →
        Leaves (exec (.scwait sc a) s) (Retires s { pops := portsOf [a], warn := fallAll s.curPfx }))
      ∧ ((s.val a).toNat < c → exec (.scwait sc a) s = .next (s.stallAt s.core s.slot))
      ∧ (∀ df, c ≤ (s.val a).toNat → s.th.deferred = some df → df.code ≠ 12 → df.code ≠ 11 →
        exec (.scwait sc a) s = .next (s.takeTrap s.core s.slot df.trap s.th.pc s.th.sw))

/-! ### Jobs and ordered mode -/

/-- job and job.nb with an aligned program in range and a node of 0 or aligned in range complete: with room in the queue
the job enters it with its kind, program and submitter, and d receives its identifier, whose record of an ended job is dropped;
a job with a malformed node ends at once in fault 8; job.nb on a full queue gives 0 and job waits (R244, R248, R250-R252).
Completes: job, jobNb. -/
def Obligations.JobSubmission : Prop :=
  ∀ (s : State) (kind : BitVec 3) (d a b : Reg) (nb : Bool), Alone s → (Instr.job kind d a b).wf = true → s.fed [a, b] →
    s.th.buf = [] →
    let x := s.val a
    let y := s.val b
    let i : Instr := if nb then .jobNb kind d a b else .job kind d a b
    let prog := s.readProg x.toNat 256
    let node := s.localWords y.toNat 16
    let e := fun (v : Word) => ({ pops := portsOf [a, b], reg := some (d, v), warn := fallAll s.curPfx } : Result)
    bits x 0 0 = 0 → x.toNat ≤ 131070 → (y = 0 ∨ (bits y 5 0 = 0 ∧ y.toNat + 128 ≤ 131072)) →
    (∀ z, x.toNat ≤ z → z < 131072 → s.claimedL s.core z 1 = false) → (y = 0 ∨ s.claimedL s.core y.toNat 128 = false) →
    (s.queueFull (queueAt kind.toNat s.core) = false → y ≠ 0 → s.badNode node = true →
      Leaves (exec i s) (fun t => ∃ j ∈ t.jobs, j.st = .fault ∧ j.code = 8 ∧ j.kind = kind.toNat ∧ j.ctx = s.th.ctx
        ∧ (∀ z, t.localByte s.core z = (e (BitVec.ofNat 64 j.id)).byte s z) ∧ (t.thAt s.core s.slot).pc = s.th.pc + 4))
    ∧ (s.queueFull (queueAt kind.toNat s.core) = false → (y = 0 ∨ s.badNode node = false) →
      Leaves (exec i s) (fun t => ∃ (u : State) (j : Job), Retires s (e (BitVec.ofNat 64 j.id)) u
        ∧ t.jobs = s.jobs.filter (fun x => x.holds || x.id != j.id || x.ctx != s.th.ctx) ++ [j] ∧ { t with jobs := s.jobs, jobSeq := s.jobSeq, nextId := s.nextId } = u
        ∧ j.pq = queueAt kind.toNat s.core ∧ j.kind = kind.toNat ∧ j.prog = prog.1 ∧ j.ctx = s.th.ctx ∧ j.uid = s.th.uid
        ∧ j.core = s.core ∧ j.sys = s.th.sys ∧ (j.st = .queued ∨ j.st = .held)
        ∧ (prog.2 = true → y = 0 → j.st = .queued ∧ j.pending = none ∧ j.budget = noBudget)))
    ∧ (s.queueFull (queueAt kind.toNat s.core) = true →
      (nb = true → Leaves (exec i s) (Retires s (e 0)))
      ∧ (nb = false → exec i s = .next (s.stallAt s.core s.slot)))

/-- jwait gives the status word of a job that has ended and waits while it holds a queue entry; a fault or error not yet
reported takes the job trap; jpoll gives the status word or a parameter at once; an identifier without a job gives itself;
jcancel withdraws a held or queued job (R246, R253-R255).
Completes: jwait, jpoll, jcancel. -/
def Obligations.JobQueries : Prop :=
  ∀ (s : State) (d a b : Reg), Alone s → (Instr.jwait d a).wf = true → s.fed [a] →
    let id := s.val a
    let e := fun (v : Word) => ({ pops := portsOf [a], reg := some (d, v), warn := fallAll s.curPfx } : Result)
    (s.jobOf id.toNat s.th.ctx = none → Leaves (exec (.jwait d a) s) (Retires s (e (BitVec.ofNat 64 (bits id 31 0)))))
    ∧ (∀ j, s.jobOf id.toNat s.th.ctx = some j →
      (j.holds = true → exec (.jwait d a) s = .next (s.stallAt s.core s.slot))
      ∧ (j.holds = false → ((j.st = .fault ∨ j.st = .error) → j.rep = true) → Leaves (exec (.jwait d a) s) (Retires s (e j.status)))
      ∧ (j.holds = false → (j.st = .fault ∨ j.st = .error) → j.rep = false → exec (.jwait d a) s
          = .next ((s.modJob id.toNat s.th.ctx (fun j => { j with rep := true })).takeTrap s.core s.slot
              { code := 11, addr := id } s.th.pc s.th.sw)))
    ∧ (s.fed [b] → Leaves (exec (.jpoll d a b) s) (Retires s
        { pops := portsOf [a, b], warn := fallAll s.curPfx
          reg := some (d, match s.jobOf id.toNat s.th.ctx with
            | none => if s.val b = 0 then BitVec.ofNat 64 (bits id 31 0) else 0
            | some j => if s.val b = 0 then j.status else if (s.val b).toNat ≤ 8 then j.params.get 0 ((s.val b).toNat - 1) else 0) }))
    ∧ RetiresThen s (e (boolWord (s.cancelJob id.toNat s.th.ctx).1)) (fun u => (u.cancelJob id.toNat s.th.ctx).2) (exec (.jcancel d a) s)
    ∧ ∀ j, s.jobOf id.toNat s.th.ctx = some j →
      ((s.cancelJob id.toNat s.th.ctx).1 = true ↔ j.st = .held ∨ j.st = .queued)

/-- Outside ordered mode qsync only goes on and qstat gives 0; in a quantum of an ordered launch qsync ends the quantum after
itself and qstat puts the round, the squashes, the ordinal and the quantum length into d, with bit 0 set; a port as d has room
beside the words that the quantum's services will append at its commit (R134, R222, R227, R230, R231). -/
def Sys2Proof.Clauses.OrderedModeQueries : Prop :=
  ∀ s : State,
    (Alone s → Leaves (exec .qsync s) (Retires s { warn := fallAll s.curPfx }))
    ∧ (∀ d : Reg, Alone s → (Instr.qstat d).wf = true →
      Leaves (exec (.qstat d) s) (Retires s { reg := some (d, 0), warn := fallAll s.curPfx }))
    ∧ ∀ id o, InQuantum s id o →
      Leaves (exec .qsync s) (fun t => (t.slotAt s.core s.slot).hold = some (.commit, {}) ∧ (t.thAt s.core s.slot).pc = s.th.pc + 4
        ∧ (∃ o', t.ordOf s.th.uid = some (id, o') ∧ o'.st = .ended ∧ o'.count = o.count + 1 ∧ o'.services = o.services)
        ∧ (∀ n y, t.localByte n y = s.localByte n y) ∧ t.hbm = s.hbm ∧ t.net = s.net)
      ∧ ∀ d : Reg, (Instr.qstat d).wf = true →
        (28 ≤ d.toNat → ((s.slotAt s.core s.slot).comp (d.toNat - 28)).length + o.owes (d.toNat - 28) ≤ 15) →
        Leaves (exec (.qstat d) s) (fun t => ∃ v : Word,
        (bits v 63 48 = (s.ords.get {} id).round % 65536 ∧ bits v 47 32 = min o.squashes 65535 ∧ bits v 31 30 = 0
          ∧ bits v 29 16 = o.ordinal % 2 ^ 14 ∧ bits v 15 13 = 0 ∧ bits v 12 8 = (s.ords.get {} id).lgq % 32 ∧ bits v 7 0 = 1)
        ∧ (∀ y, t.localByte s.core y = ({ reg := some (d, v) } : Result).byte s y)
        ∧ (t.thAt s.core s.slot).pc = s.th.pc + 4 ∧ t.hbm = s.hbm ∧ t.net = s.net)

/-! ### System functions and traps -/

/-- Taking a trap that is not a double trap (R349, R352): the frame in the system workspace holds PC, SW, the cause, the
trap address, the pending prefix and the workspace pointer; the thread runs in system mode in the system workspace at the
trap vector; a reported deferred record is cleared; no other byte, slot, core or memory changes. -/
def Obligations.TrapEntry : Prop :=
  ∀ (s : State) (n k : Nat) (i : TrapInfo) (pc sw : Word), s.bad = [] →
    let x := s.slotAt n k
    ¬(swMode sw = true ∧ x.th.wp = x.swp) →
    let t := s.takeTrap n k i pc sw
    let b := wsBase x.swp
    (t.slotAt n k = { x with stalled := false, th := { x.th with
        wp := x.swp, sw := 0x8000000000000000, pc := (s.hedge (hedgeOf n)).trapvec &&& 0xFFFFFFFFFFFFFFFC,
        deferred := if i.isDef then none else x.th.deferred } })
      ∧ (t.coreAt n).word (b + 784) = pc ∧ (t.coreAt n).word (b + 792) = sw
      ∧ (t.coreAt n).word (b + 800) = (fld 63 (boolWord i.isDef).toNat ||| fld 16 i.info ||| fld 8 i.acc ||| fld 0 i.code)
      ∧ (t.coreAt n).word (b + 808) = i.addr
      ∧ (t.coreAt n).word (b + 816) = (fld 63 (boolWord (swPp sw)).toNat ||| fld 0 (swPfx sw).toNat)
      ∧ (t.coreAt n).word (b + 824) = fld 10 x.th.wp
      ∧ (∀ a, ¬(b + 784 ≤ a ∧ a < b + 832) → t.localByte n a = s.localByte n a)
      ∧ (∀ j, j ≠ k → t.slotAt n j = s.slotAt n j) ∧ (∀ m, m ≠ n → t.coreAt m = s.coreAt m) ∧ { t with cores := s.cores } = s

/-- A trap in system mode with WP equal to SWP ends the task as killed: the slot is free, its launch counts the kill, and an
error record of kind 8 leaves for the error queue; only PC and SW in its workspace change (R20, R352, R361, R370). -/
def Obligations.DoubleTrap : Prop :=
  ∀ (s : State) (n k : Nat) (i : TrapInfo) (pc sw : Word),
    let x := s.slotAt n k
    swMode sw = true → x.th.wp = x.swp →
    let t := s.takeTrap n k i pc sw
    (t.slotAt n k).st = .free ∧ (∃ p : Packet, t.net = s.net ++ [p] ∧ ∃ w, p.kind = .sysm w ∧ bits (w.getD 1 0) 7 0 = 8)
      ∧ (∀ id ∈ x.th.launch, ∀ l ∈ s.launches, l.1 = id → ∃ l' ∈ t.launches, l'.1 = id ∧ l'.2.counter = l.2.counter - 1
        ∧ l'.2.kill = min 65535 (l.2.kill + 1))
      ∧ (x.pend = [] → ∀ m a, (m = n → ¬(wsBase x.th.wp + 768 ≤ a ∧ a < wsBase x.th.wp + 784)) → t.localByte m a = s.localByte m a)

/-- trap n performs its group and takes the svc trap with n as information, its own address as trap address and the next
syllable as PC; brk takes the breakpoint trap at its own address with its group unperformed (R354). -/
def Sys2Proof.Clauses.ServiceAndBreakpoint : Prop :=
  ∀ (s : State) (n : BitVec 10), Alone s →
    RetiresThen s { warn := fallControl s.curPfx }
      (fun u => u.takeTrap s.core s.slot { code := 16, info := n.toNat, addr := s.th.pc } (s.th.pc + 4) (u.thAt s.core s.slot).sw)
      (exec (.trap n) s)
    ∧ exec .brk s = .next (s.takeTrap s.core s.slot { code := 14, addr := s.th.pc } s.th.pc s.th.sw)

/-- rft in system mode with a canonical, aligned PC in its frame returns to it: PC, SW with its reserved and ra bits zero,
and WP come from the frame of the current workspace, and no memory changes (R355). -/
def Sys2Proof.Clauses.ReturnFromTrap : Prop :=
  ∀ s : State, Alone s → s.th.sys = true →
    let pc := s.wsWord 784
    let sw := s.wsWord 792
    targetOk pc.toNat →
    Leaves (exec .rft s) (fun t => let th := t.thAt s.core s.slot
      th.pc = pc ∧ th.wp = bits (s.wsWord 824) 16 10 ∧ swMode th.sw = swMode sw ∧ swRa th.sw = false
        ∧ swOrd th.sw = (!swMode sw && s.inOrdered s.th)
        ∧ (∀ i, (i ≤ 2 ∨ (8 ≤ i ∧ i ≤ 11) ∨ (16 ≤ i ∧ i ≤ 28) ∨ (40 ≤ i ∧ i ≤ 60)) → th.sw.getLsbD i = sw.getLsbD i)
        ∧ (∀ a, t.localByte s.core a = s.localByte s.core a) ∧ { t with cores := s.cores } = s
        ∧ (t.slotAt s.core s.slot).swp = (s.slotAt s.core s.slot).swp ∧ ∀ m, m ≠ s.core → t.coreAt m = s.coreAt m)

/-- swp in system mode completes: the old WP goes to d in the old workspace, WP comes from A, and SWP from B where bit 0 of
B is set (R356). -/
def Sys2Proof.Clauses.SwapWorkspaces : Prop :=
  ∀ (s : State) (d a b : Reg), Alone s → (Instr.swp d a b).wf = true → s.th.sys = true → s.fed [a, b] →
    RetiresThen s { pops := portsOf [a, b], reg := some (d, fld 10 s.th.wp), warn := fallAll s.curPfx }
      (fun u => u.modSlot s.core s.slot (fun x => { x with
        swp := if (s.val b).getLsbD 0 then bits (s.val b) 16 10 else x.swp
        th := { x.th with wp := bits (s.val a) 16 10 } }))
      (exec (.swp d a b) s)

/-- park in system mode keeps the thread of a user-mode frame under the key A[31:0] with the frame's PC, SW and workspace and
frees the slot; resume takes the parked thread of a key, the one of the lowest workspace where several have it: it puts it into
the run queue ahead of its priority and gives 1, waits without room there, or with bit 0 of B ends the task as killed and gives
2; it gives 0 where none is parked (R358-R360). -/
def Sys2Proof.Clauses.ParkAndResume : Prop :=
  ∀ (s : State), Alone s → s.th.sys = true →
    (∀ a : Reg, (Instr.park a).wf = true → s.fed [a] →
      (swMode (s.wsWord 792) = false →
        Leaves (exec (.park a) s) (fun t => (t.slotAt s.core s.slot).st = .free ∧ ∃ x : Parked, (t.coreAt s.core).park = x :: s.cor.park
          ∧ x.key = (s.val a).extractLsb' 0 32 ∧ x.th.uid = s.th.uid ∧ x.th.homeWp = bits (s.wsWord 824) 16 10
          ∧ (t.coreAt s.core).word (wsBase (bits (s.wsWord 824) 16 10) + 768) = s.wsWord 784
          ∧ (t.coreAt s.core).word (wsBase (bits (s.wsWord 824) 16 10) + 776) = s.wsWord 792))
      ∧ (swMode (s.wsWord 792) = true →
        exec (.park a) s = .next (s.takeTrap s.core s.slot { code := 4, addr := s.wsWord 824 } s.th.pc s.th.sw)))
    ∧ ∀ d a b : Reg, (Instr.resume d a b).wf = true → s.fed [a, b] →
      let key : BitVec 32 := (s.val a).extractLsb' 0 32
      let e := fun (v : Word) => ({ pops := portsOf [a, b], reg := some (d, v), warn := fallAll s.curPfx } : Result)
      ((∀ x ∈ s.cor.park, x.key ≠ key) → Leaves (exec (.resume d a b) s) (Retires s (e 0)))
      ∧ ∀ x ∈ s.cor.park, x.key = key → (∀ y ∈ s.cor.park, y.key = key → y ≠ x → x.th.homeWp < y.th.homeWp) →
        ((s.val b).getLsbD 0 = false → s.rqRoom s.core = true →
          Leaves (exec (.resume d a b) s) (fun t => ∃ q : RqEntry, (t.coreAt x.th.home).rq = (s.coreAt x.th.home).rq ++ [q] ∧ q.ahead = true
            ∧ q.fresh = false ∧ q.th.uid = x.th.uid ∧ q.th.pc = x.th.pc ∧ x ∉ (t.coreAt s.core).park
            ∧ ∀ y, t.localByte s.core y = (e 1).byte s y))
        ∧ ((s.val b).getLsbD 0 = false → s.rqRoom s.core = false → exec (.resume d a b) s = .next (s.stallAt s.core s.slot))
        ∧ ((s.val b).getLsbD 0 = true → Leaves (exec (.resume d a b) s) (fun t => x ∉ (t.coreAt s.core).park
            ∧ ∀ y, t.localByte s.core y = (e 2).byte s y))

/-- A system-only instruction in user mode takes the privilege trap at its own address and has no effect (R33, R353). -/
def Sys2Proof.Clauses.SystemOnly : Prop :=
  ∀ (s : State) (i : Instr), Alone s → s.th.sys = false →
    ((∃ d a b, s.fed [a, b] ∧ (i = .swp d a b ∨ i = .resume d a b)) ∨ (∃ a, s.fed [a] ∧ i = .park a) ∨ i = .rft) →
    exec i s = .next (s.takeTrap s.core s.slot { code := 3, addr := s.th.pc } s.th.pc s.th.sw)

/-! ### Engine words -/

/-- Each stack word of class 0 completes: its operands are replaced by its results and the next word begins; ldp pushes
and stp sets the parameter word named mod 8; skz skips the next word on zero; nothing but the job changes (R256, R258). -/
def Sys2Proof.Clauses.EngineStackWords : Prop :=
  ∀ (s : State) (j : Job) (rest : List Word),
    (∀ (i : Instr) (ops out : List Word), stackRule i ops = some out → Working s j 0 ops rest out.length →
      exec i s = s.worked j (out.reverse ++ rest))
    ∧ (∀ k : Word, Working s j 0 [k] rest 1 → exec .ldp s = s.worked j (j.params.get 0 (k.toNat % 8) :: rest))
    ∧ (∀ v k : Word, Working s j 0 [v, k] rest → exec .stp s = s.worked { j with params := j.params.set (k.toNat % 8) v } rest)
    ∧ ∀ v : Word, Working s j 0 [v] rest →
      exec .skz s = if v = 0 then .next (s.putJob { j.goesOn rest with ip := j.ip + 2 }) else s.worked j rest

/-- sig waits while writes of the job are unacknowledged, and then sends the signal notice to port 2 of the submitting
core; end ends a job without open rows in state done, and faults with code 29 while rows are open (R247, R258, R315). -/
def Sys2Proof.Clauses.EngineSignalAndEnd : Prop :=
  ∀ (s : State) (j : Job) (rest : List Word),
    (∀ v : Word, Working s j 0 [v] rest →
      (s.jobTraffic j = true → exec .sig s = .next s)
      ∧ (s.jobTraffic j = false → (∀ o ∈ s.ords, ∀ x ∈ o.2.tasks, x.uid ≠ j.uid) → (∀ n ∈ s.notices, ¬(n.1 = j.core ∧ n.2.1 = 2)) →
        (s.coreAt j.core).rx2.length < 128 →
        exec .sig s = .next ((s.putJob (j.goesOn rest)).modCore j.core (fun c =>
          { c with rx2 := c.rx2 ++ [fld 60 15 ||| fld 32 (bits v 27 0) ||| fld 0 j.id] }))))
    ∧ (Working s j 0 [] rest →
      (j.rt.opens = [] → exec .end_ s = .next (s.putJob { j with pending := some 4, finished := true, stack := [] }))
      ∧ (j.rt.opens ≠ [] → Leaves (exec .end_ s) (fun t => ∃ j', t = s.putJob j' ∧ j'.order = j.order ∧ j'.pending = some 6 ∧ j'.code = 29
          ∧ j'.word = j.ip ∧ j'.finished = true)))

/-- An engine word of a class that the job's kind does not serve faults with code 3, one that pops more than the stack
holds with code 6, one that pushes past 8 words with code 5, at its own index, and nothing else changes (R256, R257, R259).
The order among these codes is the model's choice (log 72). -/
def Obligations.EngineWordFaults : Prop :=
  ∀ (s : State) (i : Instr) (j : Job) (c p q : Nat), engineShape i = some (c, p, q) → s.jobNo s.job = some j → j.live = true →
    let fails := fun (code : Nat) =>
      (.next (s.putJob { j with pending := some 6, code := code, word := j.ip, finished := true }) : Host.Outcome State Fault Refusal)
    (serves j.kind c = false → exec i s = fails 3)
      ∧ (serves j.kind c = true → j.stack.length < p → exec i s = fails 6)
      ∧ (serves j.kind c = true → p ≤ j.stack.length → 8 < j.stack.length - p + q → exec i s = fails 5)

/-- Each word that only sets registers of its job completes where its operands lie within their limits: the registers hold
the operands' fields and the next word begins (R263, R270, R287, R290, R309, R325, R330, R331, R335); cl.grp does so with the
group table it has read (R336).
Completes: mmFmt, mmScale, mmGeo, mmA, mmB, mmAcc, mmRound, mmDrain, mmDrainla, mmDrainmb, bfLen, bfSched, cpDim,
cpCvt, cpClr, rtCfg, rtBind, clGrp, clRs, clAg, clChain, lgGate. -/
def Obligations.EngineRegisterWords : Prop :=
  ∀ (s : State) (j : Job) (rest : List Word),
    (∀ (i : Instr) (ops : List Word) (c : Nat) (j' : Job), wordRule j i ops = some (c, j') → Working s j c ops rest →
      exec i s = s.worked j' rest)
    ∧ ∀ (tbl g me gid : Word) (b : List Byte), Working s j 5 [tbl, g, me, gid] rest → j.cl.went = false → j.cl.cur.hasGrp = false →
      g.toNat ≤ 7 → me.toNat < 2 ^ g.toNat → gid.toNat < 65536 → s.eRead j tbl.toNat (2 * 2 ^ g.toNat) = .ok b →
      let es := (List.range (2 ^ g.toNat)).map (fun r => ofBytes ((b.drop (2 * r)).take 2))
      (∀ e ∈ es, e < 512 ∧ s.reachable (e % 128) = true) → distinct es = true → es.getD me.toNat 512 = s.pkgNo + 128 * dieOf j.lin →
      exec .clGrp s = s.worked { j with cl := j.cl.setCur { j.cl.cur with
        grp := es, g := g.toNat, me := me.toNat, gid := gid.toNat, hasGrp := true } } rest

/-- bf.stage, bf.pass, bf.twid, bf.cmul and bf.load complete on a job with a plan: the tile register holds the rounded
points and the exponent of its rule, every other byte of the tile store as before, and the job records the saturation mask,
P6, P7 and the flags (R285, R289-R291, R294, R296, R297). -/
def Sys2Proof.Clauses.TileWords : Prop :=
  ∀ (s : State) (j : Job) (i : Instr) (p tr : Nat) (x : TileOut) (ops rest : List Word), j.plan = some p →
    tileRule s j p i ops = some (tr, x) → Working s j 2 ops rest →
    let mask := if x.sat then j.satMask ||| 2 ^ tr else j.satMask
    let j' := { j with
      satMask := mask, fl := j.fl.or { of := x.sat, nx := x.nx }
      params := (j.params.set 6 (BitVec.ofNat 64 mask)).set 7 (BitVec.ofInt 64 x.t) }
    Leaves (exec i s) (fun t => t.jobs = (s.putJob (j'.goesOn rest)).jobs ∧ { t with jobs := s.jobs, thickets := s.thickets } = s
      ∧ (∀ k, k ≠ thicketOf j.core → t.thicket k = s.thicket k)
      ∧ (t.tiles j).1 = tileSet (s.tiles j).1 tr x.pts ∧ (t.tiles j).2.get 0 tr = x.t
      ∧ ∀ a, ¬(32768 * tr ≤ a ∧ a < 32768 * tr + 8 * x.pts.length) → (t.tiles j).1.read a = (s.tiles j).1.read a)

/-- bf.load of operands within limits and a canonical span whose translations are at hand first locks the local ranges of its
own thicket that it is to read, and its points are read after that (R186, R218, R294, R298). -/
def Sys2Proof.Clauses.TileLoadBegins : Prop :=
  ∀ (s : State) (j : Job) (tr a q f : Word) (rest : List Word) (p w c : Nat) (e : Elt), j.plan = some p →
    Working s j 2 [tr, a, q, f] rest → pointFmt (bits f 2 0) = some (e, w, c) →
    moveOk tr.toNat a q.toNat f.toNat = true → bits f 15 7 = 0 → bits f 63 32 = 0 →
    spanBad a.toNat q.toNat (planLen p) (w * c) = false → j.ph = .start →
    let src := (List.range (planLen p)).map (fun i => (((a.toNat + i * q.toNat : Nat) : Int), w * c))
    s.awaited j 1 src = none →
    exec .bfLoad s = .next (s.putJob { j with ph := .active, fetched := [], locks := s.rangesLocks j src })

/-- A launch word whose unit in progress has writes to make makes the first of them and nothing else: the bytes go to their
place, P5 and P6 become what the write says, and a claim on a sector that is not written again ends (R215, R257, R259). -/
def Sys2Proof.Clauses.EngineWrites : Prop :=
  ∀ (s : State) (j : Job) (i : Instr) (c p q : Nat) (ops rest : List Word), launchWord i = true → engineShape i = some (c, p, q) →
    ops.length = p → Working s j c ops rest →
    ∀ (n : Nat) (dest : OutTo) (bs : List Byte) (p5 p6 : Option Nat) (free : Option ClaimKey) (r : List OutPiece) (u : State),
      j.out = some (n, .bytes dest bs p5 p6 free :: r) → s.writeTo j dest bs = .ok u →
      exec i s = .next (u.putJob (j.wrote n p5 p6 free r))

/-- bf.store of operands within limits and a canonical span claims its destination, then writes every point converted in
ascending order, one write at a time, with the flags raised, then waits for the acknowledgements, sets P6 and P7 and ends
(R293, R295, R298). -/
def Sys2Proof.Clauses.TileStore : Prop :=
  ∀ (s : State) (j : Job) (tr a q f : Word) (rest : List Word) (p w c : Nat) (e : Elt), j.plan = some p →
    Working s j 2 [tr, a, q, f] rest → pointFmt (bits f 2 0) = some (e, w, c) →
    moveOk tr.toNat a q.toNat f.toNat = true → bits f 31 7 = 0 → bits f 5 4 ≠ 3 →
    let at_ := fun (i : Nat) => ((a.toNat + i * q.toNat : Nat) : Int)
    let out := storePoints p f.toNat (s.tileIn j p tr.toNat) e c
    (j.ph = .start → spanBad a.toNat q.toNat (planLen p) (w * c) = false →
      let dst := (List.range (planLen p)).map (fun i => (at_ i, w * c))
      s.awaited j 2 dst = none → exec .bfStore s = .next (s.begun { j with fetched := [] } (s.claimsOf j dst) []))
    ∧ (j.ph = .active → j.out = none →
      Emits s { j with fl := j.fl.or out.2 } 0 [] (cuts (out.1.zipIdx.map (fun b => (OutTo.va (at_ b.2), b.1)))) (exec .bfStore s))
    ∧ (∀ n dest bs p5 p6 free r u, j.ph = .active → j.out = some (n, .bytes dest bs p5 p6 free :: r) → s.writeTo j dest bs = .ok u →
      exec .bfStore s = .next (u.putJob (j.wrote 0 p5 p6 free r)))
    ∧ (∀ n, j.ph = .active → j.out = some (n, []) → exec .bfStore s = .next (s.putJob { j with ph := .draining, out := none }))
    ∧ (j.ph = .draining → s.jobTraffic j = false → j.held = [] →
      exec .bfStore s = s.worked { j with
        params := (j.params.set 6 (BitVec.ofNat 64 j.satMask)).set 7 (BitVec.ofInt 64 ((s.tiles j).2.get 0 tr.toNat)) } rest)

/-- cp.go, cp.fill, cp.gath and cp.scat: a launch that passes its checks and whose translations are at hand reads its index list,
claims its destinations, locks its local sources and sets P5, and P6 of an indexed one, to zero; a chunk whose reads are complete writes every element converted, in order of lin, after all its reads, each write with P5
counting the elements; after the last write the word ends (R257, R329-R334).
It rests on the model's choices and readings of logs 35 and 38.
Completes: cpGo, cpFill, cpGath, cpScat. -/
def Obligations.CopyLaunches : Prop :=
  ∀ (s : State) (j : Job) (i : Instr) (a : CpArgs) (ops rest : List Word), copyRule i ops = some a → Working s j 3 ops rest →
    let indexed := a.kind = .gath ∨ a.kind = .scat
    let eo := if indexed then ((j.dims.getLast?).map (fun d => d.ext)).getD 0 else 0
    let n := min (4096 / max 1 a.esz) (cpTotal j.dims - j.unitIdx)
    (∀ b : List Byte, j.ph = .start → j.idle → j.cpCheck a = none → s.eRead j a.idx (4 * eo) = .ok b →
      let idx := (List.range eo).map (fun k => ofBytes ((b.drop (4 * k)).take 4))
      j.cpBoundsOk a idx = true →
      let j' := { j with idxs := idx }
      s.awaited j' 2 (j'.cpDests a 0) = none → s.awaited j' 1 (j'.cpSrcs a 0) = none →
      exec i s = .next (s.begun { j' with
        fetched := []
        params := if indexed then (j.params.set 5 0).set 6 0 else j.params.set 5 0 } (s.cpClaims j' a 0) (s.cpLocks j' a 0)))
    ∧ (∀ vs : List (List Byte × Flags), j.ph = .active → j.out = none → j.unitIdx < cpTotal j.dims →
      (j.cpElts a j.unitIdx n).mapM (s.cpValue j a) = .ok vs →
      Emits s { j with fl := j.fl.or (joinFlags (vs.map (fun v => v.2))) } (j.unitIdx + n) (s.cpClaims j a (j.unitIdx + n))
        (((j.cpElts a j.unitIdx n).zip vs).flatMap (fun x => cut (.va x.1.dst) x.2.1 (some (x.1.lin + 1))
          (if indexed then some (j.cpSkipped (x.1.lin + 1)) else none))) (exec i s))
    ∧ (∀ k, j.ph = .active → j.out = some (k, []) →
      Leaves (exec i s) (fun t => ∃ j', t = s.putJob j' ∧ j'.order = j.order ∧ j'.unitIdx = k ∧ j'.out = none ∧ j'.fetched = []
        ∧ j'.params.get 0 5 = BitVec.ofNat 64 k ∧ j'.locks = s.cpLocks j a k ∧ j'.ip = j.ip ∧ j'.stack = j.stack ∧ j'.fl = j.fl))
    ∧ (j.ph = .active → j.out = none → cpTotal j.dims ≤ j.unitIdx → exec i s = s.worked j rest)

/-- mm.run and mm.ring: a launch that passes the checks of R272 and whose translations are at hand begins with the claims of its drain and the locks of its
local operands; block step u takes block round u / ceil(N/8) and the u mod ceil(N/8)-th eight columns: once its operands are read,
each row's sums are the exact sums of products, over the accumulators in the first round where asked; they stay in the
accumulators in the last block of a slice where asked, else they drain, slice by slice and row by row; it counts in P5 once its
writes are made; after the last block step the group ends, and the word with it (R266, R268, R272-R274). -/
def Sys2Proof.Clauses.MatrixLaunches : Prop :=
  ∀ (s : State) (j : Job) (i : Instr) (kind : MmKind) (rest : List Word),
    ((i = .mmRun ∧ kind = .run) ∨ (i = .mmRing ∧ kind = .ring)) → Working s j 1 [] rest → j.idle →
    let r := j.mm
    let g : MmGroup := { arow := 0, rows := r.m, crow := 0, path := r.path, bb := r.bb }
    let steps := (((r.m + 7) / 8 + 3) / 4) * ((r.n + 7) / 8)
    (j.ph = .start → s.mmCheck j kind = none → r.m ≠ 0 → r.n ≠ 0 →
      let j' := { j with gIdx := 0, unitIdx := 0, stopped := false, fetched := [], mm := { r with launched := true, steps := 0 } }
      s.awaited j 1 (s.mmBRanges j' kind 0 0 0) = none →
      exec i s = .next (s.begun j' (s.mmClaims j' kind) (s.mmRanges j' kind 0 0 0)))
    ∧ (j.ph = .active → j.gIdx = 0 → r.m ≠ 0 → r.begun = false → exec i s = .next (s.putJob { j with mm := { r with begun := true } }))
    ∧ (∀ (ta tb : Elt) (cols rows : Nat → List Byte × List Byte), j.ph = .active → j.gIdx = 0 → j.unitIdx < steps → r.begun = true →
      j.out = none → 1 ≤ r.m → r.keep = false → mmFmts r.fmt = some (ta, tb) →
      let r0 := j.unitIdx / ((r.n + 7) / 8)
      let n0 := 8 * (j.unitIdx % ((r.n + 7) / 8))
      let w := min 8 (r.n - n0)
      (∀ c, c < w → s.mmColumn j kind g (n0 + c) = .ok (cols c).1 ∧ s.mmColScales j r.k (n0 + c) = .ok (cols c).2) →
      (∀ x, 32 * r0 ≤ x → x < 32 * r0 + 32 → x < r.m → s.sliceRead j (x % 8) (r.aAddr x) (rowBytes r.k r.w) = .ok (rows x).1
        ∧ s.sliceRead j (x % 8) (r.sa + x / 8 * r.sas) (r.scaleBytes r.k) = .ok (rows x).2) →
      let at_ := fun (x c : Nat) => 32 * (x % 8) + 8 * (x / 8 % 4) + c
      let sum := fun (x c : Nat) =>
        let l0 : LaVal := if r.accIn = true ∧ r0 = 0 then laDecode ((s.thicket (thicketOf j.core)).acc j.ctx (at_ x c)) else .fin 0
        (mmDot ta tb r.smode r.k l0 (rows x).1 (cols c).1 (rows x).2 (cols c).2).1
      let held := fun (x : Nat) => r.accOut = true ∧ r.m ≤ 32 * (r0 + 1) + x % 8
      let order := (List.range 8).flatMap (fun t => ((List.range 4).map (fun e => 32 * r0 + 8 * e + t)).filter (fun x => decide (x < r.m)))
      Leaves (exec i s) (fun t => (∀ x c, 32 * r0 ≤ x → x < 32 * r0 + 32 → x < r.m → c < w → held x →
          (t.thicket (thicketOf j.core)).acc j.ctx (at_ x c) = laEncode (sum x c))
        ∧ t.hbm = s.hbm ∧ (∀ m y, t.localByte m y = s.localByte m y)
        ∧ ∃ (j' : Job) (qs : List OutPiece), t.jobs = (s.putJob j').jobs ∧ j'.order = j.order ∧ j'.unitIdx = j.unitIdx
          ∧ j'.out = some (j.unitIdx + 1, qs) ∧ qs.map OutPiece.bare
            = order.flatMap (fun x => if held x then [] else ((j.drainRow x n0 ((List.range w).map (sum x))).1).map OutPiece.bare)))
    ∧ (∀ n, j.ph = .active → j.gIdx = 0 → r.m ≠ 0 → r.begun = true → j.unitIdx < steps → j.out = some (n, []) →
      Leaves (exec i s) (fun t => ∃ j', t = s.putJob j' ∧ j'.order = j.order ∧ j'.unitIdx = n ∧ j'.out = none
        ∧ j'.mm = { r with steps := r.steps + 1 } ∧ j'.params.get 0 5 = BitVec.ofNat 64 (r.steps + 1)))
    ∧ (j.ph = .active → j.gIdx = 0 → j.unitIdx = steps → r.m ≠ 0 → r.begun = true →
      exec i s = .next (s.putJob { j with gIdx := 1, unitIdx := 0, mm := { r with begun := false, pinned := false } }))
    ∧ (j.ph = .active → j.gIdx = 1 → r.mode % 64 = 0 → exec i s = s.worked j rest)

/-- What a row's sums drain to (R278-R281). mm.drain: at the offset of the row the elements of the output format, each rounded once
under the mode, saturation and seed of mm.round with index c * N + n mod 2^32, packed from the lowest bit, no bit beyond them.
mm.drainla: 80 bytes for each sum, added to those in memory where asked. mm.drainmb: one score message of the best min(k, 8) of
the rounded scores, highest first and equal ones by lower expert, then sentinels, for token tok0 + c mod 2^32. -/
def Sys2Proof.Clauses.DrainRows : Prop :=
  ∀ (j : Job) (c n0 : Nat) (ls : List LaVal),
    let r := j.mm
    let o := fun (n : Nat) => ({ rm := if r.rm / 16 % 4 = 2 then 4 else r.rm / 16 % 4, sat := r.rm / 64 % 2 == 1, seed := r.seed
                                 idx := (c * r.n + n) % 2 ^ 32 } : Rnd)
    let row := r.dst % 131072 + (if r.mode / 64 % 2 = 1 then c / 8 else c) * r.str
    let out := (j.drainRow c n0 ls).1
    (∀ t : Elt, r.drain = 1 → mmOut r.rm = some t → ∃ bs : List Byte, out = cut (.row c (row + n0 * t.w / 8)) bs
      ∧ bs.length = (ls.length * t.w + 7) / 8 ∧ ofBytes bs < 2 ^ (ls.length * t.w)
      ∧ ∀ (i : Nat) (l : LaVal), ls[i]? = some l → ofBytes bs / 2 ^ (i * t.w) % 2 ^ t.w = (laRound l t (o (n0 + i))).1 % 2 ^ t.w)
    ∧ (r.drain = 2 → out = if r.mode / 128 = 1 then [.sum c (row + 80 * n0) (ls.map laEncode)]
        else cut (.row c (row + 80 * n0)) (ls.flatMap (fun l => toBytes 80 (laEncode l).toNat)))
    ∧ (r.drain = 3 → let t := (r.tok0 + c) % 2 ^ 32
      ∃ u : List (BitVec 128), u.Perm (ls.zipIdx.map (fun x =>
          canonScore (mkEntry (laRound x.1 (.flt .fp32) (o (n0 + x.2))).1 (r.ex0 + n0 + x.2) 0 t 0)))
        ∧ u.Pairwise (fun x y => entRank y < entRank x ∨ (entRank x = entRank y ∧ entExpert x ≤ entExpert y))
        ∧ out = [.score t ((u ++ List.replicate 8 (mkEntry 0xFF800000 0xFFFF 0 t 0)).take (min r.mbK 8))])

/-- mm.gmm with an aligned, canonical record that is well formed and passes its checks begins with the record's groups, once the
translations of its B are at hand; an
active launch asks once, before it reads anything of a group, whether the group is late, skips a late one and counts it in P6
and P7, and ends when its groups are done (R275, R276). -/
def Sys2Proof.Clauses.GroupedLaunch : Prop :=
  ∀ (s : State) (j : Job) (sr : Word) (rest : List Word), Working s j 1 [sr] rest → j.idle →
    let late := fun (g : MmGroup) => j.stopped = true ∨ (g.budget ≠ 0xFFFFF ∧ g.budget ≤ j.usRun)
    (∀ w : List Nat, j.ph = .start → canonical sr = true → bits sr 4 0 = 0 → s.mmCheck { j with idxs := [] } .gmm = none →
      s.readShape j sr.toNat = .ok w → shapeBad w = false → s.mmCheck { j with idxs := w } .gmm = none →
      s.awaited { j with idxs := w } 1 (s.mmBRanges { j with
        idxs := w, gIdx := 0, unitIdx := 0, stopped := false, fetched := [], mm := { j.mm with launched := true, steps := 0 }
        params := (j.params.set 6 0).set 7 0 } .gmm 0 0 0) = none →
      Leaves (exec .mmGmm s) (fun t => ∃ j', t = { s.putJob j' with nextId := s.nextId + 1 } ∧ j'.order = j.order ∧ j'.idxs = w ∧ j'.gIdx = 0 ∧ j'.unitIdx = 0
        ∧ j'.mm.launched = true ∧ j'.params.get 0 6 = 0 ∧ j'.params.get 0 7 = 0 ∧ j'.ph ≠ .start))
    ∧ (∀ g, j.ph = .active → (j.mmGroups .gmm)[j.gIdx]? = some g → g.rows ≠ 0 → j.mm.begun = false → late g →
      Leaves (exec .mmGmm s) (fun t => ∃ j', t = s.putJob j' ∧ j'.order = j.order ∧ j'.gIdx = j.gIdx + 1 ∧ j'.unitIdx = 0
        ∧ j'.params.get 0 6 = j.params.get 0 6 + 1
        ∧ j'.params.get 0 7 = (if j.gIdx < 64 then j.params.get 0 7 ||| fld j.gIdx 1 else j.params.get 0 7)))
    ∧ (∀ g, j.ph = .active → (j.mmGroups .gmm)[j.gIdx]? = some g → g.rows ≠ 0 → j.mm.begun = false → ¬late g →
      exec .mmGmm s = .next (s.putJob { j with mm := { j.mm with begun := true } }))
    ∧ (j.ph = .active → (j.mmGroups .gmm)[j.gIdx]? = none → (j.mm.drain ≠ 1 ∧ j.mm.drain ≠ 2) →
      exec .mmGmm s = s.worked j rest)

/-- rt.cap writes the header and notify word of each expert in turn; rt.run takes its rows by threads and moves one of them
at a step, ends at once with rows open, else through the notifies; rt.emit with no open row does nothing, goes on with an open
row whose walk goes on, and settles the rows when no target is left; each ends once its writes are acknowledged, the passes
with the counts in P5, P6 and P7 (R308-R312, R315, R317, R318). -/
def Sys2Proof.Clauses.RouterWords : Prop :=
  ∀ (s : State) (j : Job) (a b c : Word) (rest : List Word), Working s j 4 [a, b, c] rest → j.rtCheck true = none → j.idle →
    let cnt := fun (k : Nat) => j.rt.counts.getD k 0
    let counted := { j with params := ((j.params.set 5 (BitVec.ofNat 64 (cnt 2 + cnt 3))).set 6 (BitVec.ofNat 64 (cnt 5))).set 7 (BitVec.ofNat 64 (cnt 6)) }
    (1 ≤ b.toNat → a.toNat + b.toNat ≤ j.rt.nexp → c.toNat < 2 ^ 32 →
      (∀ d j1, j.out = none → j.unitIdx < b.toNat → s.rtDesc j (a.toNat + j.unitIdx) = .ok (d, j1) →
        exec .rtCap s = .next (s.putJob { j1 with out := some (j.unitIdx + 1,
          cut (.list (descPkg d) (j.rt.tab + 64 * (a.toNat + j.unitIdx))) (toBytes 8 (c.toNat * 2 ^ 32) ++ toBytes 8 0)) }))
      ∧ (∀ n, j.out = some (n, []) → exec .rtCap s = .next (s.putJob { j with unitIdx := n, out := none, fetched := [] }))
      ∧ (j.out = none → b.toNat ≤ j.unitIdx → s.jobTraffic j = false → exec .rtCap s = s.worked j rest))
    ∧ (a.toNat ≤ 1023 → 1 ≤ b.toNat → a.toNat + b.toNat ≤ 1024 → c.toNat < 4 →
      (j.ph = .start → Leaves (exec .rtRun s) (fun t => ∃ j', t = (s.modPkg (fun p => { p with rtRuns := p.rtRuns + 1 })).putJob j'
        ∧ j'.order = j.order ∧ j'.ph = .active ∧ j'.rt.mode = c.toNat ∧ j'.rt.opens = j.rt.opens ∧ j'.rt.base = j.rt.opens.length
        ∧ (∀ h, (∃ t ∈ j'.rt.threads, h ∈ t.rows) ↔ a.toNat ≤ h ∧ h < a.toNat + b.toNat)
        ∧ (∀ t ∈ j'.rt.threads, t.row = none ∧ t.rows ≠ [] ∧ t.rows.Pairwise (· < ·)
          ∧ (2 ≤ c.toNat → j'.rt.threads = [t]) ∧ (c.toNat < 2 → ∃ k, k < 8 ∧ ∀ h ∈ t.rows, h % 8 = k))))
      ∧ (∀ k x, j.ph = .active → j.rt.threads ≠ [] → s.stopLin j.ctx j.lin = false → s.choice j.rt.threads.length = k →
        s.dropChoice.rtThreadStep j (j.rt.threads.getD k {}) = x → x.err = none →
        Leaves (exec .rtRun s) (fun t => ∃ j', t = x.s.putJob j' ∧ j'.rt.counts = x.j.rt.counts ∧ j'.fl = x.j.fl ∧ j'.out = x.j.out
          ∧ j'.ip = x.j.ip))
      ∧ (j.ph = .active → j.rt.threads = [] → j.rt.base < j.rt.opens.length →
        exec .rtRun s = s.worked { j with rt := { j.rt with passes := j.rt.passes + 1 } } rest)
      ∧ (j.ph = .active → j.rt.threads = [] → j.rt.opens.length ≤ j.rt.base →
        exec .rtRun s = .next (s.putJob { j with rt := { j.rt with notifyAt := 0, sweeps := 1 }, ph := .draining }))
      ∧ (j.ph = .draining → s.jobTraffic j = false → j.rt.nexp ≤ j.rt.notifyAt → j.rt.sweeps ≤ 1 → exec .rtRun s = s.worked counted rest))
    ∧ (canonical a = true → bits a 5 0 = 0 → bits b 5 0 = 0 → 64 ≤ c.toNat → c.toNat ≤ 65536 → bits c 5 0 = 0 →
      (j.ph = .start → j.rt.opens = [] → exec .rtEmit s = s.worked j rest)
      ∧ (j.ph = .start → j.rt.opens ≠ [] → exec .rtEmit s = .next (s.putJob { j with rt := { j.rt with notifyAt := 0 }, ph := .active }))
      ∧ (∀ k x, j.ph = .active →
        (j.rt.busyOpen = some k ∨ (j.rt.busyOpen = none ∧ j.rt.target 0 = none ∧ j.rt.target j.rt.notifyAt = none ∧ j.rt.opens ≠ [] ∧ k = 0)) →
        s.rtThreadStep j (j.rt.opens.getD k {}) = x → x.err = none →
        exec .rtEmit s = .next (x.s.putJob (x.j.openPut k x.t)))
      ∧ (j.ph = .active → j.rt.opens = [] →
        exec .rtEmit s = .next (s.putJob { j with rt := { j.rt with notifyAt := 0, sweeps := j.rt.passes, passes := 0 }, ph := .draining }))
      ∧ (j.ph = .draining → s.jobTraffic j = false → j.rt.nexp ≤ j.rt.notifyAt →
        (1 < j.rt.sweeps → exec .rtEmit s = .next (s.putJob { j with rt := { j.rt with notifyAt := 0, sweeps := j.rt.sweeps - 1 } }))
        ∧ (j.rt.sweeps ≤ 1 → exec .rtEmit s = s.worked counted rest)))

/-- rt.stat at an aligned canonical address writes the seven counters and the two window counts as 64 bytes, and ends once
they are acknowledged (R318). -/
def Sys2Proof.Clauses.RouterCounters : Prop :=
  ∀ (s : State) (j : Job) (a : Word) (rest : List Word), Working s j 4 [a] rest → canonical a = true → bits a 5 0 = 0 →
    let cnt := fun (k : Nat) => j.rt.counts.getD k 0
    (j.out = none → exec .rtStat s = .next (s.putJob { j with out := some (0, cut (.list none a.toNat)
        (((List.range 7).map cnt ++ [cnt 7 % 2 ^ 32 + 2 ^ 32 * (cnt 8 % 2 ^ 32)]).flatMap (fun w => toBytes 8 w))) }))
    ∧ (∀ n, j.out = some (n, []) → s.jobTraffic j = false → exec .rtStat s = s.worked j rest)

/-- One step of a binning thread. A thread takes the next hedge row: off, it is only counted; with w = 1 it waits for the row;
else it reads the entries, with as many needed as the policy names, unless all are sentinels (R311). While more are needed and
the policy goes on, the next entry in row order is tried: an expert out of range or the residual one is bad; else the expert and,
under a replica policy, its replicas are candidates in order: one on another package defers the choice with the rest, one whose
header has a unit left admits it at the slot its old word gives, one that is full leaves the next, and with none left the entry is
refused (R312). A row that ends short asks once for a residual unit, which may be lost. Weights are the scores, or each score
over their exact sum rounded once (R313). -/
def Sys2Proof.Clauses.RouterChoices : Prop :=
  (∀ (s : State) (j : Job) (t : RtThread),
    let r := s.rtThreadStep j t
    let rt := j.rt
    let hdr := fun (e : Nat) => rt.tab + 64 * e
    let far := fun (d : List Word) => (d.getD 5 0).getLsbD 39
    let live := t.entries.filter (fun e => entExpert e != 0xFFFF)
    let goes := 0 < t.need ∧ t.i < live.length ∧ (rt.pol % 2 = 1 ∨ t.i < rt.pol / 16)
    let short := fun (pos : Nat) => t.refused.or (some pos)
    (∀ (h : Nat) (tl : List Nat), t.row = none → t.rows = h :: tl →
      let n := j.rtCore h
      let c := s.coreAt n
      let w := c.rows.get 0 (h % 64)
      (c.mben = false → r.s = s ∧ r.err = none ∧ r.j = (j.rtCount 0 1).rtCount 1 1 ∧ r.t = { t with rows := tl })
      ∧ (c.mben = true → rt.mode % 2 = 1 → w.getLsbD 0 = false → bits w 47 32 ≠ 0 → r.s = s ∧ r.err = some .wait ∧ r.j = j ∧ r.t = t)
      ∧ (c.mben = true → (rt.mode % 2 = 0 ∨ w.getLsbD 0 = true ∨ bits w 47 32 = 0) → s.isBad 0 n (c.entryAt (h % 64) 0) (16 * c.mbdepth) = false →
        r.s = s ∧ r.err = none ∧ r.j = (if w.getLsbD 0 then j.rtCount 0 1 else (j.rtCount 0 1).rtCount 1 1)
        ∧ ((∀ e ∈ c.rowEntries (h % 64), entExpert e = 0xFFFF) → r.t = { t with rows := tl })
        ∧ ((∃ e ∈ c.rowEntries (h % 64), entExpert e ≠ 0xFFFF) → r.t.row = some h ∧ r.t.rows = tl ∧ r.t.entries = c.rowEntries (h % 64)
          ∧ r.t.arr = bits w 63 48 ∧ r.t.need = rt.pol / 16 ∧ r.t.i = 0 ∧ r.t.cand = 0 ∧ r.t.adm = [] ∧ r.t.outs = [] ∧ r.t.defer = [] ∧ r.t.refused = none)))
    ∧ (∀ (h pos : Nat) (x : BitVec 128), t.row = some h → t.again = none → goes → t.entries[pos]? = some x → entExpert x ≠ 0xFFFF →
      ((t.entries.take pos).filter (fun e => entExpert e != 0xFFFF)).length = t.i →
      let e := entExpert x
      let bad := rt.nexp ≤ e ∨ e = rt.res
      let gone := { t with i := t.i + 1, cand := 0, refused := short pos }
      (t.cand = 0 → bad → r.s = s ∧ r.err = none ∧ r.j = j.rtCount 8 1 ∧ r.t = { gone with outs := t.outs ++ [(pos, 3, 0, false)] })
      ∧ ∀ d : List Word, ¬(t.cand = 0 ∧ bad) → s.rtDesc j e = .ok (d, j) →
        let reps := (List.range 4).filterMap (fun i =>
          let y := bits (d.getD 3 0) (16 * i + 15) (16 * i)
          if y = 0xFFFF then none else some (y + 65536 * (i + 1)))
        let cands := (e :: (if rt.pol / 2 % 2 = 1 then reps else [])).drop t.cand
        (cands = [] → r.s = s ∧ r.err = none ∧ r.j = j.rtCount 4 1 ∧ r.t = { gone with outs := t.outs ++ [(pos, 2, 0, false)] })
        ∧ ∀ (c : Nat) (rest : List Nat) (dc : List Word), cands = c :: rest → s.rtDesc j (c % 65536) = .ok (dc, j) →
          (far dc = true → r.s = s ∧ r.err = none ∧ r.j = j
            ∧ r.t = { t with need := t.need - 1, i := t.i + 1, cand := 0, defer := t.defer ++ [(pos, cands)] })
          ∧ ∀ old : Nat, far dc = false → s.rtIncb j none (hdr (c % 65536)) 1 = .ok old →
            (old % 2 ^ 32 < old / 2 ^ 32 → { r.s with pkg := s.pkg } = s ∧ r.err = none ∧ r.j = (j.rtTake (hdr (c % 65536))).rtCount 2 1
              ∧ r.t = { t with need := t.need - 1, i := t.i + 1, cand := 0, outs := t.outs ++ [(pos, 1, c / 65536, false)]
                               adm := t.adm ++ [(pos, c % 65536, old % 2 ^ 32, false)] })
            ∧ (¬old % 2 ^ 32 < old / 2 ^ 32 → r.s = s ∧ r.err = none ∧ r.j = j.rtTake (hdr (c % 65536)) ∧ r.t = { t with cand := t.cand + 1 }))
    ∧ ∀ h : Nat, t.row = some h → t.again = none → ¬goes → t.defer = [] → 0 < t.need → t.cand = 0 →
      (rt.res = 0xFFFF → r.s = s ∧ r.err = none ∧ r.j = j.rtCount 6 1 ∧ r.t = { t with cand := 1 })
      ∧ ∀ (d : List Word) (old : Nat), rt.res ≠ 0xFFFF → s.rtDesc j rt.res = .ok (d, j) →
        s.rtIncb j (if far d then some (bits (d.getD 5 0) 38 32) else none) (hdr rt.res) 1 = .ok old →
        (old % 2 ^ 32 < old / 2 ^ 32 → { r.s with pkg := s.pkg } = s ∧ r.err = none ∧ r.j = (j.rtTake (hdr rt.res)).rtCount 5 1
          ∧ r.t = { t with cand := 1, adm := t.adm ++ [(100, rt.res, old % 2 ^ 32, far d)] })
        ∧ (¬old % 2 ^ 32 < old / 2 ^ 32 → r.s = s ∧ r.err = none ∧ r.j = (j.rtTake (hdr rt.res)).rtCount 6 1 ∧ r.t = { t with cand := 1 }))
  ∧ ∀ l : List Nat,
    let unit := fun (x : Nat) => match Fmt.decode .fp32 x with
      | .fin neg m e => (if neg then -1 else 1) * ((m * 2 ^ (e + 149).toNat : Nat) : Int)
      | _ => 0
    let finite := ∀ x ∈ l, ∃ neg m e, Fmt.decode .fp32 x = .fin neg m e
    let sum := (l.map unit).sum
    rtWeights false l = (l, {})
    ∧ (l ≠ [] → ¬finite ∨ sum = 0 → rtWeights true l = (l.map (fun _ => 0x7FC00000), { nv := true }))
    ∧ (finite → sum ≠ 0 → (rtWeights true l).1 = l.map (fun x =>
        if unit x = 0 then 0 else (roundQ .fp32 {} (decide (unit x * sum < 0)) (unit x).natAbs sum.natAbs 0).1))

/-- cl.go begins its first list when no other job of its ids has begun and its translations are at hand, with P5 and P6 zero,
tells its partner that it is ready and sends its data in packets once both are; a list that another follows waits for the
acknowledgement of its writes and then tells its members, P6 counting the lists, and the word ends with the last write of the
last list, which is complete when the job is (R257, R335, R337-R340). The 64 elements of a packet are the model's choice
(log 37). -/
def Sys2Proof.Clauses.CollectiveGo : Prop :=
  ∀ (s : State) (j : Job) (rest : List Word), Working s j 5 [] rest → j.idle →
    (j.ph = .start → j.cl.went = false → s.clBusy j = false →
      (let l := j.cl.lists.getD 0 {}
        let j' := { j with
          cl := { j.cl with went := true, list := 0, steps := 0 }, params := (j.params.set 5 0).set 6 0 }
        s.awaited j' 2 (l.ops.map (fun o => o.dstRange l.g)) = none ∧ s.awaited j' 1 (l.ops.map (fun o => o.srcRange l.g)) = none) →
      Leaves (exec .clGo s) (fun t => ∃ j', t.jobs = (s.putJob j').jobs ∧ j'.order = j.order ∧ j'.cl.went = true ∧ j'.cl.list = 0
        ∧ j'.cl.opIdx = 0 ∧ j'.cl.step = 0 ∧ j'.params.get 0 5 = 0 ∧ j'.params.get 0 6 = 0 ∧ (j'.ph = .active ∨ j'.ph = .claiming)
        ∧ j'.ip = j.ip ∧ t.hbm = s.hbm))
    ∧ (∀ o, j.ph = .active → j.out = none → j.cl.op = some o → j.unitIdx ≠ 0 → j.cl.opDone = false →
      (j.cl.sent = false → s.jobTraffic j = false →
        exec .clGo s = .next ((s.putJob { j with cl := { j.cl with sent := true } }).clSend (j.clMsg o 0 [])))
      ∧ (j.cl.sent = true → j.cl.ready = true → j.cl.waited = 0 →
        let d := j.cl.give o
        exec .clGo s = .next ((List.range ((d.length + 63) / 64)).foldl (fun u i =>
            u.clSend { j.clMsg o 1 ((d.drop (64 * i)).take 64) with off := 64 * i })
          (s.putJob { j with cl := { j.cl with waited := 1 } }))))
    ∧ (j.ph = .active → j.out = none → j.cl.op = none → j.cl.lists.length ≤ j.cl.list + 1 →
      exec .clGo s = s.worked { j with cl := { j.cl with due := true } } rest)
    ∧ (j.ph = .active → j.out = none → j.cl.op = none → j.cl.list + 1 < j.cl.lists.length →
      exec .clGo s = .next (s.putJob { j with ph := .draining, locks := [] }))
    ∧ (j.ph = .draining → s.jobTraffic j = false →
      Leaves (exec .clGo s) (fun t => t.jobs = (s.putJob { j with
        claims := [], want := [], ph := .start
        params := j.params.set 6 (BitVec.ofNat 64 (j.cl.list + 1))
        cl := { j.cl with list := j.cl.list + 1, due := false } }).jobs))

/-- lg.run claims its counts and locks its local sources once its translations are at hand, counts for each token the experts of
its k highest scores, writes the counts once the tokens are done and ends after the last write (R186, R218, R257, R325, R326);
lg.pf of counts it can read and regions whose translations are at hand requests those that reach the threshold and ends (R327). -/
def Sys2Proof.Clauses.LookAheadWords : Prop :=
  ∀ (s : State) (j : Job) (rest : List Word),
    (∀ (x p n k c : Word) (g gstr ne d : Nat), Working s j 6 [x, p, n, k, c] rest → j.gate = some (g, gstr, ne, d) →
      x.getLsbD 0 = false → p.getLsbD 0 = false → 1 ≤ n.toNat → n.toNat ≤ 65536 → 1 ≤ k.toNat → k.toNat ≤ min 8 ne →
      canonical c = true → bits c 1 0 = 0 →
      j.idle →
      (let toks := (List.range n.toNat).map (fun t => (((x.toNat + t * p.toNat : Nat) : Int), 2 * d))
        let src := toks ++ (List.range ne).map (fun e => (((g + e * gstr : Nat) : Int), 2 * d))
        j.ph = .start → s.awaited j 2 [((c.toNat : Int), 4 * ne)] = none → s.awaited j 1 src = none →
        exec .lgRun s = .next (s.begun { j with idxs := List.replicate ne 0, fetched := [] }
          (s.claimsOf j [((c.toNat : Int), 4 * ne)]) (s.rangesLocks j src)))
      ∧ (∀ (b : List Byte) (cols : List (List Byte)), j.ph = .active → j.out = none → j.unitIdx < n.toNat → j.idxs.length = ne →
        s.eRead j ((x.toNat + j.unitIdx * p.toNat : Nat) : Int) (2 * d) = .ok b →
        (List.range ne).mapM (fun e => s.eRead j ((g + e * gstr : Nat) : Int) (2 * d)) = .ok cols →
        let ss := cols.map (gateScore d b)
        let top := topExperts k.toNat (ss.map (fun v => v.1))
        exec .lgRun s = .next (s.putJob { j with
          idxs := (List.range ne).map (fun e => j.idxs.getD e 0 + (if e ∈ top then 1 else 0)), unitIdx := j.unitIdx + 1, fetched := []
          fl := j.fl.or (joinFlags (ss.map (fun v => v.2))) }))
      ∧ (j.ph = .active → j.out = none → n.toNat ≤ j.unitIdx →
        Emits s j 0 [] (cut (.va (c.toNat : Int)) (j.idxs.flatMap (toBytes 4))) (exec .lgRun s))
      ∧ (∀ m, j.ph = .active → j.out = some (m, []) → exec .lgRun s = s.worked j rest))
    ∧ ∀ (c thr : Word) (b : List Byte), Working s j 6 [c, thr] rest → 1 ≤ thr.toNat → thr.toNat < 2 ^ 32 →
      let ne := (j.gate.map (fun x => x.2.2.1)).getD 0
      s.eRead j c.toNat (4 * ne) = .ok b →
      let hot := (List.range ne).filter (fun e => decide (thr.toNat ≤ ofBytes ((b.drop (4 * e)).take 4)))
      s.awaited j 1 ((hot.filter (fun e => s.lgActs j e)).map (fun e =>
        ((((s.pinCopy (s.regions.get {} e) (dieOf j.core)).2 : Nat) : Int), 65536 * (s.regions.get {} e).size))) = none →
      exec .lgPf s = .next ((hot.foldl (fun u e => u.lgPrefetch j e)
        (s.modDie (dieOf j.core) (fun y => { y with lgPfCount := y.lgPfCount + 1 }))).putJob (j.goesOn rest))

/-- ex.set and ex.rep by a job with system rights set an entry of the expert region table and a replica, ex.pin pins a
region and pushes its address and path, ex.evict starts draining it; without system rights they fault with code 11, a number
without a region with code 32 (R320-R323). -/
def Sys2Proof.Clauses.RegionWords : Prop :=
  ∀ (s : State) (j : Job) (rest : List Word),
    (∀ e base size pol : Word, Working s j 7 [e, base, size, pol] rest →
      let x := s.regions.get {} e.toNat
      (j.sys = false → exec .exSet s = .next (s.putJob (j.fail 11)))
      ∧ (j.sys = true → e.toNat < 4096 → canonical base = true → bits base 15 0 = 0 → size.toNat ≤ 2 ^ 20 → pol.toNat ≤ 2 → x.pins = 0 →
        (size = 0 → exec .exSet s = .next { s.putJob (j.goesOn rest) with regions := s.regions.set e.toNat { x with state := 0 } })
        ∧ (size ≠ 0 → pol ≠ 0 → exec .exSet s = .next { s.putJob (j.goesOn rest) with
          regions := s.regions.set e.toNat { base := base.toNat, size := size.toNat, pol := pol.toNat, ctx := j.ctx, state := 1 } })))
    ∧ (∀ e k addr : Word, Working s j 7 [e, k, addr] rest → k.toNat < 4 → (addr = 0 ∨ (canonical addr = true ∧ bits addr 15 0 = 0)) →
      let x := s.regions.get {} e.toNat
      (j.sys = false → exec .exRep s = .next (s.putJob (j.fail 11)))
      ∧ (j.sys = true → (4096 ≤ e.toNat ∨ x.state = 0) → exec .exRep s = .next (s.putJob (j.fail 32)))
      ∧ (j.sys = true → e.toNat < 4096 → x.state ≠ 0 → exec .exRep s = .next { s.putJob (j.goesOn rest) with
          regions := s.regions.set e.toNat { x with reps := x.reps.set k.toNat addr.toNat } }))
    ∧ ∀ e : Word,
      let x := s.regions.get {} e.toNat
      (Working s j 7 [e] rest 2 →
        ((4096 ≤ e.toNat ∨ x.state = 0 ∨ x.ctx ≠ j.ctx) → exec .exPin s = .next (s.putJob (j.fail 32)))
        ∧ (e.toNat < 4096 → x.state ≠ 0 → x.ctx = j.ctx → x.pins < 65535 → x.pred = false →
          let c := s.pinCopy x (dieOf j.core)
          exec .exPin s = .next { s.putJob ({ j with pins := (e.toNat, c.1, c.2) :: j.pins }.goesOn (BitVec.ofNat 64 c.1 :: BitVec.ofNat 64 c.2 :: rest))
            with regions := s.regions.set e.toNat { x with pins := x.pins + 1 } }))
      ∧ (Working s j 7 [e] rest → j.ph = .start →
        (j.sys = false → exec .exEvict s = .next (s.putJob (j.fail 11)))
        ∧ (j.sys = true → (4096 ≤ e.toNat ∨ x.state = 0) → exec .exEvict s = .next (s.putJob (j.fail 32)))
        ∧ (j.sys = true → e.toNat < 4096 → x.state ≠ 0 →
          exec .exEvict s = .next { s.putJob { j with pins := j.pins.filter (fun y => y.1 != e.toNat), ph := .draining } with
            regions := s.regions.set e.toNat { x with state := 2, pins := x.pins - (j.pins.filter (fun y => y.1 == e.toNat)).length } }))

/-! ### Events of the scheduler and of messages -/

/-- TASK_START: a free slot takes the entry that R121 chooses: a fresh one in the lowest free workspace, at its entry, with SW
as the entry holds it, w1 = argument, w2, w3 = slot, and zero in w4 to w27, v0 to v7, sc0 to sc7 and the bytes 224-255 and
768-831, a run-ahead child with the registers of its snapshot; another from the PC and SW that its workspace holds, and one that
a remote read brought home with its group performed (R20, R22, R108, R121, R128, R155). TASK_AGING raises an entry one level for
each 2^20 cycles it has waited at priority 2 or 3 (R122). RESULT_COMPLETION performs a pending register write (R19). -/
def Sys2Proof.Clauses.TaskEvents : Prop :=
  ∀ (s : State) (n k : Nat),
    (∀ (e : RqEntry) (wp : Nat), n < 4096 → k < 4 → (s.slotAt n k).st = .free → (s.hedge (hedgeOf n)).drained = false →
      (s.coreAt n).lowFree = some wp → rqChoose ((s.coreAt n).risen.rq.filter (fun e => !s.thStopped n e.th)) k true = some e →
      (e.fresh = true → e.held = none) →
      ((e.fresh = true ∨ e.held = none) → Leaves (exec (.taskStart n k) s) (fun t =>
        let x := t.slotAt n k
        let c := t.coreAt n
        x.st = .running ∧ x.th.uid = e.th.uid ∧ x.swp = (s.slotAt n k).swp ∧ (∀ y ∈ c.rq, y.th.uid ≠ e.th.uid)
        ∧ (e.fresh = true → x.th.pc = e.th.pc ∧ x.th.wp = wp ∧ x.th.homeWp = wp ∧ x.th.prio = e.prio ∧ c.budget wp = e.budget % 2 ^ 20
          ∧ x.th.sw = e.th.sw ∧ (∀ r, r < 8 → c.sc wp r = 0)
          ∧ (∀ a, 768 ≤ a → a < 832 → t.localByte n (wsBase wp + a) = 0)
          ∧ (e.regs = none → c.reg wp 1 = e.arg ∧ c.reg wp 2 = e.th.w2 ∧ c.reg wp 3 = BitVec.ofNat 64 k ∧ (∀ r, 4 ≤ r → r < 28 → c.reg wp r = 0)
            ∧ (∀ r, r < 8 → c.vreg wp r = 0) ∧ ∀ a, 224 ≤ a → a < 256 → t.localByte n (wsBase wp + a) = 0)
          ∧ ∀ m, e.regs = some m → m.wf = true → ∀ a, 8 ≤ a → a < 768 → t.localByte n (wsBase wp + a) = m.read a)
        ∧ (e.fresh = false → e.held = none → x.th.wp = e.th.wp ∧ x.th.pc = (s.coreAt n).word (wsBase e.th.wp + 768) &&& 0xFFFFFFFFFFFFFFFC
          ∧ x.th.sw = (s.coreAt n).word (wsBase e.th.wp + 776) &&& 0xFFFFFF001FFF0F07
          ∧ ∀ a, t.localByte n a = s.localByte n a)))
      ∧ (∀ fx v, e.fresh = false → e.held = some (fx, v) → exec (.taskStart n k) s = .next ((s.startTask n k e).completeHold n k v)))
    ∧ (∀ uid : Nat, Leaves (exec (.taskAging n uid) s) (fun t => { t with cores := s.cores } = s
        ∧ (∀ m, m ≠ n → t.coreAt m = s.coreAt m) ∧ { t.coreAt n with rq := (s.coreAt n).rq } = s.coreAt n
        ∧ (t.coreAt n).rq = (s.coreAt n).rq.map (fun e =>
            let w := e.aged + ((s.coreAt n).cycles - e.waited)
            let r := min 2 (min (w / 2 ^ 20) (e.prio - 1))
            if e.th.uid = uid ∧ r ≠ 0 then { e with prio := e.prio - r, waited := (s.coreAt n).cycles, aged := w - r * 2 ^ 20 } else e)))
    ∧ Leaves (exec (.resultCompletion n k) s) (fun t => (t.slotAt n k).pend = []
        ∧ ∀ wp r v, (s.slotAt n k).pend = [.w wp r v] → 0 < r → r < 28 → (t.coreAt n).reg wp r = v)

/-- BUDGET_EXPIRY of a task whose budget is zero, in a slot or in the run queue (there the event's second number is 4 plus the
task's identity), makes the deadline trap due where LATECFG says so, once (R364, R367).
READY_LIST_INSERT: the oldest fired record's task enters the run queue and its bit 61 falls (R116). LAUNCH_PLACEMENT: the
oldest launch's next task enters its core's run queue with its launch, index and slot (R113, R115). -/
def Sys2Proof.Clauses.CreationEvents : Prop :=
  ∀ s : State,
    (∀ n k : Nat, k < 4 → (s.slotAt n k).st ≠ .free → (s.thAt n k).budgetDone = false → (s.coreAt (s.thAt n k).home).budget (s.thAt n k).homeWp = 0 →
      (s.slotAt n k).hold = none → (s.hedge (hedgeOf n)).latecfg.getLsbD 2 = false →
      exec (.budgetExpiry n k) s = .next (s.modTh n k (fun t => { t with
        budgetDone := true, deadline := t.deadline.or (if (s.hedge (hedgeOf n)).latecfg.getLsbD 4 then some 0 else none) })))
    ∧ (∀ (n slot : Nat) (e : RqEntry), 4 ≤ slot →
      (s.coreAt n).rq.find? (fun e => e.th.uid + 4 == slot && !e.th.budgetDone && e.budget == 0) = some e →
      (s.hedge (hedgeOf n)).latecfg.getLsbD 2 = false →
      exec (.budgetExpiry n slot) s = .next (s.modUid e.th.uid (fun t => { t with
        budgetDone := true, deadline := t.deadline.or (if (s.hedge (hedgeOf n)).latecfg.getLsbD 4 then some 0 else none) })))
    ∧ (∀ (n : Nat) (r : ReadyRec) (rest : List ReadyRec), (s.coreAt n).ready = r :: rest → (s.coreAt n).rqFree = true →
      s.stoppedAt n r.ctx = false →
      Leaves (exec (.readyListInsert n) s) (fun t => ∃ e : RqEntry, (t.coreAt n).rq = (s.coreAt n).rq ++ [e] ∧ (t.coreAt n).ready = rest
        ∧ e.th.pc = (s.coreAt n).word (r.off + 8) ∧ e.arg = (s.coreAt n).word (r.off + 16) ∧ e.th.ctx = r.ctx ∧ e.fresh = true ∧ e.th.sw = 0
        ∧ (t.coreAt n).word r.off = setBit ((s.coreAt n).word r.off) 61 false))
    ∧ ∀ (die id c k m : Nat) (l : Launch) (young : Tbl Launch) (rest : List (Nat × Nat)), s.launches = young ++ [(id, l)] →
      l.todo = (c, k) :: rest → s.place (128 * (die / 2) + 8 * (die % 2)) l.ctx c = some m → dieOf m = die → s.stopLin l.ctx c = false →
      (s.coreAt m).rqFree = true → (s.coreAt m).ready = [] →
      Leaves (exec (.launchPlacement die) s) (fun t => (t.coreAt m).rq.length = (s.coreAt m).rq.length + 1
        ∧ (∃ e ∈ (t.coreAt m).rq, e.th.launch = some id ∧ e.th.k = k ∧ e.th.lin = c ∧ e.th.pc = l.pc ∧ e.arg = l.arg ∧ e.sb = some k
          ∧ e.prio = l.prio ∧ e.budget = l.budget ∧ e.th.sw = (if l.ord then fld 62 1 else 0) ∧ e.fresh = true
          ∧ e.th.w2 = fld 0 ((yOf c - l.y0) * l.wx + (xOf c - l.x0)))
        ∧ (id, { l with todo := l.todo.filter (fun y => y != (c, k)) }) ∈ t.launches)

/-- MESSAGE_DELIVERY: a message of tag 0 with budget left enters its input queue whole, for any reader, its header completed
with the source. HELD_MESSAGE_DISPATCH: a held message whose conditions have cleared creates its tag's task with the header
as argument. NOTICE_DELIVERY: the oldest notice for a port enters its queue (R112, R133, R135-R137).
It rests on the model's choices and readings of logs 4, 53 and 66.
Completes: messageDelivery, heldMessageDispatch, noticeDelivery. -/
def Obligations.MessageEvents : Prop :=
  ∀ s : State,
    (∀ (pkt n : Nat) (p : Packet) (h : Word) (pay : List Word), s.net.find? (fun x => x.id == pkt) = some p → p.kind = .msg (h :: pay) →
      p.space = .core n → s.behind p = false → s.noCore n = false → bits h 42 37 = 0 → bits h 32 17 ≠ 0 →
      let q := if p.cls = 1 then 1 else 0
      s.rxUsed n q + 1 + pay.length ≤ (if q = 0 then 512 else 256) → (∀ x ∈ (s.coreAt n).rx q, x.id ≠ s.nextId) →
      Leaves (exec (.messageDelivery pkt) s) (fun t => ∃ h' : Word,
        (t.coreAt n).rx q = (s.coreAt n).rx q ++ [{ id := s.nextId, hdr := h', words := h' :: pay, owner := .direct }]
        ∧ bits h' 44 5 = bits h 44 5 ∧ bits h' 4 0 = 0 ∧ bits h' 63 57 = p.src.pkg % 128 ∧ bits h' 56 51 = yOf p.src.lin
        ∧ bits h' 50 45 = xOf p.src.lin
        ∧ t.net = s.net.filter (fun x => x.id != pkt) ∧ ∀ m, m ≠ n → t.coreAt m = s.coreAt m))
    ∧ (∀ (n : Nat) (m : RxMsg), (s.coreAt n).rx0 = [m] → (s.coreAt n).rx1 = [] → m.owner = .held → s.dispatch n m = .create →
      Leaves (exec (.heldMessageDispatch n) s) (fun t => (t.coreAt n).rx0 = [{ m with owner := .task s.nextId }]
        ∧ ∃ e ∈ (t.coreAt n).rq, e.th.uid = s.nextId ∧ e.arg = m.hdr ∧ e.th.tag = bits m.hdr 42 37
          ∧ e.th.pc = (s.coreAt n).tagpc.get 0 (bits m.hdr 42 37) ∧ e.fresh = true ∧ e.th.sw = 0))
    ∧ ∀ (k n : Nat) (w : Word), ∀ port ∈ [2, 3], s.notices[k]? = some (n, port, w) → (∀ x ∈ s.notices.take k, ¬(x.1 = n ∧ x.2.1 = port)) →
      s.rxUsed n port < 128 →
      exec (.noticeDelivery k) s = .next ({ s with notices := s.notices.eraseIdx k }.modCore n (fun c =>
        if port = 2 then { c with rx2 := c.rx2 ++ [w] } else { c with rx3 := c.rx3 ++ [w] }))

/-! ### Accesses at their homes and their answers -/

/-- An access at device memory on which nothing waits, where its line has room: a load is answered with the bytes of its sector,
which no sector loses; a store writes exactly the masked bytes of its sector; an atomic returns the old number and stores the
new one over just its bytes (R173-R176, R191, R198, R208). -/
def Sys2Proof.Clauses.DeviceAccesses : Prop :=
  ∀ (s : State) (pkt : Nat) (p : Packet), s.net.find? (fun x => x.id == pkt) = some p → s.behind p = false →
    s.dueBefore p = false → p.space = .dev → s.waitsAt p = false → s.makeRoom (p.loc / 256) p.pol = s →
    let byte := fun (u : State) (a : Nat) => (u.sectorData (a / 64)).extractLsb' (8 * (a % 64)) 8
    let quiet := s.ords = [] ∧ s.chains = [] ∧ ∀ q ∈ s.net, q.waiting = false
    (∀ n, p.kind = .load n → p.loc % 64 + n ≤ 64 → s.homeBad .dev p.loc n = false →
      Leaves (exec (.homeAccess pkt) s) (fun t => ∃ v : Vec, t.replies = s.replies ++ [p.reply (.value v {})] ∧ v.toNat < 256 ^ n
        ∧ (∀ i, i < n → v.extractLsb' (8 * i) 8 = byte s (p.loc + i))
        ∧ t.net = s.net.filter (fun x => x.id != p.id) ∧ t.cores = s.cores ∧ t.hbm = s.hbm ∧ t.hostMem = s.hostMem ∧ ∀ a, byte t a = byte s a))
    ∧ (∀ d mask, p.kind = .store d mask → quiet → s.homeMergeBad .dev (p.loc / 64 * 64) mask = false →
      Leaves (exec (.homeAccess pkt) s) (fun t => t.replies = s.replies ++ [p.reply .ack] ∧ t.net = s.net.filter (fun x => x.id != p.id)
        ∧ t.cores = s.cores ∧ t.hostMem = s.hostMem
        ∧ ∀ a, byte t a = if a / 64 = p.loc / 64 ∧ mask.getLsbD (a % 64) = true then d.extractLsb' (8 * (a % 64)) 8 else byte s a))
    ∧ ∀ op size b d nr, p.kind = .amo op size b d nr → quiet →
      let n := 4 * 2 ^ size
      let old := s.devNum p.loc n
      let r := amoResult op n old (b.toNat % 2 ^ (8 * n)) (d.toNat % 2 ^ (8 * n))
      p.loc % 64 + n ≤ 64 → s.homeBad .dev p.loc n = false → s.retired (64 * (p.loc / 64)) = false →
      Leaves (exec (.homeAccess pkt) s) (fun t => t.replies = s.replies ++ [p.reply (if nr then .ack else .value (BitVec.ofNat 512 old) r.2)]
        ∧ t.net = s.net.filter (fun x => x.id != p.id) ∧ t.cores = s.cores ∧ t.hostMem = s.hostMem
        ∧ t.devNum p.loc n = r.1 % 2 ^ (8 * n) ∧ ∀ a, ¬(p.loc ≤ a ∧ a < p.loc + n) → byte t a = byte s a)

/-- enq at the home of its header, where nothing waits and no error lies (R118, R153): a bad header answers 2, a full ring 1 and
a ring entry that the source may not store to 3, and none of them writes anything; else the item, numbered by the tail in its
first 32 bits, fills the ring entry that the tail names, the tail in the header rises by 1 and the answer is 0. -/
def Sys2Proof.Clauses.EnqueueAtHome : Prop :=
  ∀ (s : State) (pkt : Nat) (p : Packet) (item : List Word), s.net.find? (fun x => x.id == pkt) = some p → p.kind = .enq item →
    item.length = 8 → p.src.far = false → s.behind p = false → s.dueBefore p = false → s.waitsAt p = false →
    ((p.space = .dev ∧ s.makeRoom (p.loc / 256) p.pol = s ∧ s.retired p.loc = false) ∨ p.space = .host ∨ ∃ m, p.space = .core m ∧ s.admits p m = true) →
    s.homeBad p.space p.loc 64 = false → p.loc % 64 = 0 → s.ords = [] → s.chains = [] →
    let h := s.homeWords p.space p.loc 8
    let tail := h.getD 3 0
    let va := ringAddr h tail
    let u := s.homeTouch p.space p.loc 64 p.pol
    let full := tail - h.getD 2 0 = BitVec.ofNat 64 (2 ^ (h.getD 1 0).toNat)
    let refused := fun (c : Nat) => Leaves (exec (.homeAccess pkt) s) (fun t => t.replies = s.replies ++ [p.reply (.value (BitVec.ofNat 512 c) {})]
      ∧ t.cores = s.cores ∧ t.hostMem = s.hostMem ∧ ∀ k, t.sectorData k = s.sectorData k)
    (queueBad h = true → refused 2)
    ∧ (queueBad h = false → full → refused 1)
    ∧ (queueBad h = false → ¬full → u.ringPlace p.src va 2 = none → refused 3)
    ∧ ∀ r : Place, queueBad h = false → ¬full → u.ringPlace p.src va 2 = some r → u.ringLost r va = false →
      (r.space = .dev → u.makeRoom (r.addr va / 256) r.pol = u) → (r.space = p.space → r.addr va / 64 ≠ p.loc / 64) →
      (∀ m, p.space = .core m → ∀ i, i < 8 → ignoresStore (s.bound m) (p.loc + 24 + i) = false ∧ readsZero (s.bound m) (p.loc + 24 + i) = false) →
      Leaves (exec (.homeAccess pkt) s) (fun t => t.replies = s.replies ++ [p.reply (.value 0 {})]
        ∧ (∀ i, i < 64 → t.homeNum r.space (r.addr va + i) 1
            = ((if i < 4 then tail else item.getD (i / 8) 0).toNat >>> (8 * (i % 8))) % 256)
        ∧ t.homeNum p.space (p.loc + 24) 8 = (tail + 1).toNat)

/-- An access at a core that admits it and on which nothing waits: a load is answered with the bytes that R14 lets it see, a
store writes exactly the masked bytes that R14 does not ignore, an atomic returns the old number and stores the new one; a
refused access is answered with a refusal and counted (R167, R168, R191, R198, R208). -/
def Sys2Proof.Clauses.HomeAccesses : Prop :=
  ∀ (s : State) (pkt m : Nat) (p : Packet), s.net.find? (fun x => x.id == pkt) = some p → s.behind p = false →
    s.dueBefore p = false → p.space = .core m →
    let seen := fun (a : Nat) => (if readsZero (s.bound m) a then (0 : Byte) else s.localByte m a)
    let quiet := s.ords = [] ∧ s.chains = [] ∧ ∀ q ∈ s.net, q.waiting = false
    ((s.admits p m = true → s.waitsAt p = false →
      (∀ n, p.kind = .load n → s.isBad 0 m p.loc n = false →
        exec (.homeAccess pkt) s = .next (s.answer p (.value (BitVec.ofNat 512 (leNum seen p.loc n)) {})))
      ∧ (∀ d mask, p.kind = .store d mask → quiet → s.homeMergeBad p.space (p.loc / 64 * 64) mask = false →
        Leaves (exec (.homeAccess pkt) s) (fun t => t.replies = s.replies ++ [p.reply .ack] ∧ t.net = s.net.filter (fun x => x.id != p.id)
          ∧ t.hbm = s.hbm ∧ t.hostMem = s.hostMem ∧ (∀ c, c ≠ m → t.coreAt c = s.coreAt c)
          ∧ ∀ a, t.localByte m a = (let i := a - p.loc / 64 * 64
            if p.loc / 64 * 64 ≤ a ∧ i < 64 ∧ mask.getLsbD i = true ∧ ignoresStore (s.bound m) a = false then d.extractLsb' (8 * i) 8 else s.localByte m a)))
      ∧ (∀ op size b d nr, p.kind = .amo op size b d nr → quiet →
        let n := 4 * 2 ^ size
        let old := leNum seen p.loc n
        let r := amoResult op n old (b.toNat % 2 ^ (8 * n)) (d.toNat % 2 ^ (8 * n))
        s.isBad 0 m p.loc n = false → p.loc % 64 + n ≤ 64 → (∀ i, i < n → ignoresStore (s.bound m) (p.loc + i) = false) →
        Leaves (exec (.homeAccess pkt) s) (fun t => t.replies = s.replies ++ [p.reply (if nr then .ack else .value (BitVec.ofNat 512 old) r.2)]
          ∧ leNum (t.localByte m) p.loc n = r.1 % 2 ^ (8 * n)
          ∧ ∀ a, ¬(p.loc ≤ a ∧ a < p.loc + n) → t.localByte m a = s.localByte m a)))
    ∧ (s.admits p m = false → p.waiting = false → m < 4096 → (∃ n, p.kind = .load n) ∨ (∃ d k, p.kind = .store d k) →
      Leaves (exec (.homeAccess pkt) s) (fun t => t.replies = s.replies ++ [p.reply .nack]
        ∧ (t.coreAt m).winnack = min ((s.coreAt m).winnack + 1) 0xFFFFFFFF ∧ ∀ a, t.localByte m a = s.localByte m a)))

/-- WAITW_WAKE answers a satisfied waitw; DEQ_SERVE gives the first waiting deq the oldest item of its ring and advances the
head; DEP_DECREMENT lowers a record's count, which at zero creates the record's task; SCORE_MESSAGE_INSERT merges a score
message into its mailbox row (R116, R152, R154, R302, R304). -/
def Sys2Proof.Clauses.WaitEvents : Prop :=
  ∀ (s : State) (pkt n : Nat) (p : Packet), s.net.find? (fun x => x.id == pkt) = some p →
    (∀ v, p.kind = .woken v → exec (.waitwWake pkt) s = .next (s.answer p (.value (BitVec.ofNat 512 v.toNat) {})))
    ∧ (∀ r : Place, p.kind = .deq → p.waiting = true → p.space = .core n → s.homeClaimed p.space p.loc 64 true = false →
      s.dueBefore p = false → s.isBad 0 n p.loc 64 = false → s.ords = [] → s.chains = [] →
      let h := s.homeWords p.space p.loc 8
      let va := ringAddr h (h.getD 2 0)
      let item := s.homeWords r.space (r.addr va) 8
      queueBad h = false → s.deqAhead p = false → h.getD 2 0 ≠ h.getD 3 0 → s.ringPlace p.src va 1 = some r →
      s.homeBad r.space (r.addr va) 64 = false → bits (item.getD 0 0) 63 44 = 0xFFFFF →
      Leaves (exec (.deqServe pkt) s) (fun t => ∃ v : Vec, (∀ i, i < 8 → v.extractLsb' (64 * i) 64 = item.getD i 0)
        ∧ t.replies = s.replies ++ [p.reply (.value v {})]
        ∧ ((∀ i, i < 8 → ignoresStore (s.bound n) (p.loc + 16 + i) = false ∧ readsZero (s.bound n) (p.loc + 16 + i) = false) →
          p.loc % 64 = 0 → (t.coreAt n).word (p.loc + 16) = h.getD 2 0 + 1)))
    ∧ (∀ k : Nat, p.kind = .tdec k → p.space = .core n → s.behind p = false → s.dueBefore p = false → s.noCore n = false →
      s.lockedL n p.loc 64 = false → s.isBad 0 n p.loc 8 = false → s.ords = [] → s.chains = [] →
      let w := (s.coreAt n).word p.loc
      0 < k → k ≤ bits w 31 0 →
      (k < bits w 31 0 → Leaves (exec (.depDecrement pkt) s) (fun t => (t.coreAt n).word p.loc = merge w (fld 0 (bits w 31 0 - k)) 31 0
        ∧ (t.coreAt n).rq = (s.coreAt n).rq))
      ∧ (k = bits w 31 0 → (s.coreAt n).rqFree = true → Leaves (exec (.depDecrement pkt) s) (fun t => ∃ e : RqEntry,
        (t.coreAt n).rq = (s.coreAt n).rq ++ [e] ∧ e.th.pc = (s.coreAt n).word (p.loc + 8) ∧ e.arg = (s.coreAt n).word (p.loc + 16)
        ∧ e.th.ctx = p.src.ctx ∧ e.fresh = true ∧ e.th.sw = 0 ∧ (t.coreAt n).word p.loc = setBit (merge w 0 31 0) 63 true)))
    ∧ ∀ row es job, p.kind = .score row es job → p.space = .core n → s.behind p = false → s.noCore n = false → p.src.far = false →
      exec (.scoreMessageInsert pkt) s
        = .next ({ s with net := s.net.filter (fun q => q.id != pkt) }.scoreArrive n row es (some job))

/-- LOAD_REPLY with a value performs the group that waits for it, the destination written; STORE_ACK lowers the counter of a
posted access; REMOTE_FAULT_REPLY leaves the group unperformed with the trap due (R124, R191, R193, R407). -/
def Sys2Proof.Clauses.ReplyEvents : Prop :=
  ∀ (s : State) (rid n k : Nat) (r : Reply), s.replies.find? (fun x => x.id == rid) = some r → r.src.far = false → r.src.job = 0 →
    (r.posted = false → r.sc = none → s.whereIs r.src.uid = some (n, k) → s.serviceReply r.src.uid r.id = none →
      ∀ fx : Fx, (s.slotAt n k).hold = some (.reply r.id, fx) → swOrd (s.thAt n k).sw = false → (s.slotAt n k).pend = [] → s.bad = [] →
      (∀ v fl d w sg, r.kind = .value v fl → fx.dst = .reg d w sg → 0 < d → d < 28 → w ≤ 64 → 0 < w → (s.thAt n k).buf = [] →
        fx.wr = [] → fx.vwr = [] → fx.pops = [] → fx.st = [] → fx.acts = [] → fx.ctl = none → fx.csr = none → fx.probe = none →
        Leaves (exec (.loadReply rid) s) (fun t => (t.slotAt n k).hold = none ∧ t.replies = s.replies.filter (fun x => x.id != rid)
          ∧ (t.coreAt n).reg (s.thAt n k).wp d = (if sg then (v.extractLsb' 0 64 <<< (64 - w)).sshiftRight (64 - w)
            else (v.extractLsb' 0 64 <<< (64 - w)) >>> (64 - w))
          ∧ (t.thAt n k).pc = fx.next.getD ((s.thAt n k).pc + BitVec.ofNat 64 (4 * fx.sylls))))
      ∧ (∀ code info, r.kind = .remote code info →
        exec (.remoteFaultReply rid) s = .next ((({ s with replies := s.replies.filter (fun x => x.id != rid) } : State).dropHold n k).modTh n k
          (fun t => { t with trapNext := some { code := code, info := info, acc := r.acc, addr := r.va } }))))
    ∧ (∀ (th : Thread) (c : Nat), r.posted = true → r.kind = .ack → r.sc = some c → c < 8 → s.thOf r.src.uid = some th →
      Leaves (exec (.storeAck rid) s) (fun t => (t.coreAt th.home).sc th.homeWp c = ((s.coreAt th.home).sc th.homeWp c - r.cnt) % 65536
        ∧ t.replies = s.replies.filter (fun x => x.id != rid)
        ∧ ∀ a, ¬(wsBase th.homeWp + 832 + 2 * c ≤ a ∧ a < wsBase th.homeWp + 834 + 2 * c) → t.localByte th.home a = s.localByte th.home a))

/-- MIGRATION_ARRIVAL: where the window grants migration the thread leaves its slot; with a slot free at the target it runs
there as a guest, its w1 to w15 with it and the load performed, else it waits for one, 256 cycles at most; where only the load
is granted that is performed for the thread in its slot. MIGRATION_TIMEOUT: no slot in 256 cycles, the load is a remote read
whose value goes home with the thread, which performs the whole group when it next enters a slot (TASK_START). GUEST_RETURN
brings a guest's w1 to w15, PC and SW home and frees its slot; a thread that yields stands behind its priority, any other ahead
(R128, R129, R146, R167, R196, R211). That the thread stands ahead at home after the remote read is the model's choice (log 62). -/
def Sys2Proof.Clauses.MigrationEvents : Prop :=
  ∀ s : State,
    (∀ (pkt n k : Nat) (p : Packet), s.net.find? (fun p => p.id == pkt) = some p → p.kind = .mig k → p.space = .core n → s.noCore n = false →
      s.isBad 0 n p.loc k = false → s.claimedL n p.loc k = false →
      let v : Vec := BitVec.ofNat 512 (ofBytes (s.loadL n p.loc k))
      (s.migrants.find? (fun m => m.pkt == pkt) = none → s.behind p = false → s.dueBefore p = false →
        (∀ (th0 : Thread) (n0 k0 rid : Nat) (fx : Fx), s.windowOk n p.src 6 p.loc k = true → s.thOf p.src.uid = some th0 →
          s.thStopped n th0 = false → s.thStopped p.src.core th0 = false → s.whereIs p.src.uid = some (n0, k0) →
          (s.slotAt n0 k0).hold = some (.reply rid, fx) → (s.slotAt n0 k0).pend = [] → (s.thAt n0 k0).home = n0 → n ≠ n0 →
          let th := s.thAt n0 k0
          (∀ d sl ws, (s.coreAt n).freeSlot? = some sl → (s.coreAt n).lowFree = some ws → swOrd th.sw = false →
            fx.wr = [] → fx.vwr = [] → fx.pops = [] → fx.st = [] → fx.acts = [] → fx.ctl = none → fx.csr = none →
            fx.dst = .reg d (8 * k) false → 0 < d → d ≤ 15 → k ≤ 8 →
            Leaves (exec (.migrationArrival pkt) s) (fun t => (t.slotAt n sl).st = .guest ∧ (t.thAt n sl).uid = th.uid ∧ (t.thAt n sl).wp = ws
              ∧ (∀ i, 1 ≤ i → i ≤ 15 → (t.coreAt n).reg ws i = if i = d then v.extractLsb' 0 64 else (s.coreAt n0).reg th.wp i)
              ∧ (t.slotAt n0 k0).st = .free ∧ (t.coreAt n0).word (wsBase th.wp + 768) = th.pc
              ∧ (∀ x ∈ t.migrants, x.pkt ≠ pkt) ∧ ∀ x ∈ t.net, x.id ≠ pkt))
          ∧ ((s.coreAt n).freeSlot? = none → Leaves (exec (.migrationArrival pkt) s) (fun t => (t.slotAt n0 k0).st = .free ∧ t.net = s.net
              ∧ ∃ m : Migrant, t.migrants = s.migrants ++ [m] ∧ m.pkt = pkt ∧ m.th = th ∧ m.fx = fx ∧ m.age = (s.coreAt n).cycles + 1
                ∧ m.regs = (List.range 15).map (fun i => (s.coreAt n0).reg th.wp (i + 1)))))
        ∧ (s.windowOk n p.src 6 p.loc k = false → p.waiting = false → s.admits { p with kind := .load k } n = true →
          exec (.migrationArrival pkt) s = .next (s.performAt { p with kind := .load k })))
      ∧ ∀ m : Migrant, s.migrants.find? (fun m => m.pkt == pkt) = some m →
        (∀ sl ws, m.back = none → (s.coreAt n).cycles + 1 < m.age + 256 → s.thStopped n m.th = false → (s.coreAt n).freeSlot? = some sl →
          (s.coreAt n).lowFree = some ws → exec (.migrationArrival pkt) s = .next (s.settleGuest m p n k sl ws))
        ∧ (m.back = none → m.age + 256 ≤ (s.coreAt n).cycles + 1 →
          exec (.migrationTimeout pkt) s = .next { s with
            net := s.net.filter (fun q => q.id != pkt)
            migrants := s.migrants.map (fun x => if x.pkt = pkt then { x with back := some (some v, none) } else x) }))
    ∧ (∀ (pkt : Nat) (m : Migrant) (v : Vec), s.migrants.find? (fun m => m.pkt == pkt) = some m → m.back = some (some v, none) →
      (s.coreAt m.th.home).rqFree = true → m.regs.length = 15 →
      Leaves (exec (.migrationTimeout pkt) s) (fun t =>
        (∀ i, 1 ≤ i → i ≤ 15 → (t.coreAt m.th.home).reg m.th.homeWp i = m.regs.getD (i - 1) 0)
        ∧ (t.coreAt m.th.home).word (wsBase m.th.homeWp + 768) = m.th.pc
        ∧ (∃ e ∈ (t.coreAt m.th.home).rq, e.ahead = true ∧ e.fresh = false ∧ e.th.uid = m.th.uid ∧ e.th.wp = m.th.homeWp
          ∧ e.held = some ({ m.fx with pops := [] }, v)) ∧ ∀ x ∈ t.migrants, x.pkt ≠ pkt))
    ∧ ∀ (n k : Nat) (fx : Fx), (s.slotAt n k).hold = some (.goHome, fx) →
      let th := s.thAt n k
      s.unacked th.uid n 5 = false → (s.coreAt th.home).rqFree = true → (s.slotAt n k).pend = [] → n ≠ th.home →
      Leaves (exec (.guestReturn n k) s) (fun t => (t.slotAt n k).st = .free ∧ (t.coreAt th.home).word (wsBase th.homeWp + 768) = th.pc
        ∧ (∀ i, 1 ≤ i → i ≤ 15 → (t.coreAt th.home).reg th.homeWp i = (s.coreAt n).reg th.wp i)
        ∧ ∃ e, (t.coreAt th.home).rq = (s.coreAt th.home).rq ++ [e] ∧ e.th.uid = th.uid ∧ (e.ahead = true ↔ fx.ctl ≠ some .yield)
          ∧ e.th.wp = th.homeWp)

/-- BARRIER_COMPLETE and JOIN_COMPLETE perform every waiting group with the number that ended or the status; BATON_RECEIVE
gives the oldest iteration the baton: SW.ra falls; the group of a holder that waits in a baton is performed once its writes are
acknowledged; ROUND_START sets every live thread of a ready round going; ROUND_COMMIT ends
a finished commit, and a round whose quanta are all committed (R126, R127, R150, R151, R224, R227, R229).
It rests on the model's choices and readings of logs 4, 32, 53, 57 and 65. -/
def Sys2Proof.Clauses.LaunchEvents : Prop :=
  ∀ (s : State) (id : Nat),
    (∀ (b : Barrier) (l : Launch), s.barriers.find? (fun b => b.id == id) = some b → s.launches.find? (fun x => x.1 == b.launch) = some (b.launch, l) →
      (∀ m ∈ l.members b, m ∈ b.arrived ∨ m ∈ l.ended) → b.done = none → l.ord = false → s.ords.has b.launch = false →
      exec (.barrierComplete id) s = .next (State.completeAll { s with barriers := s.barriers.filter (fun x => x.id != id) } (fun h => h == .bar b.key)
        (BitVec.ofNat 512 ((l.members b).filter (fun m => l.ended.contains m)).length)))
    ∧ (∀ l : Launch, s.launches.find? (fun x => x.1 == id) = some (id, l) → l.counter = 0 →
      (∃ c ∈ s.cores, ∃ x ∈ c.2.slots, ∃ fx, x.2.hold = some (.join id, fx)) →
      exec (.joinComplete id) s = .next (State.completeAll (s.freeLaunch id) (fun h => h == .join id)
        (BitVec.ofNat 512 (fld 63 1 ||| fld 16 l.flt ||| fld 0 l.kill).toNat)))
    ∧ (∀ (u : Nat) (rest : List Nat) (th : Thread) (n k : Nat), (s.chains.get {} id).baton = false → (s.chains.get {} id).iters = u :: rest →
      (∀ x ∈ (s.chains.get {} id).past, s.unacked x 0 5 = false) → s.thOf u = some th → th.buf = [] →
      s.whereIs u = some (n, k) → (s.slotAt n k).st ≠ .free → (s.thAt n k).uid = u →
      (∀ fx, (s.slotAt n k).hold ≠ some (.baton, fx)) → (∀ e ∈ (s.coreAt th.home).rq, e.th.uid ≠ u) →
      Leaves (exec (.batonReceive id) s) (fun t => swRa (t.thAt n k).sw = false ∧ (t.chains.get {} id).baton = true
        ∧ (t.chains.get {} id).iters = u :: rest ∧ ∀ m a, t.localByte m a = s.localByte m a))
    ∧ (∀ (u : Nat) (rest : List Nat) (n k : Nat) (fx : Fx), (s.chains.get {} id).baton = true → (s.chains.get {} id).iters = u :: rest →
      s.whereIs u = some (n, k) → (s.slotAt n k).hold = some (.baton, fx) → s.unacked u n 5 = false →
      exec (.batonReceive id) s = .next (s.completeHold n k 0))
    ∧ (s.roundReady id = true → (∀ b ∈ s.barriers, b.launch ≠ id) →
      Leaves (exec (.roundStart id) s) (fun t => ∀ x ∈ (s.ords.get {} id).tasks, x.st ≠ .gone → ∀ n k, s.whereIs x.uid = some (n, k) →
        s.onlyAt x.uid n k → (t.slotAt n k).hold = none ∧ (t.thAt n k).buf = [] ∧ (t.thAt n k).reads = []))
    ∧ (s.ords.has id = true →
      let o := s.ords.get {} id
      (∀ x : OrdTask, (∀ y ∈ o.tasks, y.st ≠ .running ∧ y.st ≠ .rerun) → lowestOrd o.tasks (fun t => t.st == .committing) = some x →
        ∀ n k, s.whereIs x.uid = some (n, k) → s.pendingOf o x.uid = false → x.services = [] →
        ∀ fx : Fx, (s.slotAt n k).hold = some (.commit, fx) → fx.sylls = 0 → exec (.roundCommit id) s = .next (s.modOrd x.uid (fun y => if y.st = .committing then { y with st := .committed } else y)))
      ∧ (o.tasks ≠ [] → (∀ y ∈ o.tasks, y.st = .committed) →
        Leaves (exec (.roundCommit id) s) (fun t => { t with ords := s.ords } = s ∧ t.ords.get {} id = { o with
          round := if ∃ y ∈ o.tasks, y.live = true ∨ 0 < y.count then o.round + 1 else o.round
          committing := false, written := [], tasks := o.tasks.map (fun y => { y with st := .idle, count := 0, live := false }) })))

/-- The commit of the quantum of least ordinal. One that read no line that the round has written, or that runs again, drains its
buffer: each line and atomic of another home leaves in the order of first write, counted as it was staged, its lines enter what
the round has written, and buffer and read set are empty. One that read such a line is squashed: registers, PC, SW and
composition buffers stand as at its start, scoreboards and services are gone, and it runs again, which the launch counts
(R224, R225). -/
def Sys2Proof.Clauses.QuantumCommits : Prop :=
  ∀ (s : State) (id n k : Nat) (x : OrdTask), CommitsNext s id x n k → x.undo = [] →
    let o := s.ords.get {} id
    let th := s.thAt n k
    ((x.st = .reended ∨ ∀ r ∈ th.reads, r ∉ o.written) →
      (∀ e ∈ th.buf, match e with | .line sp .. => sp ≠ .core th.home | .amo p => p.space ≠ .core th.home) →
      Leaves (exec (.roundCommit id) s) (fun t => ∃ ps : List Packet, t.net = s.net ++ ps ∧ ps.length = th.buf.length
        ∧ (∀ (i : Nat) (e : BufEntry), th.buf[i]? = some e → ∃ p, ps[i]? = some p ∧ (match e with
          | .line sp ln d m pol cnt _ => p.space = sp ∧ p.loc = ln ∧ p.pol = pol ∧ p.kind = .store d m ∧ p.cnt = cnt ∧ p.sc = some 0
              ∧ p.src.uid = th.uid ∧ (sp, ln) ∈ (t.ords.get {} id).written
          | .amo q => p = { q with id := p.id } ∧ (q.space, q.loc / 64 * 64) ∈ (t.ords.get {} id).written))
        ∧ (∀ l ∈ o.written, l ∈ (t.ords.get {} id).written)
        ∧ (t.ords.get {} id).committing = true ∧ { x with st := .committing } ∈ (t.ords.get {} id).tasks
        ∧ (t.thAt n k).buf = [] ∧ (t.thAt n k).reads = []))
    ∧ ∀ (th0 : Thread) (ws : Memory), x.st = .ended → (∃ r ∈ th.reads, r ∈ o.written) → x.snap = some (th0, ws) →
      let b := wsBase th0.homeWp
      ws.wf = true → (s.coreAt th0.home).lmem.wf = true → o.after x = [] →
      x.regionOld = [] → x.kept = [] → x.kept23 = [] → s.ordOf x.uid = some (id, x) →
      Leaves (exec (.roundCommit id) s) (fun t =>
        t.thAt n k = { th0 with deadline := th.deadline, budgetDone := th.budgetDone, trapNext := none }
        ∧ (t.slotAt n k).hold = none ∧ (t.slotAt n k).pend = []
        ∧ (∀ a, t.localByte th0.home a = if b + 8 ≤ a ∧ a < b + 768 then ws.read a
            else if b + 832 ≤ a ∧ a < b + 848 then 0 else s.localByte th0.home a)
        ∧ t.net = s.net ∧ t.hbm = s.hbm ∧ t.hostMem = s.hostMem
        ∧ t.ordOf x.uid = some (id, { x with st := .rerun, squashes := x.squashes + 1, count := 0, services := [], joins := none, waits := false }))

/-- Barriers, joins, batons and the rounds of ordered launches (R126, R127, R150, R151, R224, R225, R227, R229).
It rests on the model's choices and readings of logs 4, 32, 53, 57, 65 and 76.
Completes: batonReceive, barrierComplete, joinComplete, roundStart, roundCommit. -/
def Obligations.LaunchEvents : Prop :=
  Clauses.LaunchEvents ∧ Clauses.QuantumCommits

/-! ### Events of jobs -/

/-- JOB_START: an idle engine starts its next eligible job from a clear stack, a late one ends; JOB_COMPLETE: a finished job
whose writes are acknowledged ends in its state; JOB_SUCCESSOR_DECREMENT lowers a held job's count; CLAIM_GRANT grants the
lowest claim asked for; DRAIN_WAKEUP sends the wake-up of a launch (R215, R242, R245, R249, R252, R279). -/
def Sys2Proof.Clauses.JobEvents : Prop :=
  ∀ s : State,
    (∀ (q kind : Nat) (j : Job), (s.jobs.filter (fun x => x.pq == q && x.kind == kind && x.st == .running)).length < (if kind = 3 then 2 else 1) →
      s.nextJob q kind = some j → j.budget ≠ 0 →
      Leaves (exec (.jobStart q kind) s) (fun t => ∃ j' : Job, t.jobs = (s.putJob j').jobs ∧ j'.order = j.order ∧ j'.st = .running ∧ j'.stack = []
        ∧ j'.ip = 0 ∧ j'.params = j.params ∧ j'.prog = j.prog ∧ j'.mm = {} ∧ j'.dims = [] ∧ j'.plan = none ∧ j'.claims = []
        ∧ t.jobPos = s.jobPos.set (8 * q + kind) j.lin ∧ { t with jobs := s.jobs, jobPos := s.jobPos } = s))
    ∧ (∀ (id p : Nat) (j : Job), s.jobNo id = some j → j.pending = some p → j.finished = true → j.holds = true → j.st ≠ .held →
      s.jobTraffic j = false → j.wake = [] → j.held = [] → j.cl.due = false →
      (s.jobs.filter (fun x => x.pq == j.pq && !x.holds)).length < 256 → j.ev = false → j.succ = [] →
      Leaves (exec (.jobComplete id) s) (fun t => ∃ j' ∈ t.jobs, j'.order = j.order ∧ j'.id = j.id ∧ j'.ctx = j.ctx ∧ j'.claims = [] ∧ j'.locks = []
        ∧ j'.st = (if p = 4 then .done else if p = 6 then .fault else .error) ∧ j'.code = j.code ∧ j'.word = j.word ∧ j'.fl = j.fl
        ∧ t.net = s.net ∧ t.hbm = s.hbm))
    ∧ (∀ (k : Nat) (d : Nat × Nat), s.decs[k]? = some d → (∀ i ∈ s.saved, ∀ x ∈ i.jobs, ¬(x.id = d.1 ∧ x.ctx = d.2)) →
      exec (.jobSuccessorDecrement k) s = .next { s with
        decs := s.decs.eraseIdx k
        jobs := s.jobs.map (fun j => if j.id = d.1 ∧ j.ctx = d.2 ∧ j.st = .held ∧ 0 < j.npred
          then { j with npred := j.npred - 1, st := if j.npred = 1 then .queued else .held } else j) })
    ∧ (∀ (id : Nat) (j : Job) (c : ClaimKey) (rest : List ClaimKey), s.jobNo id = some j → j.want = c :: rest → j.live = true → j.ph = .claiming →
      s.stopLin j.ctx j.lin = false → c.pkg = s.pkgNo → s.farClaims = [] → s.waitsFor c = false →
      (∀ x ∈ s.jobs, x.order ≠ j.order → (∀ y ∈ x.claims, y.same c = false)
        ∧ ¬(x.ph = .claiming ∧ x.since < j.since ∧ ∃ y, x.want.head? = some y ∧ y.same c = true)) →
      exec (.claimGrant id) s = .next (State.putJob { s with nextId := s.nextId + 1 } { j with
        claims := if ∃ x ∈ j.claims, x.same c = true then j.claims else j.claims ++ [c]
        since := s.nextId, want := rest, ph := if rest = [] then .active else .claiming, fetched := j.fetched.filter (fun f => f.1 != 9) }))
    ∧ (∀ (id m tag : Nat) (j : Job), s.jobNo id = some j → j.wake = [(tag, 2 ^ 40 + m)] → s.jobTraffic j = false → tag < 64 → m < 4096 →
      Leaves (exec (.drainWakeup id) s) (fun t => ∃ (p : Packet) (h : Word), t.net = s.net ++ [p] ∧ t.jobs = (s.putJob { j with wake := [] }).jobs
        ∧ p.space = .core m ∧ p.kind = .msg [h, BitVec.ofNat 64 j.id] ∧ bits h 42 37 = tag ∧ bits h 36 33 = 1))

/-- RECALL: the engine of a job on whose claim an access waits puts the writes to that sector before the others that are due and
performs a piece of its launch: the first write is made, as EngineWrites says, and a claim whose sector has no write to come ends with it. RANGE_LOCK_RELEASE keeps only the ranges still to
be read; EVICT_PHASE_TWO lets a region without pins stream and ends the word (R215, R216, R218, R323). -/
def Sys2Proof.Clauses.ClaimEvents : Prop :=
  ∀ (s : State) (id : Nat) (j : Job), s.jobNo id = some j →
    (∀ pkt : Nat, j.live = true → j.ph = .active → s.recallsJob j pkt = true →
      let j1 := s.recalled j (s.recalls pkt)
      let s1 := s.putJob j1
      exec (.recallClaim id pkt) s = s1.launchUnit j1
      ∧ (∀ n ps, j.out = some (n, ps) → (∃ p ∈ ps, (s.pieceKeys j p).any (s.recalls pkt) = true) →
        ∃ p r, j1.out = some (n, p :: r) ∧ (s.pieceKeys j p).any (s.recalls pkt) = true)
      ∧ ∀ (i : Instr) (code : EWord) (c p q : Nat) (ops rest : List Word),
        (i, code) ∈ [(Instr.mmRun, (0x040A : EWord)), (.mmRing, 0x040B), (.mmGmm, 0x040C), (.cpGo, 0x0C01), (.cpFill, 0x0C02), (.cpGath, 0x0C03),
          (.cpScat, 0x0C04), (.clGo, 0x1404), (.lgRun, 0x1801)] → j.prog[j.ip]? = some code → engineShape i = some (c, p, q) →
        ops.length = p → Working { s1 with job := j.order } j1 c ops rest →
        ∀ (n : Nat) (dest : OutTo) (bs : List Byte) (p5 p6 : Option Nat) (free : Option ClaimKey) (r : List OutPiece) (u : State),
          j1.out = some (n, .bytes dest bs p5 p6 free :: r) → State.writeTo { s1 with job := j.order } j1 dest bs = .ok u →
          exec (.recallClaim id pkt) s = .next (u.putJob (j1.wrote n p5 p6 free r)))
    ∧ exec (.rangeLockRelease id) s = .next (s.putJob { j with locks := j.locks.filter (fun l => (s.locksLeft j).contains l) })
    ∧ (∀ e : Word, j.stack = [e] → j.live = true → s.stopLin j.ctx j.lin = false → j.prog[j.ip]? = some 0x1C02 → j.ph = .draining →
      let x := s.regions.get {} e.toNat
      x.pins = 0 →
      Leaves (exec (.evictPhaseTwo id) s) (fun t => t.regions.get {} e.toNat = { x with pol := 1, state := 1 } ∧ t.jobs = (s.putJob (j.goesOn [])).jobs))

/-- CL_READY_SIGNAL takes the partner's signal for the current step; CL_STEP_DATA keeps a packet of its data, and combines the
data in rank order once they are all there, which ends the step, P5 counting the steps; a member that has waited past its
node's budget faults with code 38 (R337-R340). -/
def Sys2Proof.Clauses.CollectiveEvents : Prop :=
  ∀ (s : State) (id : Nat) (j : Job) (o : ClOp), s.jobNo id = some j → j.live = true → j.cl.went = true → s.stopLin j.ctx j.lin = false →
    (∀ m : ClMsg, j.cl.op = some o → j.ph = .active → j.unitIdx ≠ 0 → j.cl.opDone = false → j.cl.ready = false →
      s.clFind j 2 (fun m => decide (j.cl.list ≤ m.list + 1)) = none → s.clFind j 0 (j.clStepMsg o) = some m →
      exec (.clReadySignal id) s = .next { s.putJob { j with cl := { j.cl with ready := true } } with clMsgs := s.clMsgs.erase m })
    ∧ (∀ m : ClMsg, j.cl.op = some o → j.ph = .active → j.unitIdx ≠ 0 → j.cl.waited ≠ 0 → j.out = none → s.clFind j 1 (j.clStepMsg o) = some m →
      m.params = [o.n, o.f, 2 ^ j.cl.now.g, j.cl.list, j.cl.step] → o.rs = true →
      let keep := (j.cl.halves o).1
      let low := decide (j.cl.now.me < j.cl.partner o)
      ((j.cl.got.map (fun g => g.2.length)).sum + m.data.length < keep.2 - keep.1 →
        exec (.clStepData id) s = .next { s.putJob { j with cl := { j.cl with got := j.cl.got ++ [(m.off, m.data)] } } with clMsgs := s.clMsgs.erase m })
      ∧ (j.cl.got = [] → m.off = 0 → m.data.length = keep.2 - keep.1 →
        Leaves (exec (.clStepData id) s) (fun t => ∃ j' : Job, t.jobs = (s.putJob j').jobs ∧ j'.order = j.order ∧ j'.cl.step = j.cl.step + 1
          ∧ j'.cl.lo = keep.1 ∧ j'.cl.hi = keep.2 ∧ j'.params.get 0 5 = BitVec.ofNat 64 (j.cl.steps + 1) ∧ j'.cl.steps = j.cl.steps + 1
          ∧ j'.cl.got = [] ∧ t.clMsgs = s.clMsgs.erase m
          ∧ ∀ i, i < keep.2 - keep.1 → keep.2 ≤ j.cl.part.length → j'.cl.part.getD (keep.1 + i) 0
            = (if low then clAdd (j.cl.part.getD (keep.1 + i) 0) (m.data.getD i 0) else clAdd (m.data.getD i 0) (j.cl.part.getD (keep.1 + i) 0)).1)))
    ∧ (j.clWaits = true → j.budget0 ≠ 0xFFFFF → j.budget0 < j.usRun → exec (.clPartnerTimeout id) s = .next (s.putJob (j.fail 38)))

/-! ### Events of translation, the cache and the registers -/

/-- A walk that finds a leaf leaves it in the hedge's cache, and in either case its entry of the miss-merge table is free, or
keeps the outcome for those that merged with it; a
sector fill where no line has to leave and a line eviction keep what the home returns for
every byte, the eviction freeing the line; a remote request is walked and answered (R174, R175, R183, R186, R408). -/
def Sys2Proof.Clauses.MemoryEvents : Prop :=
  ∀ s : State,
    let ended := fun (l : List Miss) (ctx : Nat) (va : Word) => l.filterMap (fun m => if m.ctx = ctx ∧ m.page = va.toNat / 65536 then
      (if m.waiters = [] then none else some { m with out := some (s.walk ctx va) }) else some m)
    (∀ (h ctx : Nat) (va : Word) (e : TlbEntry), h < 256 → canonical va = true → s.inAperture va = false → s.walk ctx va = .ok e →
      exec (.translationWalk h ctx va) s = .next (s.modHedge h (fun x => { x with
        tlb := if e ∈ x.tlb then x.tlb else (e :: x.tlb).take 512
        misses := ended x.misses ctx va })))
    ∧ (∀ (h ctx : Nat) (va : Word), h < 256 → canonical va = true → s.inAperture va = false → (∀ e, s.walk ctx va ≠ .ok e) →
      exec (.translationWalk h ctx va) s = .next (s.modHedge h (fun x => { x with misses := ended x.misses ctx va })))
    ∧ (∀ k : Nat, 64 * k < devTop → s.retired (64 * k) = false → s.makeRoom (k / 4) (s.sector k).pol = s →
      Leaves (exec (.sectorFill k) s) (fun t => (t.sector k).v = true ∧ (∀ i, t.sectorData i = s.sectorData i) ∧ t.hbm = s.hbm))
    ∧ (∀ line : Nat, Leaves (exec (.lineEviction line) s) (fun t => ∀ i, i < 4 → t.sector (4 * line + i) = {}
        ∧ (((s.sector (4 * line + i)).v = true → (s.sector (4 * line + i)).d = true) → t.sectorData (4 * line + i) = s.sectorData (4 * line + i))))
    ∧ ∀ (pkg inc ctx : Nat) (va : Word), (s.pkg.peers.get 0 pkg).getLsbD 63 = true → bits (s.pkg.peers.get 0 pkg) 47 32 = inc → pkg ≠ s.pkgNo →
      exec (.remoteTranslationRequest pkg inc ctx va) s = .next (s.translationAnswer (pkg % 4) pkg ctx va)

/-- A shootdown of SDCTL's kind sets every hedge to answer; each hedge drops what it covers and answers once no access uses
it; the last answer clears SDCTL.busy (R187, R188). -/
def Sys2Proof.Clauses.Shootdowns : Prop :=
  ∀ s : State,
    (∀ (i : Instr) (kind : Nat), (i, kind) ∈ [(Instr.shootdownPage, 0), (.shootdownContext, 1), (.shootdownAll, 2), (.shootdownPlacementMap, 3)] →
      s.pkg.sdctl.getLsbD 63 = true → s.pkg.sdctl.getLsbD 58 = false → s.pkg.sdOn = false → bits s.pkg.sdctl 62 61 = kind →
      Leaves (exec i s) (fun t => t.pkg = { s.pkg with sdOn := true, sdWait := [] } ∧ (∀ h, h < 256 → t.hedge h = { s.hedge h with sdPending := true })
        ∧ { t with pkg := s.pkg, hedges := s.hedges } = s))
    ∧ (∀ h : Nat, h < 256 → (s.hedge h).sdPending = true →
      Leaves (exec (.shootdownInvalidation h) s) (fun t => (t.hedge h).tlb = (s.hedge h).tlb.filter (fun e => !sdDrops s.pkg.sdctl s.pkg.sdaddr e)
        ∧ ((t.hedge h).sdPending = s.sdBusy h s.pkg.sdctl s.pkg.sdaddr)
        ∧ (t.hedge h).pmaps = (if bits s.pkg.sdctl 62 61 = 3 then (s.hedge h).pmaps.del (bits s.pkg.sdctl 15 0) else (s.hedge h).pmaps)
        ∧ ∀ k, k ≠ h → t.hedge k = s.hedge k))
    ∧ (s.pkg.sdOn = true → s.pkg.sdWait = [] → (∀ h ∈ s.hedges, h.2.sdPending = false) →
      exec .shootdownAck s = .next (s.modPkg (fun p => { p with sdOn := false, sdctl := setBit p.sdctl 63 false })))

/-- The register writes with behaviour of their own: SCCFG keeps its size within the 512 slots and empties the tags, MBCFG
keeps a depth of 1 to 16 and clears the rows, LLCPART keeps at most 12 ways and writes the cache back, CALCFG keeps domain and
number once enabled, OPTPORT starts acquiring, PEER_CLEAR resets the peer with a new epoch (R169, R178, R302, R388, R393, R412). -/
def Sys2Proof.Clauses.ConfigurationWrites : Prop :=
  ∀ (s : State) (v : Word),
    (∀ n, n < 4096 → Leaves (exec (.sccfgWrite n v) s) (fun t => let c := t.coreAt n
      c.sbase = bits v 16 8 ∧ c.nslot = min (min 256 (bits v 25 17)) (512 - bits v 16 8)
      ∧ ((c.nslot ≠ (s.coreAt n).nslot ∨ c.sbase ≠ (s.coreAt n).sbase) → c.scptr = 0 ∧ ∀ e ∈ c.tags, e.2.getLsbD 7 = false)
      ∧ c.lmem = (s.coreAt n).lmem))
    ∧ (∀ n, n < 4096 → Leaves (exec (.mbcfgWrite n v) s) (fun t => let c := t.coreAt n
      c.mben = v.getLsbD 63 ∧ c.mbbase = bits v 10 8
      ∧ c.mbdepth = (if 1 ≤ bits v 4 0 ∧ bits v 4 0 ≤ 16 then bits v 4 0 else (s.coreAt n).mbdepth)
      ∧ ((c.mben ≠ (s.coreAt n).mben ∨ c.mbbase ≠ (s.coreAt n).mbbase ∨ c.mbdepth ≠ (s.coreAt n).mbdepth) →
        ∀ r, r < 64 → c.rows.get 0 r = 0)))
    ∧ (s.csrBusy 0x20B = false → bits v 11 8 ≤ 8 → bits v 11 8 + bits v 7 4 ≤ 12 → Leaves (exec (.llcpartWrite v) s) (fun t =>
      t.pkg.llcpart = fld 8 (bits v 11 8) ||| fld 4 (bits v 7 4) ∧ (t.pkg.llcpart ≠ s.pkg.llcpart → t.llc = [])))
    ∧ (s.pkg.calcfg.getLsbD 63 = false → v.getLsbD 63 = true → bits v 10 8 ≠ 0 → bits v 6 0 < 2 ^ bits v 10 8 →
      Leaves (exec (.calcfgWrite v) s) (fun t => t.pkg.calcfg = fld 63 1 ||| fld 8 (bits v 10 8) ||| fld 0 (bits v 6 0)))
    ∧ (s.pkg.calcfg.getLsbD 63 = true → v.getLsbD 63 = true → Leaves (exec (.calcfgWrite v) s) (fun t =>
      bits t.pkg.calcfg 10 8 = bits s.pkg.calcfg 10 8 ∧ t.pkgNo = s.pkgNo ∧ t.pkg.calcfg.getLsbD 63 = true))
    ∧ (∀ p, p < 16 → s.pkg.calcfg.getLsbD 63 = true → (s.pkg.optport.get 0 p).getLsbD 63 = false → v.getLsbD 63 = true →
      Leaves (exec (.optportWrite p v) s) (fun t => bits (t.pkg.optport.get 0 p) 62 61 = 1 ∧ bits (t.pkg.optport.get 0 p) 31 0 = bits v 31 0))
    ∧ (∀ j, j < 128 → Leaves (exec (.peerClear j) s) (fun t => let w := s.pkg.peers.get 0 j
      (t.pkg.peers.get 0 j).getLsbD 63 = false ∧ bits (t.pkg.peers.get 0 j) 55 48 = (bits w 55 48 + 1) % 256
      ∧ ∀ p ∈ t.net, (∃ ws, p.kind = .sysm ws ∨ p.kind = .msg ws) ∨ p.space ≠ .remote j))

/-! ### Events of the optical fabric -/

/-- FRAME_MARK: a port that acquires counts marks of consecutive slots and is in service after eight; in service a new mark
starts its slot, 1 to 8 slots on; without svc it is out of service. MARKS_MISSED returns it to acquiring once the marks of four
slots are missed, PORT_LOST after 8 failed linked slots loses it, and with no port in service no slot is current (R390-R393). -/
def Sys2Proof.Clauses.FabricMarks : Prop :=
  ∀ (s : State) (p slot : Nat), p < 16 →
    let w := s.pkg.optport.get 0 p
    let x := s.port p
    let rest := fun (t : State) => { t with pkg := s.pkg, ports := s.ports, calSlot := s.calSlot } = s
    (slot < 8 → s.pkg.calcfg.getLsbD 63 = true →
      (w.getLsbD 63 = false → Leaves (exec (.frameMark p slot) s) (fun t => t.portSt p = 0 ∧ rest t))
      ∧ (w.getLsbD 63 = true → s.portSt p = 1 →
        let m := if 0 < x.marks ∧ slot = (x.last + 1) % 8 then x.marks + 1 else 1
        (m < 8 → exec (.frameMark p slot) s = .next (s.modPort p (fun x => { x with marks := m, last := slot })))
        ∧ (8 ≤ m → Leaves (exec (.frameMark p slot) s) (fun t => t.portSt p = 2 ∧ t.calSlot = some slot)))
      ∧ (w.getLsbD 63 = true → s.portSt p = 2 → s.calSlot ≠ none → s.calSlot ≠ some slot →
        (slot + 8 - (s.calT + 1) % 8) % 8 ≤ 3 → x.badRun < 7 →
        Leaves (exec (.frameMark p slot) s) (fun t => t.portSt p = 2 ∧ t.calSlot = some slot ∧ t.calT % 8 = slot ∧ s.calT < t.calT
          ∧ t.calT ≤ s.calT + 8 ∧ (∀ q, q < 16 → (t.port q).done = false ∧ (t.port q).flits = 0)
          ∧ t.pkg.calcfg = s.pkg.calcfg ∧ t.egress = s.egress ∧ t.net = s.net ∧ t.hbm = s.hbm)))
    ∧ (s.portSt p = 2 →
      ((4 ≤ x.missed ∨ x.markUs + 14 ≤ s.homeUs) →
        Leaves (exec (.marksMissed p) s) (fun t => t.portSt p = (if w.getLsbD 63 then 1 else 0) ∧ (t.port p).marks = 0 ∧ rest t
          ∧ t.calSlot = (if ∃ q ∈ List.range 16, q ≠ p ∧ s.portSt q = 2 then s.calSlot else none)))
      ∧ (x.missed < 4 → s.homeUs < x.markUs + 14 → exec (.marksMissed p) s = .next s)
      ∧ (8 ≤ x.badRun → Leaves (exec (.portLost p) s) (fun t => t.portSt p = 3 ∧ rest t
        ∧ t.calSlot = (if ∃ q ∈ List.range 16, q ≠ p ∧ s.portSt q = 2 then s.calSlot else none))))

/-- FRAME_TRANSMIT in a linked slot: the packet that the port owes next leaves behind those that the port has sent; where no
frame has room it begins a frame whose header names source, destination, domain, slot, port and index; with nothing to send
the window ends, and the grant is given in the last frame, or in a grant frame of its own (R385, R386, R395-R397). -/
def Sys2Proof.Clauses.FrameSending : Prop :=
  ∀ (s : State) (p r : Nat), p < 16 → s.portSt p = 2 → s.calSlot ≠ none → (s.port p).done = false → (s.port p).flits ≤ 167616 →
    s.peerOf s.pkgNo p (s.calT % 8) = some r →
    (∀ i e offer, s.pick p r = some (i, e, offer) → s.duePort r e = p →
      Leaves (exec (.frameTransmit p) s) (fun t => t.egress = s.egress.eraseIdx i
        ∧ (t.port p).flits = (s.port p).flits + e.flits ∧ t.net = s.net ∧ t.hbm = s.hbm
        ∧ (∀ q, (t.sent.filter (fun f => f.1 == q)).flatMap (fun f => f.2.2)
          = (s.sent.filter (fun f => f.1 == q)).flatMap (fun f => f.2.2) ++ if q = p then [e.words] else [])
        ∧ ((s.port p).flits % 64 = 0 → ∃ h : Word, t.sent[s.sent.length]? = some (p, h, [e.words]) ∧ t.sent.take s.sent.length = s.sent
          ∧ bits h 63 57 = s.pkgNo ∧ bits h 56 50 = r ∧ bits h 49 47 = s.lgn ∧ bits h 46 44 = s.calT % 8 ∧ bits h 43 40 = p ∧ bits h 27 16 = 0
          ∧ bits h 11 0 = (s.port p).flits / 64)))
    ∧ (s.pick p r = none →
      Leaves (exec (.frameTransmit p) s) (fun t => (t.port p).done = true ∧ (t.port p).given.get 0 (128 + r) = s.grantOut
        ∧ t.egress = s.egress ∧ t.net = s.net ∧ t.hbm = s.hbm
        ∧ ((s.port p).flits = 0 → s.grantOut = 0 → t.sent = s.sent)
        ∧ ((s.port p).flits = 0 → s.grantOut ≠ 0 → ∃ h : Word, t.sent = s.sent ++ [(p, h, [])] ∧ bits h 27 16 = s.grantOut)
        ∧ ((s.port p).flits ≠ 0 → t.sent.map (fun f => (f.1, f.2.2)) = s.sent.map (fun f => (f.1, f.2.2))
          ∧ ∀ f, (t.sent.filter (fun f => f.1 == p)).getLast? = some f → bits f.2.1 27 16 = s.grantOut)))

/-- FRAME_RECEIVE: an uncorrectable frame counts in OPTPORTp[15:0] with an error record of kind 5, and a bulk answer it
carried is a data error of the engine access that awaits it; one not of the calendar counts in OPTPORTp[31:16]; of one that matches, a packet for another package is held as relay as far as this
package has granted room in the slot, and one of an unknown sender is dropped and counted (R387, R392, R395, R397, R410, R411). -/
def Sys2Proof.Clauses.FrameArrival : Prop :=
  ∀ (s : State) (p : Nat) (h : Word) (pkts : List (List Word)), p < 16 → s.portSt p = 2 → s.calSlot ≠ none →
    let cnt := fun (t : State) (lo : Nat) => bits (t.pkg.optport.get 0 p) (lo + 15) lo
    let fits := ∃ r, s.peerOf s.pkgNo p (s.calT % 8) = some r ∧ bits h 63 57 = r ∧ bits h 56 50 = s.pkgNo ∧ bits h 49 47 = s.lgn
      ∧ bits h 46 44 = s.calT % 8
    Leaves (exec (.frameReceive p false h pkts) s) (fun t => cnt t 0 = min 65535 (cnt s 0 + 1) ∧ cnt t 16 = cnt s 16
      ∧ ∃ (q : Packet) (w : List Word), t.net.getLast? = some q ∧ q.kind = .sysm w ∧ bits (w.getD 1 0) 7 0 = 5
        ∧ ((∀ ws ∈ pkts, bits (ws.getD 1 0) 49 48 ≠ 2) → t.net = s.net ++ [q] ∧ t.replies = s.replies))
    ∧ (∀ (ws : List Word) (q : Packet), bits (ws.getD 1 0) 49 48 = 2 → bits (ws.getD 1 0) 56 50 = s.pkgNo → bits (ws.getD 2 0) 3 0 = 2 →
      s.net.find? (fun x => x.space == .remote (bits (ws.getD 1 0) 63 57) && x.id == (ws.getD 3 0).toNat) = some q → q.kind ≠ .pf →
      Leaves (exec (.frameReceive p false h [ws]) s) (fun t => ∃ x : Reply, t.replies = s.replies ++ [x] ∧ x.kind = .dataErr ∧ x.src = q.src ∧ x.va = q.va))
    ∧ (¬fits → Leaves (exec (.frameReceive p true h pkts) s) (fun t => cnt t 16 = min 65535 (cnt s 16 + 1) ∧ cnt t 0 = cnt s 0
      ∧ (t.port p).good = (s.port p).good ∧ t.egress = s.egress ∧ t.net = s.net ∧ t.hbm = s.hbm))
    ∧ (fits → ∀ ws : List Word,
      (bits (ws.getD 1 0) 56 50 ≠ s.pkgNo → 64 * (s.port p).given.get 0 (bits h 63 57) < (s.port p).relayed + wireFlits ws →
        Leaves (exec (.frameReceive p true h [ws]) s) (fun t => (t.port p).good = true ∧ t.net = s.net ∧ t.egress = s.egress))
      ∧ (bits (ws.getD 1 0) 56 50 ≠ s.pkgNo → (s.port p).relayed + wireFlits ws ≤ 64 * (s.port p).given.get 0 (bits h 63 57) →
        Leaves (exec (.frameReceive p true h [ws]) s) (fun t => (t.port p).good = true ∧ (t.port p).relayed = (s.port p).relayed + wireFlits ws
        ∧ t.net = s.net ∧ t.egress = s.egress ++ [{
          dst := bits (ws.getD 1 0) 56 50, cls := bits (ws.getD 1 0) 49 48, words := ws, relay := true
          late := wireIsMsg ws && bits (ws.getD 7 0) 32 17 == 0, die := p / 4 }]))
      ∧ (∀ org, bits (ws.getD 1 0) 56 50 = s.pkgNo → bits (ws.getD 1 0) 63 57 = org → bits (ws.getD 1 0) 47 44 = 0 →
        ((s.pkg.peers.get 0 org).getLsbD 63 = false ∨ bits (ws.getD 0 0) 63 48 ≠ bits (s.pkg.peers.get 0 org) 47 32
          ∨ bits (ws.getD 1 0) 43 36 ≠ bits (s.pkg.peers.get 0 org) 55 48) →
        Leaves (exec (.frameReceive p true h [ws]) s) (fun t => t.net = s.net ∧ t.egress = s.egress
          ∧ bits (t.pkg.peers.get 0 org) 31 0 = min 0xFFFFFFFF (bits (s.pkg.peers.get 0 org) 31 0 + 1))))

/-- SEQUENCE_ACK sends the number expected next after 64 packets delivered, or once in a cycle, RETRANSMIT_TIMEOUT sends a
copy again 102.4 µs after it left, LATE_PACKET_AGING puts a late packet that has waited 65,536 cycles at its queue first,
HELLO_SEND sends a hello once in a cycle, in the first slot that links the two, HELLO_RECEIVE makes the sender known with
its incarnation and epoch, PEER_TIMEOUT after 8 silent cycles forgets it and advances its epoch (R366, R401, R410-R412). -/
def Sys2Proof.Clauses.PeerEvents : Prop :=
  ∀ s : State,
    (∀ (j cls : Nat), cls < 2 → (s.pkg.peers.get 0 j).getLsbD 63 = true →
      let x := s.pairs.get {} (2 * j + cls)
      let due := 64 ≤ x.sinceAck ∨ ((x.sinceAck ≠ 0 ∨ x.heldPk ≠ [] ∨ x.again = true) ∧ x.ackAt ≠ s.calT / 8 + 1)
      (due → Leaves (exec (.sequenceAck j cls) s) (fun t => ∃ e : EPkt, t.egress = s.egress ++ [e] ∧ e.dst = j ∧ e.cls = 3
        ∧ e.words.getLast? = some (BitVec.ofNat 64 x.rxNext)
        ∧ t.pairs.get {} (2 * j + cls) = { x with sinceAck := 0, again := false, ackAt := s.calT / 8 + 1 } ∧ t.net = s.net))
      ∧ (¬due → exec (.sequenceAck j cls) s = .next s))
    ∧ (∀ (j cls n at_ : Nat) (ws : List Word), cls < 2 → (s.pairs.get {} (2 * j + cls)).copies.find? (fun c => c.1 == n) = some (n, ws, at_) → at_ ≠ 0 →
      at_ + 103 ≤ s.homeUs + 1 → (∀ e ∈ s.egress, ¬(e.again = true ∧ e.dst = j ∧ e.cls = cls ∧ e.seq = some n)) →
      exec (.retransmitTimeout j cls n) s = .next { s with egress := s.egress ++ [{ dst := j, cls := cls, words := ws, seq := some n, again := true, die := j % 4 }] })
    ∧ (∀ k : Nat, Leaves (exec (.latePacketAging k) s) (fun t => { t with egress := s.egress } = s ∧ t.egress.length = s.egress.length
      ∧ ∀ i e, s.egress[i]? = some e → t.egress[i]? = some (if i = k ∧ e.late = true ∧ 65536 ≤ e.age then { e with due := true } else e)))
    ∧ ∀ j : Nat, j ≠ s.pkgNo → j < 2 ^ s.lgn → s.pkg.calcfg.getLsbD 63 = true →
      let w := s.pkg.peers.get 0 j
      (s.calSlot ≠ none → j ∈ s.linkOwn (s.calT % 8) → (∀ x, x < s.calT % 8 → j ∉ s.link s.pkgNo x) →
        (s.helloSent.get 0 j ≠ s.calT / 8 + 1 → Leaves (exec (.helloSend j) s) (fun t => ∃ e : EPkt, t.egress = s.egress ++ [e] ∧ e.dst = j ∧ e.cls = 3
          ∧ bits (e.words.getD 1 0) 47 44 = 1 ∧ bits (e.words.getD 0 0) 63 48 = s.pkg.incarn % 65536 ∧ bits (e.words.getD 1 0) 43 36 = bits w 55 48
          ∧ t.helloSent.get 0 j = s.calT / 8 + 1 ∧ { t with egress := s.egress, pairs := s.pairs, helloSent := s.helloSent } = s))
        ∧ (s.helloSent.get 0 j = s.calT / 8 + 1 → exec (.helloSend j) s = .next s))
      ∧ (∀ (inc : BitVec 16) (ep : BitVec 8), Leaves (exec (.helloReceive j inc ep) s) (fun t => let v := t.pkg.peers.get 0 j
        let d := (ep.toNat + 256 - bits w 55 48) % 256
        v.getLsbD 63 = true ∧ t.helloAge.get 0 j = 0
        ∧ (if bits w 47 32 = 0 ∨ inc.toNat ≠ bits w 47 32 then bits v 47 32 = inc.toNat ∧ bits v 55 48 = ep.toNat
          else bits v 47 32 = bits w 47 32 ∧ bits v 55 48 = if 1 ≤ d ∧ d ≤ 127 then ep.toNat else bits w 55 48)))
      ∧ (8 ≤ s.helloAge.get 0 j → (∃ p, p < 16 ∧ s.portSt p = 2) →
        Leaves (exec (.peerTimeout j) s) (fun t => (t.pkg.peers.get 0 j).getLsbD 63 = false ∧ t.helloAge.get 0 j = 0
          ∧ bits (t.pkg.peers.get 0 j) 55 48 = (bits w 55 48 + 1) % 256 ∧ t.pairs.has (2 * j) = false ∧ t.pairs.has (2 * j + 1) = false
          ∧ ∀ e ∈ t.egress, e.relay = true ∨ e.dst ≠ j))

/-! ### The companion processor -/

/-- HOST_READ reads one sector at its home at a time and answers with the words once it has them all, HOST_WRITE stores the
enabled bytes, HOST_ATOMIC performs the operation and answers with the old value, HOST_ENQUEUE appends as enq does, each where
no claim and no full set of the cache stands in the way; outside device memory, unaligned or halted each answers with an error
and changes nothing else (R413, R415). -/
def Sys2Proof.Clauses.HostMemory : Prop :=
  ∀ (s : State) (pa : Nat),
    let gone := s.hostWait.filter (fun x => x != pa / 64)
    let errs := (.next { s with hostWait := gone, hostOut := s.hostOut ++ [[1]] } : Host.Outcome State Fault Refusal)
    let quiet := s.ords = [] ∧ s.chains = []
    let room := s.makeRoom (pa / 256) 0 = s
    let words := fun (i : Nat) => (List.range 8).map (fun w => BitVec.ofNat 64 (s.devNum (pa + 64 * i + 8 * w) 8))
    (∀ n, (n = 64 ∨ n = 256) → s.hostRange pa n = true → room →
      let got := s.hostGot.get [] pa
      let left := (List.range (n / 64)).filter (fun i => !got.any (fun g => g.1 == i))
      (∀ i ∈ left, s.hostWaits (pa + 64 * i) = false ∧ s.devBad (pa + 64 * i) 64 = false) →
      (2 ≤ left.length → Leaves (exec (.hostRead pa n) s) (fun t => (∃ i ∈ left, t.hostGot.get [] pa = (i, words i) :: got)
        ∧ t.hostOut = s.hostOut ∧ t.hbm = s.hbm))
      ∧ (∀ i, left = [i] → Leaves (exec (.hostRead pa n) s) (fun t => t.hostGot.get [] pa = []
        ∧ t.hostOut = s.hostOut ++ [0 :: (List.range (n / 64)).flatMap (fun k => if k = i then words i
          else ((got.find? (fun g => g.1 == k)).map (fun g => g.2)).getD [])]
        ∧ { t with hostOut := s.hostOut, hostGot := s.hostGot, hostWait := s.hostWait, choices := s.choices, llc := s.llc, bad := s.bad } = s)))
    ∧ (∀ (d : Vec) (m : Word), quiet → room → s.hostRange pa 64 = true → s.hostWaits pa = false → s.devMergeBad (pa / 64) m = false →
      Leaves (exec (.hostWrite pa d m) s) (fun t => t.hostOut = s.hostOut ++ [[0]] ∧ t.cores = s.cores ∧ t.hostMem = s.hostMem
        ∧ ∀ i, i < 64 → (t.sectorData (pa / 64)).extractLsb' (8 * i) 8
          = if m.getLsbD i then d.extractLsb' (8 * i) 8 else (s.sectorData (pa / 64)).extractLsb' (8 * i) 8))
    ∧ (∀ (op size : BitVec 4) (b d : Word), linkAtomic op.toNat size.toNat = true →
      let n := 4 * 2 ^ size.toNat
      s.hostRange pa n = true → s.hostWaits pa = false → s.devBad pa n = false → quiet → room →
      Leaves (exec (.hostAtomic op size pa b d) s) (fun t => t.hostOut = s.hostOut ++ [[0, BitVec.ofNat 64 (s.devNum pa n)]]
        ∧ t.devNum pa n = (amoResult op.toNat n (s.devNum pa n) (b.toNat % 2 ^ (8 * n)) (d.toNat % 2 ^ (8 * n))).1 % 2 ^ (8 * n)
        ∧ t.cores = s.cores ∧ t.hostMem = s.hostMem))
    ∧ (∀ (ctx : Nat) (item : Vec), s.hostRange pa 64 = true → s.hostWaits pa = false → s.devBad pa 64 = false → room →
      let h := s.homeWords .dev pa 8
      let q := h.getD 3 0 - h.getD 2 0
      (queueBad h = true → Leaves (exec (.hostEnqueue pa ctx item) s) (fun t => t.hostOut = s.hostOut ++ [[0, 2]] ∧ t.hbm = s.hbm))
      ∧ (queueBad h = false → q = BitVec.ofNat 64 (2 ^ (h.getD 1 0).toNat) →
        Leaves (exec (.hostEnqueue pa ctx item) s) (fun t => t.hostOut = s.hostOut ++ [[0, 1]] ∧ t.hbm = s.hbm))
      ∧ (queueBad h = false → q ≠ BitVec.ofNat 64 (2 ^ (h.getD 1 0).toNat) → quiet →
        let s1 := (s.hostGo pa).devLoad pa 64 0
        let tail := h.getD 3 0
        let va := ringAddr h tail
        let place := s1.ringPlace { pkg := s.pkgNo, ctx := ctx, sys := true } va 2
        (place = none → Leaves (exec (.hostEnqueue pa ctx item) s) (fun t => t.hostOut = s.hostOut ++ [[0, 3]] ∧ t.hbm = s.hbm))
        ∧ ∀ r, place = some r → (r.space = .dev → r.addr va / 64 ≠ pa / 64 ∧ s1.makeRoom (r.addr va / 256) r.pol = s1) →
          (s1.ringLost r va = true → Leaves (exec (.hostEnqueue pa ctx item) s) (fun t => t.hostOut = s.hostOut ++ [[1]] ∧ t.hbm = s.hbm))
          ∧ (s1.ringLost r va = false → Leaves (exec (.hostEnqueue pa ctx item) s) (fun t => t.hostOut = s.hostOut ++ [[0, 0]]
            ∧ (∀ i, i < 64 → t.homeNum r.space (r.addr va + i) 1
              = (if i < 4 then tail.extractLsb' (8 * i) 8 else item.extractLsb' (8 * i) 8).toNat)
            ∧ t.homeNum .dev (pa + 24) 8 = (tail + 1).toNat))))
    ∧ (∀ n, (n ≠ 64 ∧ n ≠ 256) ∨ s.hostRange pa n = false → exec (.hostRead pa n) s = .next { s with hostOut := s.hostOut ++ [[1]] })
    ∧ (∀ (d : Vec) (m : Word), s.hostRange pa 64 = false → exec (.hostWrite pa d m) s = errs)
    ∧ (∀ (op size : BitVec 4) (b d : Word), (linkAtomic op.toNat size.toNat = false ∨ s.hostRange pa (4 * 2 ^ size.toNat) = false) →
      exec (.hostAtomic op size pa b d) s = errs)
    ∧ ∀ (ctx : Nat) (item : Vec), s.hostRange pa 64 = false → exec (.hostEnqueue pa ctx item) s = errs

/-- HOST_CSRRD answers with the register; HOST_CSRWR writes it where HOSTCFG.mw is 1, and answers with an error where it is 0
or the register cannot be reached; LINK_FLIT_FAILURE answers an access to host memory with a data error; READOUT_READ gives one
word of state; none of the reads changes anything else (R413, R414, R421, R426). -/
def Sys2Proof.Clauses.HostRegisters : Prop :=
  ∀ (s : State) (u : Nat) (n : BitVec 10) (v : Word),
    let answers := fun (ws : List Word) => (.next { s with hostOut := s.hostOut ++ [ws] } : Host.Outcome State Fault Refusal)
    let reached := s.hostCsr u n.toNat = true
    (reached → exec (.hostCsrrd u n) s = answers [0, s.csrRead (u / 4) (u % 4) n.toNat])
    ∧ (¬reached → exec (.hostCsrrd u n) s = answers [1] ∧ exec (.hostCsrwr u n v) s = answers [1])
    ∧ (s.pkg.hostcfg.getLsbD 63 = false → exec (.hostCsrwr u n v) s = answers [1])
    ∧ (∀ m, reached → s.pkg.hostcfg.getLsbD 63 = true → s.csrBusy n.toNat = false → csrHolds n.toNat = some m →
      Leaves (exec (.hostCsrwr u n v) s) (fun t => t.hostOut = s.hostOut ++ [[0]] ∧ t.csrRead (u / 4) (u % 4) n.toNat = v &&& m
        ∧ t.hbm = s.hbm ∧ t.hostMem = s.hostMem ∧ t.net = s.net ∧ ∀ c x, t.localByte c x = s.localByte c x))
    ∧ (∀ (id : Nat) (p : Packet), s.net.find? (fun p => p.id == id) = some p → p.home = .host →
      Leaves (exec (.linkFlitFailure id) s) (fun t => t.net = s.net.filter (fun q => q.id != id)
        ∧ t.replies = s.replies ++ [p.reply (if p.kind = .pf then .ack else .dataErr)]
        ∧ { t with net := s.net, replies := s.replies } = s))
    ∧ ∀ (c a : Nat),
      let reads := fun (w : Word) => (.next { s with readOut := s.readOut ++ [w] } : Host.Outcome State Fault Refusal)
      exec (.readoutRead 0 u a) s = reads (s.csrRead (u / 4) (u % 4) a)
        ∧ exec (.readoutRead 1 c a) s = reads (BitVec.ofNat 64 (leNum (s.localByte c) a 8))
        ∧ exec (.readoutRead 6 c a) s = reads ((s.coreAt c).rows.get 0 a)
        ∧ exec (.readoutRead 9 c a) s = reads (BitVec.ofNat 64 (s.coreAt c).cycles)
        ∧ exec (.readoutRead 10 u a) s = reads (BitVec.ofNat 64 (s.thAt (u / 4) (u % 4)).synret)

/-! ### Starts, quotes, adaptive control and live service -/

/-- POWER_ON asks for a cold start. COLD_START and WARM_START that complete leave a device with no work, after a cold start zero local memories,
BOOTSTAT of their kind, the next incarnation and the start record's calendar, a warm start with HBM kept the bytes its cache
and HBM held; one that fails leaves its step and cause, the third failure of a warm start asks for a cold one, a cold one's
leaves safe mode. POWER_LOSS leaves only what persists; a number that it caught in writing is never issued again. QUOTE signs the
nonce, what was measured and INCARN (R419-R423). -/
def Sys2Proof.Clauses.StartEvents : Prop :=
  ∀ s : State,
    (s.pkg.off = true → Leaves (exec .powerOn s) (fun t => t.pkg = { s.pkg with off := false, startReq := some (false, false) } ∧ { t with pkg := s.pkg } = s))
    ∧ (∀ (cold keep : Bool), s.pkg.startReq = some (!cold, keep) →
      Leaves (exec (if cold then .coldStart else .warmStart keep) s) (fun t =>
      (s.startFails cold = none → (cold = true → ∀ n a, t.localByte n a = 0) ∧ t.jobs = [] ∧ t.net = [] ∧ t.launches = [] ∧ t.llc = []
        ∧ bits t.pkg.bootstat 63 62 = (if cold then 1 else 2) ∧ t.pkg.bootstat.getLsbD 0 = true ∧ t.pkg.bootstat.getLsbD 61 = false
        ∧ some t.pkg.incarn = s.pkg.nextInc
        ∧ t.pkg.measured = [.firmware s.nextId, .routines s.nextId, .record s.pkg.recCal s.pkg.recAdv s.pkg.recPeers]
        ∧ t.pkg.calcfg = s.pkg.recCal ∧ t.pkg.startReq = none ∧ t.hostMem = s.hostMem
        ∧ ((cold = false ∧ keep = true) → (∀ k, (s.sector k).v = true → (s.sector k).d = false → (s.sector k).data = s.hbmSector k) →
          ∀ k, t.hbmSector k = s.sectorData k))
      ∧ ∀ step cause, s.startFails cold = some (step, cause) → bits t.pkg.bootstat 58 48 = step ∧ bits t.pkg.bootstat 47 40 = cause
        ∧ t.pkg.bootstat.getLsbD 0 = false ∧ t.pkg.safe = cold ∧ t.pkg.bootstat.getLsbD 61 = cold
        ∧ t.pkg.startReq = (if cold then none else if 3 ≤ bits s.pkg.bootstat 60 59 + 1 then some (false, false) else some (true, keep))))
    ∧ (∀ k : Nat, Leaves (exec (.powerLoss k) s) (fun t => t.pkg.off = true ∧ t.cores = [] ∧ t.hbm = [] ∧ t.jobs = [] ∧ t.net = []
      ∧ t.pkg.recCal = s.pkg.recCal ∧ t.pkg.recAdv = s.pkg.recAdv ∧ t.pkg.recPeers = s.pkg.recPeers
      ∧ (s.pkg.startReq = none → t.pkg.inc0 = s.pkg.inc0 ∧ t.pkg.inc1 = s.pkg.inc1)
      ∧ ((t.pkg.inc0 ≠ s.pkg.inc0 ∨ t.pkg.inc1 ≠ s.pkg.inc1) → ∀ n, s.pkg.nextInc = some n → n ∈ t.pkg.incUsed)
      ∧ (t.pkg.inc0 = s.pkg.inc0 ∨ t.pkg.inc0 = none ∨ t.pkg.inc0 = s.pkg.nextInc)
      ∧ (t.pkg.inc1 = s.pkg.inc1 ∨ (t.pkg.inc0 = s.pkg.nextInc ∧ (t.pkg.inc1 = none ∨ t.pkg.inc1 = s.pkg.nextInc)))))
    ∧ (s.pkg.attbusy = true → Leaves (exec .quote s) (fun t => t.pkg = { s.pkg with
        attbusy := false, sig := some ((List.range 4).map (fun i => s.pkg.attnonce.get 0 i), s.pkg.measured, s.pkg.incarn) }
      ∧ { t with pkg := s.pkg } = s))

/-- DROOP_LOOP moves a hedge's clock ratio by at most one within 32 to 64; LOOKAHEAD_THRESHOLD moves LGTHR by at most one
after 1,024 lg.pf; REPLICA_HINT after 1,024 rt.run posts an item of kind 3 with an expert whose bins filled most often and how often; OPTICAL_EQUALISATION and HBM_RECALIBRATION change no
state (R424). -/
def Sys2Proof.Clauses.AdaptiveControl : Prop :=
  ∀ s : State,
    (∀ (h : Nat) (up : Bool), h < 256 → 32 ≤ (s.hedge h).hclk → (s.hedge h).hclk ≤ 64 →
      Leaves (exec (.droopLoop h up) s) (fun t => 32 ≤ (t.hedge h).hclk ∧ (t.hedge h).hclk ≤ 64
        ∧ ((t.hedge h).hclk = (s.hedge h).hclk ∨ (t.hedge h).hclk = (if up then (s.hedge h).hclk + 1 else (s.hedge h).hclk - 1))
        ∧ (∀ k, k ≠ h → t.hedge k = s.hedge k) ∧ { t with hedges := s.hedges } = s))
    ∧ (∀ d : Nat, d < 4 → 1024 ≤ (s.die d).lgPfCount → 1 ≤ (s.die d).lgthr →
      let x := s.die d
      Leaves (exec (.lookaheadThreshold d) s) (fun t => (t.die d).lgPfCount = x.lgPfCount - 1024 ∧ 1 ≤ (t.die d).lgthr
        ∧ (2 * x.lgHit < x.lgPf → (t.die d).lgthr = min (x.lgthr + 1) 0xFFFFFFFF)
        ∧ (3 * x.lgPf < 4 * x.lgHit → (t.die d).lgthr = max 1 (x.lgthr - 1))
        ∧ (x.lgPf ≤ 2 * x.lgHit → 4 * x.lgHit ≤ 3 * x.lgPf → (t.die d).lgthr = x.lgthr) ∧ { t with dies := s.dies } = s))
    ∧ (∀ e : Nat, 1024 ≤ s.pkg.rtRuns → s.pkg.hintq ≠ 0 → e < 65535 → (∀ x ∈ s.pkg.fills, x.2 ≤ s.pkg.fills.get 0 e) →
      let f := s.pkg.fills.get 0 e
      Leaves (exec (.replicaHint e f) s) (fun t => t.pkg.rtRuns = s.pkg.rtRuns - 1024 ∧ t.pkg.fills = [] ∧ ∃ (p : Packet) (w : List Word),
        t.net = s.net ++ [p] ∧ p.kind = .sysm w ∧ w.length = 8 ∧ bits (w.getD 0 0) 41 32 = 3
        ∧ w.getD 1 0 = BitVec.ofNat 64 e ∧ w.getD 2 0 = BitVec.ofNat 64 f ∧ p.va = s.pkg.hintq))
    ∧ ∀ k : Nat, exec (.opticalEqualisation k) s = .next s ∧ exec (.hbmRecalibration k) s = .next s

/-- The operations of SVCCTL end with busy 0 and their result: DRAIN_HEDGE of an idle hedge takes it out of service and of
another gives 1; RELOAD_HEDGE gives back a drained one with zero local memories; RETIRE_STACK makes a stack fail, RETURN_STACK
brings it back zeroed; RECALIBRATE_PORT changes nothing else; REPLACE_FIRMWARE takes a signed image (R425). -/
def Sys2Proof.Clauses.LiveService : Prop :=
  ∀ s : State, s.pkg.svcctl.getLsbD 63 = true →
    let op := bits s.pkg.svcctl 62 60
    let k := s.svcUnit
    let h := hedgePos k
    let ends := fun (t : State) (r : Nat) => t.pkg.svcctl.getLsbD 63 = false ∧ bits t.pkg.svcctl 59 56 = r
    (op = 0 → (s.hedgeIdle h = true → Leaves (exec .drainHedge s) (fun t => ends t 0 ∧ (t.hedge h).drained = true ∧ t.cores = s.cores))
      ∧ (s.hedgeIdle h = false → Leaves (exec .drainHedge s) (fun t => ends t 1 ∧ { t with pkg := s.pkg } = s)))
    ∧ (op = 1 → ((s.hedge h).drained = true → Leaves (exec .reloadHedge s) (fun t => ends t 0 ∧ (t.hedge h).drained = false
        ∧ (∀ n, n ∈ hedgeCores h → ∀ a, t.localByte n a = 0) ∧ ∀ n, n ∉ hedgeCores h → t.coreAt n = s.coreAt n))
      ∧ ((s.hedge h).drained = false → Leaves (exec .reloadHedge s) (fun t => ends t 3 ∧ { t with pkg := s.pkg } = s)))
    ∧ (op = 2 → k < 12 → Leaves (exec .retireStack s) (fun t => ends t 0 ∧ (∀ pa, pa / 2 ^ 36 = k → t.retired pa = true ∧ t.llc.has (pa / 64) = false)
        ∧ ∀ pa, pa / 2 ^ 36 ≠ k → t.retired pa = s.retired pa))
    ∧ (op = 3 → (s.retired (2 ^ 36 * k) = true → s.hbm.wf = true → Leaves (exec .returnStack s) (fun t => ends t 0
        ∧ (∀ pa, pa / 2 ^ 36 = k → t.retired pa = false ∧ t.hbmByte pa = 0) ∧ ∀ pa, pa / 2 ^ 36 ≠ k → t.retired pa = s.retired pa ∧ t.hbmByte pa = s.hbmByte pa))
      ∧ (s.retired (2 ^ 36 * k) = false → Leaves (exec .returnStack s) (fun t => ends t 3 ∧ { t with pkg := s.pkg } = s)))
    ∧ (op = 4 → Leaves (exec .recalibratePort s) (fun t => ends t 0 ∧ { t with pkg := s.pkg } = s ∧ t.pkg.optport = s.pkg.optport))
    ∧ (op = 5 → Leaves (exec .replaceFirmware s) (fun t => (if Config.imageOk (Measured.replaced s.nextId s.pkg.svcaddr).bytes
          then ends t 0 ∧ t.pkg.measured = s.pkg.measured ++ [.replaced s.nextId s.pkg.svcaddr] else ends t 2 ∧ t.pkg.measured = s.pkg.measured)
        ∧ { t with pkg := s.pkg, nextId := s.nextId } = s))

/-! ### Pre-emption, time and errors -/

/-- PREEMPT_SAVE and PREEMPT_KILL put the stop in force and go on until everything is stopped; then a save keeps an image under
the next number, with the context's jobs, the launches inside the rectangle and each core's threads and entries, and leaves the
stop in force, or gives 1 where it does not fit; a kill leaves no job, queue entry, parked task or record of the context there and
ends with the stop gone; a restore
checks the header, the context and rectangle, the length, the placement map and the workspaces in this order, waits while slots,
queues or engines that it needs are taken (the model's choice, log 71), and ends with the stop gone (R371, R372, R374-R376). -/
def Sys2Proof.Clauses.PreemptionEvents : Prop :=
  ∀ s : State, s.pkg.prectl.getLsbD 63 = true →
    let op := bits s.pkg.prectl 62 61
    let ctx := bits s.pkg.prectl 15 0
    let r := s.pkg.prerect
    let s1 := s.preBegin.stopWork ctx
    let s2 := s1.flushStopped ctx
    let ends := fun (t : State) (x : Nat) => t.pkg.prectl.getLsbD 63 = false ∧ bits t.pkg.prectl 59 56 = x
    (∀ i : Instr, ((op = 0 ∧ i = .preemptSave) ∨ (op = 2 ∧ i = .preemptKill)) → s1.stopped ctx = false → s.pkg.preOn = false →
      Leaves (exec i s) (fun t => (ctx, r) ∈ t.pkg.stops ∧ t.pkg.prectl = s.pkg.prectl ∧ t.images = s.images))
    ∧ (op = 0 → s1.stopped ctx = true → s.pkg.preOn = false → Leaves (exec .preemptSave s) (fun t => (ctx, r) ∈ t.pkg.stops
      ∧ ((ends t 1 ∧ t.images = s.images)
        ∨ (ends t 0 ∧ ∃ i : Image, t.images = i :: s.images ∧ bits (i.hdr.getD 0 0) 31 16 = ctx ∧ i.hdr.getD 1 0 = r
          ∧ t.pkg.imgSeq.get 0 ctx = s.pkg.imgSeq.get 0 ctx + 1
          ∧ i.jobs = s2.jobs.filter (fun j => j.ctx == ctx && j.holds && inRect r j.lin)
          ∧ i.launches = s2.launches.filter (fun l => l.2.inside ctx r)
          ∧ i.cores.map (fun c => c.lin) = (rectCores r).filter (fun lin => (s2.place 256 ctx lin).isSome)
          ∧ (∀ c ∈ i.cores, ∀ n, s2.place 256 ctx c.lin = some n →
            c.slots = (s2.coreAt n).slots.filter (fun x => x.2.st != .free && x.2.th.ctx == ctx)
            ∧ c.rq.map (fun e => e.th) = ((s2.coreAt n).rq.filter (fun e => e.th.ctx == ctx)).map (fun e => e.th)
            ∧ c.park = (s2.coreAt n).park.filter (fun p => p.th.ctx == ctx))
          ∧ ∀ j ∈ t.jobs, j.ctx = ctx → inRect r j.lin = true → j.holds = false))))
    ∧ (op = 2 → s1.stopped ctx = true → Leaves (exec .preemptKill s) (fun t => ends t 0 ∧ (ctx, r) ∉ t.pkg.stops ∧ t.images = s.images
      ∧ (∀ j ∈ t.jobs, j.ctx = ctx → inRect r j.lin = true → j.holds = false)
      ∧ ∀ lin ∈ rectCores r, ∀ n, s2.place 256 ctx lin = some n →
        (∀ e ∈ (t.coreAt n).rq, e.th.ctx ≠ ctx) ∧ (∀ p ∈ (t.coreAt n).park, p.th.ctx ≠ ctx) ∧ ∀ x ∈ (t.coreAt n).ready, x.ctx ≠ ctx))
    ∧ (op = 1 → let wsFree := fun (i : Image) => ∀ c ∈ i.cores, ∃ n, s.place 256 ctx c.lin = some n ∧ ∀ w ∈ c.own, (s.coreAt n).isFree w = true
      Leaves (exec .preemptRestore s) (fun t => let gives := fun (x : Nat) => ends t x ∧ { t with pkg := s.pkg } = s
      (s.readArea s.pkg.preimg.toNat 8 = none → gives 5)
      ∧ ∀ hdr, s.readArea s.pkg.preimg.toNat 8 = some hdr → let f := hdr.getD 0 0
        ((bits f 15 0 ≠ 1 ∨ bits f 63 33 ≠ 0) → gives 5)
        ∧ (bits f 15 0 = 1 → bits f 63 33 = 0 → ((bits f 31 16 ≠ ctx ∨ hdr.getD 1 0 ≠ r) → gives 2)
          ∧ (bits f 31 16 = ctx → hdr.getD 1 0 = r → (s.pkg.prelen.toNat < (hdr.getD 3 0).toNat → gives 1)
            ∧ ((hdr.getD 3 0).toNat ≤ s.pkg.prelen.toNat → (s.findImage hdr = none → gives 5) ∧ ∀ i, s.findImage hdr = some i →
              (s.mapOk 256 ctx (bits r 63 58) (bits r 57 52) (bits r 51 45) (bits r 44 38) = false → gives 3)
              ∧ (s.mapOk 256 ctx (bits r 63 58) (bits r 57 52) (bits r 51 45) (bits r 44 38) = true →
                (¬wsFree i → gives 4)
                ∧ (wsFree i → s.pkg.prectl.getLsbD 60 = true → ends t 0 ∧ t.images = s.images ∧ t.pkg.stops = s.pkg.stops ∧ t.jobs = s.jobs)
                ∧ (wsFree i → s.pkg.prectl.getLsbD 60 = false → s.slotsReady ctx i = false → t = s)
                ∧ (wsFree i → s.pkg.prectl.getLsbD 60 = false → s.slotsReady ctx i = true → ends t 0 ∧ (ctx, r) ∉ t.pkg.stops
                  ∧ t.images = s.images.map (fun x => if x.no = i.no then { x with away := false } else x))))))))

/-- REFERENCE_COUNTER_TICK of a core lowers each finite BUDGET of its workspaces, stopping at zero, and leaves every other byte;
of a queue, the budgets of its jobs; of the network, the budgets of headers; of the homes, their count; cycles of the egress queues age what waits there (R10, R121,
R133, R363, R366). -/
def Sys2Proof.Clauses.ClockTicks : Prop :=
  ∀ s : State,
    (∀ n : Nat, n < 4096 → Leaves (exec (.referenceCounterTick 0 n) s) (fun t =>
      (∀ w ∈ s.budgetWs n, w < 128 → (t.coreAt n).budget w = (if (s.coreAt n).budget w = noBudget then noBudget else (s.coreAt n).budget w - 1))
      ∧ (∀ a, (∀ w ∈ s.budgetWs n, ¬(wsBase w + 848 ≤ a ∧ a < wsBase w + 856)) → t.localByte n a = s.localByte n a)
      ∧ (t.coreAt n).rq.map (fun e => e.budget) = (s.coreAt n).rq.map (fun e => if e.budget = noBudget then noBudget else e.budget - 1)
      ∧ ∀ m, m ≠ n → t.coreAt m = s.coreAt m))
    ∧ (∀ q : Nat, Leaves (exec (.referenceCounterTick 1 q) s) (fun t => { t with jobs := s.jobs } = s ∧ t.jobs = s.jobs.map (fun j =>
      if j.pq = q ∧ j.holds = true then { j with
        budget := if j.budget = noBudget then noBudget else j.budget - 1
        usRun := if j.st = .running then j.usRun + 1 else j.usRun } else j)))
    ∧ (∀ k : Nat, Leaves (exec (.referenceCounterTick 2 k) s) (fun t => t.net.length = s.net.length ∧ t.cores = s.cores ∧ t.jobs = s.jobs
      ∧ ∀ (i : Nat) (p : Packet) (h : Word) (pay : List Word), s.net[i]? = some p → p.kind = .msg (h :: pay) → ∃ h' : Word, t.net[i]? = some { p with kind := .msg (h' :: pay) }
        ∧ bits h' 32 17 = (if bits h 32 17 = 65535 then 65535 else bits h 32 17 - 1) ∧ bits h' 63 33 = bits h 63 33 ∧ bits h' 16 0 = bits h 16 0))
    ∧ ∀ k : Nat, exec (.referenceCounterTick 3 k) s = .next { s with homeUs := s.homeUs + 1 }
      ∧ exec (.referenceCounterTick 4 k) s = .next { s with egress := s.egress.map (fun e => { e with age := e.age + k }) }

/-- UNCORRECTABLE_ERROR marks the granule of a memory, ends the job of an engine in error with its record, loses a packet with
its record, or kills the task whose queue entry it strikes; the die counts it, and an error that the code corrects in a count of its own
(R368-R370). -/
def Sys2Proof.Clauses.UncorrectableErrors : Prop :=
  ∀ (s : State) (u a : Nat),
    let unc := fun (t : State) (d : Nat) => (t.die d).unc = min ((s.die d).unc + 1) 0xFFFFFFFF
    let posted := fun (t : State) (kind : Nat) (l : List Packet) => ∃ (p : Packet) (w : List Word), t.net = l ++ [p] ∧ p.kind = .sysm w ∧ bits (w.getD 1 0) 7 0 = kind
    (u < 4096 → a < 131072 → ∀ k ∈ [0, 1], Leaves (exec (.uncorrectableError k u a) s) (fun t =>
      { kind := 0, u := u, addr := a / 8 * 8 : BadGranule } ∈ t.bad ∧ unc t (dieOf u) ∧ t.cores = s.cores ∧ t.hbm = s.hbm))
    ∧ (s.llc.has (a / 64) = true → a < 0xC000000000 → Leaves (exec (.uncorrectableError 2 u a) s) (fun t =>
      { kind := 2, u := 0, addr := a / 8 * 8 : BadGranule } ∈ t.bad ∧ unc t (a / (3 * 2 ^ 36)) ∧ t.cores = s.cores ∧ t.hbm = s.hbm))
    ∧ (a < 0xC000000000 → Leaves (exec (.uncorrectableError 3 u a) s) (fun t =>
      { kind := 1, u := 0, addr := a / 32 * 32 : BadGranule } ∈ t.bad ∧ unc t (a / (3 * 2 ^ 36)) ∧ t.cores = s.cores ∧ t.hbm = s.hbm))
    ∧ (∀ j, s.jobNo u = some j → j.live = true → Leaves (exec (.uncorrectableError 4 u a) s) (fun t =>
      t.jobs = (s.putJob { j with pending := some 7, finished := true }).jobs ∧ posted t 4 s.net ∧ unc t (dieOf j.core % 4)))
    ∧ ((∃ p ∈ s.net, p.id = a) → Leaves (exec (.uncorrectableError 5 u a) s) (fun t =>
      posted t 5 (s.net.filter (fun p => p.id != a)) ∧ unc t 0 ∧ t.cores = s.cores))
    ∧ Leaves (exec (.uncorrectableError 9 u a) s) (fun t => (t.die (u % 4)).corr = min ((s.die (u % 4)).corr + 1) 0xFFFFFFFF
      ∧ (t.die (u % 4)).unc = (s.die (u % 4)).unc ∧ { t with dies := s.dies } = s)
    ∧ ∀ e, u < 4096 → 64 ≤ a → a < 2 ^ 32 → (s.coreAt u).rq.find? (fun e => e.th.uid == a) = some e → e.fresh = true →
      e.th.launch = none → e.th.chain = none → s.whereIs a = none → (∀ c ∈ s.cores, c.1 ≠ u → ∀ x ∈ c.2.rq, x.th.uid ≠ a) →
      Leaves (exec (.uncorrectableError 6 u a) s) (fun t => (∀ x ∈ (t.coreAt u).rq, x.th.uid ≠ a) ∧ unc t (dieOf u) ∧ posted t 6 s.net)

/-! ### Select, address and division -/

/-- sel, R64 whole: the reg4 format on major 0x02 with func 0 decodes to it and every other func takes the illegal-syllable
trap; it reads a, b and c, pops each port among them, and writes A where C ≠ 0 and B where C = 0.
Completes: sel. -/
def Obligations.SelectRule : Prop :=
  (∀ w : Syll, bits w 30 25 = 2 →
    (bits w 4 0 = 0 → (Instr.sel (w.extractLsb' 20 5) (w.extractLsb' 15 5) (w.extractLsb' 10 5) (w.extractLsb' 5 5)).wf = true →
      decodeSyllable w = .ok (.sel (w.extractLsb' 20 5) (w.extractLsb' 15 5) (w.extractLsb' 10 5) (w.extractLsb' 5 5)))
    ∧ (bits w 4 0 ≠ 0 → ∀ (s : State) (r : List Move) (n : Nat) (late : Bool) (tl : List TlbEntry) (ls : List (Nat × Syll)) (ends : Bool),
      s.sched = .core n late :: r →
      let u : State := { s with sched := r }
      let th := u.thAt n (u.turnOf n)
      Issues u n late [w] tl ls ends → (u.slotAt n (u.turnOf n)).st = .running → swRa th.sw = false →
      step s = u.cycled n (.next (State.takeTrap { u.fetched n late tl ls 0 with grp := {} } n (u.turnOf n) { code := 1, addr := th.pc } th.pc th.sw))))
    ∧ ∀ (s : State) (d a b c : Reg), Alone s → (Instr.sel d a b c).wf = true → s.fed [a, b, c] →
      Leaves (exec (.sel d a b c) s) (Retires s
        { pops := portsOf [a, b, c], reg := some (d, if s.val c ≠ 0 then s.val a else s.val b), warn := fallAll s.curPfx })

/-- lea, R69 whole: major 0x0C with func 4 + k decodes to it; it reads a and b and writes A + (B << k), and performs no access
and no check of the address.
Completes: lea. -/
def Obligations.AddressRule : Prop :=
  (∀ (w : Syll) (k : BitVec 2), bits w 30 25 = 12 → bits w 9 0 = 4 + k.toNat →
    (Instr.lea (w.extractLsb' 20 5) (w.extractLsb' 15 5) (w.extractLsb' 10 5) k).wf = true →
    decodeSyllable w = .ok (.lea (w.extractLsb' 20 5) (w.extractLsb' 15 5) (w.extractLsb' 10 5) k))
  ∧ ∀ (s : State) (d a b : Reg) (k : BitVec 2), Alone s → (Instr.lea d a b k).wf = true → s.fed [a, b] →
    Leaves (exec (.lea d a b k) s) (Retires s
      { pops := portsOf [a, b], reg := some (d, s.val a + s.val b <<< k.toNat), warn := fallAll s.curPfx })

/-! ### Decoding and steps -/

/-- A step runs the decoded instruction: the syllable at the PC is the four bytes there; a core whose turn it is performs the
group that it fetches in order, from the state that keeps what the fetch used, and a group of one syllable is one exec of it;
then the cycle ends and the next slot has its turn; an engine performs the decoded word of its job; a word that stands for no
instruction is a fault of the job; an event of the schedule is one exec of it (R20, R24, R33, R120, R256, R257).
It rests on the model's choices and readings of logs 4 and 9. -/
def Obligations.StepRunsDecoded : Prop :=
  ∀ (s : State) (r : List Move),
    let u : State := { s with sched := r }
    (∀ (h ctx pa pol : Nat) (sys : Bool) (pc : Word) (tl : List TlbEntry), canonical pc = true → bits pc 1 0 = 0 → (sys = true ∨ pc.getLsbD 55 = false) →
      u.inAperture pc = false → u.remotePkg pc = none → u.translated h ctx sys pc 4 = .ok (.dev pa pol) tl →
      (∀ e ∈ (u.hedge h).icache, e.1 ≠ pa / 4) → u.devBad pa 4 = false →
      u.fetch h ctx sys pc = .ok (BitVec.ofNat 32 (u.devNum pa 4)) tl (pa / 4))
    ∧ (∀ (h ctx line : Nat) (sys : Bool) (pc : Word) (w : Syll) (tl : List TlbEntry), u.fetch h ctx sys pc = .ok w tl line → w.getLsbD 31 = true →
      u.fetchGroup h ctx sys 4 pc [] [] [] = .ok [w] tl [(line, w)] true)
    ∧ (∀ (n : Nat) (late ends : Bool) (ws : List Syll) (is : List Instr) (tl : List TlbEntry) (ls : List (Nat × Syll))
        (o : Host.Outcome State Fault Refusal), s.sched = .core n late :: r → Issues u n late ws tl ls ends →
      let v := u.fetched n late tl ls (is.length - 1)
      decodeAll (u.fetched n late tl ls 0).curPfx 0 ws = .ok is → illegalAt is.length (!ends) [] is = none → runGroup is v = o →
      (∀ t, o = .next t → (t.slotAt n (u.turnOf n)).stalled = false) → step s = u.cycled n o)
    ∧ (∀ (n : Nat) (late : Bool) (w : Syll) (i : Instr) (tl : List TlbEntry) (ls : List (Nat × Syll))
        (o : Host.Outcome State Fault Refusal), s.sched = .core n late :: r → Issues u n late [w] tl ls true →
      let v := u.fetched n late tl ls 0
      decodeWith v.curPfx w = some i → illegalAt 1 false [] [i] = none → exec i v = o →
      (∀ t, o = .next t → (t.slotAt n (u.turnOf n)).stalled = false) → step s = u.cycled n o)
    ∧ (∀ (o : Nat) (j : Job), s.sched = .engine o :: r → u.halted = false → u.jobNo o = some j → j.live = true → u.jobStopped j = false →
      j.ip < j.prog.length →
      (∀ i, decodeEngine (j.prog.getD j.ip 0) = .ok i → step s = exec i { u with job := o })
      ∧ (∀ e, decodeEngine (j.prog.getD j.ip 0) = .error e →
        step s = .next (u.putJob { j with pending := some 6, code := engineCode e, word := j.ip, finished := true })))
    ∧ ∀ i : Instr, i.isEvent = true → s.sched = .event i :: r → u.halted = false → step s = exec i u

/-- Words written out from the encodings of the spec decode to the instructions they stand for: `add w3, w1, w2` not ending
its group, `li w1, 10`, `addi w1, w1, -1`, `b.nz w1, -2`, `lsi w5, 0x6789A`, `bext w5, w1, 37, 6`, `stl.d`, `vldl`, `awrd`,
`ldg.d.acq`, `amo.add.d`, `waitw`, `deq`, `job.cp`, `csrr`, `trap 1`, `park`, and engine words of class 0 and 1. -/
def Obligations.DecodedWords : Prop :=
  decodeTableWord 32 0x02308800 = some (.add 3 1 2) ∧ decodeTableWord 32 0x1410000A = some (.li 1 10)
  ∧ decodeTableWord 32 0x8610FFFF = some (.addi 1 1 (-1)) ∧ decodeTableWord 32 0xA010FFFE = some (.bNz 1 (-2))
  ∧ decodeTableWord 32 0x9656789A = some (.lsi 5 0x6789A) ∧ decodeTableWord 32 0x9A50CA28 = some (.bext 5 1 37 5)
  ∧ decodeTableWord 32 0xB2B23310 = some (.stl 3 11 4 784) ∧ decodeTableWord 32 0xE0128020 = some (.vldl 1 5 2)
  ∧ decodeTableWord 32 0xEC508005 = some (.awrd 5 1) ∧ decodeTableWord 32 0xC060E000 = some (.ldg 6 0 6 1 0)
  ∧ decodeTableWord 32 0xC6609010 = some (.amoAdd 1 0 0 6 1 4) ∧ decodeTableWord 32 0xD6511003 = some (.waitw 5 2 4)
  ∧ decodeTableWord 32 0xD8EA3401 = some (.deq 14 20 13) ∧ decodeTableWord 32 0xF0531C10 = some (.job 1 5 6 7)
  ∧ decodeTableWord 32 0xF8400400 = some (.csrr 4 1) ∧ decodeTableWord 32 0xF8000406 = some (.trap 1)
  ∧ decodeTableWord 32 0xF80B0009 = some (.park 22) ∧ decodeTableWord 16 0x8005 = some (.lit 5)
  ∧ decodeTableWord 16 0x0002 = some .end_ ∧ decodeTableWord 16 0x040A = some .mmRun ∧ decodeTableWord 16 0x0000 = none

/-- What reset leaves: every CSR but MEAS0..7 reads zero save those whose entry gives another value (the value of INCARN, 1,
is the model's: log 7), every local memory byte is zero, every slot is free, and no job, launch or message exists (R13, R420).
It rests on the model's choices and readings of log 6. -/
def Obligations.ResetState : Prop :=
  let s := State.reset
  (∀ n k i : Nat, i < 1024 → ¬(0x230 ≤ i ∧ i < 0x238) → s.csrRead n k i
    = if i = 0x029 then 0x10 else if i = 0x116 then 0x40 else if i = 0x184 then 1 else if i = 0x202 then 0x80000000000001E8
      else if i = 0x204 then 1 else if i = 0x207 then 0x400A000000000001 else if i = 0x20B then 0x400 else if i = 0x20D then 12 else 0)
  ∧ (∀ n a : Nat, s.localByte n a = 0) ∧ (∀ n k : Nat, (s.slotAt n k).st = .free) ∧ s.jobs = [] ∧ s.launches = [] ∧ s.net = [] ∧ s.memOk

/-- Decode and encode agree: every well-formed instruction that has an encoding, with every operand at every value it
admits, is read back from its word with the stop bit it was given, and every word that decodes is the encoding of a well-formed
instruction; the bytes of an instruction decode to it and leave the rest of the stream (R24-R29, R256). -/
def Obligations.DecodeEncode : Prop :=
  (∀ i : Instr, i.wf = true →
    (∀ (st : Bool) (w : Syll), encodeSyllable i st = some w → decodeSyllable w = .ok i ∧ w.getLsbD 31 = st)
    ∧ (∀ w : EWord, encodeEngine i = some w → decodeEngine w = .ok i)
    ∧ (∀ rest : List Byte, i.isSyllable = true → decodeBytes (encode i ++ rest) = .ok (i, rest))
    ∧ ∀ rest : List Byte, i.isEngineWord = true → decodeEngineBytes (encode i ++ rest) = .ok (i, rest))
  ∧ (∀ (w : Syll) (i : Instr), decodeSyllable w = .ok i → i.wf = true ∧ encodeSyllable i (w.getLsbD 31) = some w)
  ∧ ∀ (w : EWord) (i : Instr), decodeEngine w = .ok i → i.wf = true ∧ encodeEngine i = some w

/-- Every step of the device that goes on keeps device memory and host memory in their canonical form, and every local memory.
It rests on the model's choices and readings of logs 1 and 2. -/
def Obligations.MemoryCanonical : Prop :=
  (∀ s t : State, s.memOk → step s = .next t → t.memOk) ∧ ∀ s t : State, s.localOk → step s = .next t → t.localOk

/-! ### The statements that take several clauses together -/

/-- The scalar instructions complete with the value of their rule, and the register file holds it (R59-R71).
It rests on the model's choices and readings of logs 10 and 61.
Completes: add, sub, mul, mulh, mulhu, div, divu, rem, remu, and, andn, or, orn, xor, shl, shr, sar, rotl, min, max,
minu, maxu, seq, sne, slt, sltu, sel, addi, andi, ori, xori, muli, shli, shri, sari, slti, sltiu, li, lsi, clz, ctz,
popc, bswap, lea, crd, bext, bins. -/
def Obligations.ScalarInstructions : Prop :=
  Clauses.ScalarResults ∧ Clauses.ScalarRegisterFile

/-- The bit operations bit by bit, what an atomic leaves at its home, and the rounding of exact values (R52, R53, R68, R71, R90,
R198, R199). -/
def Obligations.BitAndAtomicArithmetic : Prop :=
  Clauses.BitOperations ∧ Clauses.AtomicArithmetic ∧ Clauses.RoundingLaw

/-- Branches, jumps and btag complete at their targets (R72-R75, R141).
Completes: bZ, bNz, bLz, bGez, bGz, bLez, j, jal, jalr, btag. -/
def Obligations.Branches : Prop :=
  Clauses.BranchResults ∧ Clauses.BtagResult

/-- Targets and addresses that raise a trap (R14, R75, R76, R104, R105, R143, R162, R195, R197, R349, R350).
It rests on the model's choices and readings of log 14. -/
def Obligations.AddressTraps : Prop :=
  Clauses.BranchTraps ∧ Clauses.LocalTraps ∧ Clauses.GlobalAccessTraps ∧ Clauses.OtherAccessTraps

/-- Local loads and stores complete (R14, R76, R87).
Completes: ldl, stl, vldl, vstl. -/
def Obligations.LocalAccesses : Prop :=
  Clauses.LocalLoads ∧ Clauses.LocalStores

/-- pfx leaves its value pending, and the CSR instructions read and write (R17, R18, R78-R82).
It rests on the model's choices and readings of log 31.
Completes: pfx, csrr, csrw, csrs, csrc. -/
def Obligations.ControlRegisters : Prop :=
  Clauses.PrefixPends ∧ Clauses.CsrReadResult ∧ Clauses.CsrWriteResults

/-- What user mode may not do takes the privilege trap and has no effect (R33, R79-R81, R353).
It rests on the model's choices and readings of log 31. -/
def Obligations.Privilege : Prop :=
  Clauses.CsrPrivilege ∧ Clauses.SystemOnly

/-- Register writes of units and of the package (R80, R169, R178, R302, R388, R393, R412).
It rests on the model's choices and readings of logs 43 and 53.
Completes: registerWrite, sccfgWrite, mbcfgWrite, llcpartWrite, calcfgWrite, optportWrite, peerClear. -/
def Obligations.RegisterWrites : Prop :=
  Clauses.RegisterWriteResult ∧ Clauses.ConfigurationWrites

/-- Whole-register, lane-moving vector instructions complete (R88, R92, R94, R101, R103).
Completes: vbcast, vext, vins, vmov, vand, vor, vxor, vsel, vcompact, vperm, vrevd. -/
def Obligations.VectorMoves : Prop :=
  Clauses.VectorWholeResults ∧ Clauses.VectorMoveResults ∧ Clauses.VectorExtractResult ∧ Clauses.VectorDigitReversal

/-- Reductions, scans, selections and sorts complete (R98-R100, R102).
Completes: vredAdd, vscanAdd, vredMax, vredMin, vargmax, vargmin, vsort, vtopk. -/
def Obligations.VectorRankings : Prop :=
  Clauses.VectorSelections ∧ Clauses.VectorSums ∧ Clauses.VectorSorting

/-- The long-accumulator instructions complete (R56, R104-R106).
Completes: awclr, awin, awinm, vawin, awadd, awrd. -/
def Obligations.LongAccumulators : Prop :=
  Clauses.AccumulatorUpdates ∧ Clauses.AccumulatorRead

/-- Loads, stores, waits and queue instructions that leave the core (R124, R152-R154, R161, R162, R191-R195).
Completes: waitw, enq, deq, ldg, vldg, stg, vstg, ldr, str. -/
def Obligations.GlobalAccesses : Prop :=
  Clauses.LoadsRequest ∧ Clauses.StoresPost ∧ Clauses.QueueRequests

/-- Atomics leave for their home, returning or counted (R124, R197, R198, R201).
Completes: amoAdd, amoAnd, amoOr, amoXor, amoMin, amoMax, amoMinu, amoMaxu, amoSwap, amoCas, amoIncb, amoFadd. -/
def Obligations.Atomics : Prop :=
  Clauses.AtomicsRequest ∧ Clauses.AtomicsPost

/-- Fences and prefetches (R202-R205).
It rests on the model's choices and readings of log 19.
Completes: fence, pf, fenceI. -/
def Obligations.FencesAndPrefetch : Prop :=
  Clauses.FenceResults ∧ Clauses.PrefetchResult

/-- Tag enables, mailbox instructions and the order of a row (R111, R142, R158-R160, R302-R304).
Completes: tset, tclr, tpend, mbxIns, mbxRd, mbxClr. -/
def Obligations.TagsAndMailboxes : Prop :=
  Clauses.TagEnables ∧ Clauses.MailboxInstructions ∧ Clauses.RowInsertion

/-- tcreate and tdec (R109, R143, R144).
It rests on the model's choices and readings of logs 14 and 75.
Completes: tcreate, tdec. -/
def Obligations.TaskCreation : Prop :=
  Clauses.TaskCreateResult ∧ Clauses.DependenceDecrement

/-- texit, in user and system mode, in a chain, as a guest and with a respawn, and yield (R126, R129, R145, R146, R155, R361).
It rests on the model's choices and readings of logs 57 and 58.
Completes: texit, yield. -/
def Obligations.TaskEnds : Prop :=
  Clauses.TaskExit ∧ Clauses.YieldResult

/-- join and bar (R114, R150, R151).
It rests on the model's choices and readings of logs 32 and 65.
Completes: join, bar. -/
def Obligations.JoinsAndBarriers : Prop :=
  Clauses.JoinResult ∧ Clauses.BarrierArrival

/-- baton, scwait, qsync and qstat (R37, R156, R157, R230, R231).
Completes: scwait, qstat, baton, qsync. -/
def Obligations.WaitsAndOrderedMode : Prop :=
  Clauses.BatonAndCounterWait ∧ Clauses.OrderedModeQueries

/-- trap, brk and rft (R354, R355).
It rests on the model's choices and readings of logs 17, 55 and 56.
Completes: trap, brk, rft. -/
def Obligations.TrapInstructions : Prop :=
  Clauses.ServiceAndBreakpoint ∧ Clauses.ReturnFromTrap

/-- swp, park and resume (R356, R358-R360).
Completes: swp, resume, park. -/
def Obligations.SystemThreads : Prop :=
  Clauses.SwapWorkspaces ∧ Clauses.ParkAndResume

/-- The words of class 0 (R247, R256, R258, R315).
Completes: lit, ext, engNop, end_, dup, drop, engSwap, engOver, rot, engAdd, engSub, engMul, engShl, engShr, engAnd,
engOr, ldp, stp, sig, skz. -/
def Obligations.EngineControlWords : Prop :=
  Clauses.EngineStackWords ∧ Clauses.EngineSignalAndEnd

/-- The words of class 2 on tile registers (R285-R298).
It rests on the model's choices and readings of logs 27 and 69.
Completes: bfLoad, bfStage, bfPass, bfTwid, bfCmul, bfStore. -/
def Obligations.ButterflyWords : Prop :=
  Clauses.TileWords ∧ Clauses.TileLoadBegins ∧ Clauses.TileStore

/-- The launches of class 1, and the writes that every launch word makes one at a time (R215, R257, R266, R268, R272-R274,
R278-R281).
It rests on the model's choices and readings of logs 35 and 72.
Completes: mmRun, mmRing, mmGmm. -/
def Obligations.MatrixWords : Prop :=
  Clauses.MatrixLaunches ∧ Clauses.DrainRows ∧ Clauses.GroupedLaunch ∧ Clauses.EngineWrites

/-- The words of class 4, and the walk of a row (R308-R318).
It rests on the model's choices and readings of logs 35 and 36.
Completes: rtCap, rtRun, rtEmit, rtStat. -/
def Obligations.RouterInstructions : Prop :=
  Clauses.RouterWords ∧ Clauses.RouterCounters ∧ Clauses.RouterChoices

/-- cl.go and the events of collective members (R335-R340).
It rests on the model's choices and readings of logs 24, 37, 53 and 70.
Completes: clReadySignal, clStepData, clPartnerTimeout, clGo. -/
def Obligations.Collectives : Prop :=
  Clauses.CollectiveGo ∧ Clauses.CollectiveEvents

/-- The words of classes 6 and 7 (R320-R327).
It rests on the model's choices and readings of logs 35 and 39.
Completes: lgRun, lgPf, exSet, exPin, exEvict, exRep. -/
def Obligations.LookAheadAndRegions : Prop :=
  Clauses.LookAheadWords ∧ Clauses.RegionWords

/-- Tasks start, age, expire and are created (R20, R22, R61, R113-R116, R121, R122, R155, R364).
It rests on the model's choices and readings of logs 4, 53 and 58.
Completes: taskStart, taskAging, budgetExpiry, readyListInsert, launchPlacement, resultCompletion. -/
def Obligations.TaskAndCreationEvents : Prop :=
  Clauses.TaskEvents ∧ Clauses.CreationEvents

/-- Accesses at their destinations, core, device or host memory, and the waits there (R116, R118, R152-R154, R167, R168, R175,
R191, R198, R208, R302).
It rests on the model's choices and readings of logs 4, 33, 48, 53 and 75.
Completes: homeAccess, depDecrement, waitwWake, deqServe, scoreMessageInsert. -/
def Obligations.HomeEvents : Prop :=
  Clauses.HomeAccesses ∧ Clauses.DeviceAccesses ∧ Clauses.EnqueueAtHome ∧ Clauses.WaitEvents

/-- Answers reach their threads, and threads migrate (R124, R128, R129, R191, R196, R211, R407).
It rests on the model's choices and readings of logs 4, 15, 53 and 62.
Completes: loadReply, storeAck, remoteFaultReply, migrationArrival, migrationTimeout, guestReturn. -/
def Obligations.ReplyAndMigrationEvents : Prop :=
  Clauses.ReplyEvents ∧ Clauses.MigrationEvents

/-- Jobs start and end, and destinations are claimed (R215-R218, R242, R245-R252, R279, R323).
It rests on the model's choices and readings of logs 4, 35, 40, 41, 53 and 71.
Completes: jobStart, jobComplete, jobSuccessorDecrement, claimGrant, recallClaim, rangeLockRelease, drainWakeup,
evictPhaseTwo. -/
def Obligations.JobAndClaimEvents : Prop :=
  Clauses.JobEvents ∧ Clauses.ClaimEvents

/-- Walks, fills, evictions and shootdowns (R174, R175, R183-R188, R408).
It rests on the model's choices and readings of logs 4, 18, 19, 24, 53, 67, 68 and 73.
Completes: translationWalk, sectorFill, lineEviction, shootdownInvalidation, remoteTranslationRequest, shootdownPage,
shootdownContext, shootdownAll, shootdownPlacementMap, shootdownAck. -/
def Obligations.TranslationEvents : Prop :=
  Clauses.MemoryEvents ∧ Clauses.Shootdowns

/-- The optical fabric and its peers (R385-R402, R410-R412).
It rests on the model's choices and readings of logs 4, 24, 42 and 53.
Completes: frameMark, marksMissed, frameTransmit, frameReceive, portLost, sequenceAck, retransmitTimeout,
latePacketAging, helloSend, helloReceive, peerTimeout. -/
def Obligations.FabricEvents : Prop :=
  Clauses.FabricMarks ∧ Clauses.FrameSending ∧ Clauses.FrameArrival ∧ Clauses.PeerEvents

/-- The companion processor and the read-out port (R413, R414, R421, R426).
It rests on the model's choices and readings of logs 48, 49 and 53.
Completes: hostRead, hostWrite, hostAtomic, hostEnqueue, hostCsrrd, hostCsrwr, linkFlitFailure, readoutRead. -/
def Obligations.HostEvents : Prop :=
  Clauses.HostMemory ∧ Clauses.HostRegisters

/-- Starts, quotes, adaptive control and live service (R419-R425).
It rests on the model's choices and readings of logs 1, 3, 8, 45, 46, 47, 51 and 53.
Completes: warmStart, droopLoop, opticalEqualisation, hbmRecalibration, lookaheadThreshold, replicaHint, powerLoss,
drainHedge, reloadHedge, retireStack, returnStack, recalibratePort, replaceFirmware, powerOn, coldStart, quote. -/
def Obligations.ServiceEvents : Prop :=
  Clauses.StartEvents ∧ Clauses.AdaptiveControl ∧ Clauses.LiveService

/-- Pre-emption, reference-counter ticks and uncorrectable errors (R10, R363, R368-R376).
It rests on the model's choices and readings of logs 20, 44, 50, 52, 53 and 71.
Completes: referenceCounterTick, uncorrectableError, preemptSave, preemptRestore, preemptKill. -/
def Obligations.PreemptionAndErrorEvents : Prop :=
  Clauses.PreemptionEvents ∧ Clauses.ClockTicks ∧ Clauses.UncorrectableErrors
end

