-- ==== Sys2Proof/Laws/Bits.lean ====
section
/-! SUPPORT. Bit by bit: fields of words, merging, and the updates of the status word. -/

namespace Sys2Proof.Machine

theorem getLsbD_fld (lo v i : Nat) : (fld lo v).getLsbD i = (decide (i < 64) && decide (lo ≤ i) && v.testBit (i - lo)) := by
  simp [fld, BitVec.getLsbD_ofNat, Nat.testBit_shiftLeft, Bool.and_assoc]

/-- A merged word, bit by bit. -/
theorem getLsbD_merge (old new : Word) (hi lo i : Nat) :
    (merge old new hi lo).getLsbD i = if lo ≤ i ∧ i ≤ hi then new.getLsbD i else old.getLsbD i := by
  by_cases h64 : i < 64
  · simp only [merge, BitVec.getLsbD_or, BitVec.getLsbD_and, BitVec.getLsbD_not, BitVec.getLsbD_ofNat, h64, decide_true,
      Nat.testBit_shiftLeft, Nat.testBit_two_pow_sub_one, Bool.true_and]
    by_cases h : lo ≤ i ∧ i ≤ hi
    · simp [h, show i - lo < hi + 1 - lo by omega]
    · rw [if_neg h]
      by_cases hl : lo ≤ i
      · simp [hl, show ¬ i - lo < hi + 1 - lo by omega]
      · simp [hl]
  · rw [BitVec.getLsbD_of_ge _ _ (by omega), BitVec.getLsbD_of_ge _ _ (by omega), BitVec.getLsbD_of_ge _ _ (by omega), ite_self]

theorem getLsbD_setBit (w : Word) (i j : Nat) (b : Bool) (hi : i < 64) :
    (setBit w i b).getLsbD j = if j = i then b else w.getLsbD j := by
  rw [setBit, getLsbD_merge]
  by_cases h : j = i
  · subst h
    cases b <;> simp [getLsbD_fld, hi]
  · rw [if_neg (by omega), if_neg h]

theorem testBit_boolWord (b : Bool) (i : Nat) (h : 0 < i) : (boolWord b).toNat.testBit i = false := by
  cases b
  · simp [boolWord]
  · exact Nat.testBit_lt_two_pow (Nat.one_lt_two_pow (by omega))

/-- The exception flags reach bits 8 to 11 only. -/
theorem getLsbD_flBits (f : Flags) {i : Nat} (h : i < 8 ∨ 11 < i) : (flBits f).getLsbD i = false := by
  have key : ∀ (lo : Nat) (b : Bool), i ≠ lo → (fld lo (boolWord b).toNat).getLsbD i = false := by
    intro lo b hne
    rw [getLsbD_fld]
    by_cases hl : lo ≤ i
    · simp [testBit_boolWord b (i - lo) (by omega)]
    · simp [hl]
  simp [flBits, key 11 _ (by omega), key 10 _ (by omega), key 9 _ (by omega), key 8 _ (by omega)]

/-- The warnings reach bits 16 to 28 only. -/
theorem getLsbD_swWarn (w : Word) (x : BitVec 16) {i : Nat} (h : i < 16 ∨ 28 < i) : (swWarn w x).getLsbD i = w.getLsbD i := by
  have hx : (x &&& 0x1FFF).toNat < 2 ^ 13 := by
    rw [BitVec.toNat_and]
    exact Nat.lt_of_le_of_lt Nat.and_le_right (by decide)
  rw [swWarn, BitVec.getLsbD_or, getLsbD_fld]
  by_cases hl : 16 ≤ i
  · rw [Nat.testBit_lt_two_pow (Nat.lt_of_lt_of_le hx (Nat.pow_le_pow_right (by decide) (by omega)))]
    simp
  · simp [hl]

theorem getLsbD_swPend (w : Word) (p : Option (BitVec 24)) {i : Nat} (h : i < 36 ∨ 60 < i) :
    (swPend w p).getLsbD i = w.getLsbD i := by
  cases p <;> rw [swPend, getLsbD_merge, if_neg (by omega)]

/-- The mode bits survive a group's status update. -/
theorem sw_keeps (w : Word) (fl : Flags) (x : BitVec 16) (p : Option (BitVec 24)) {i : Nat} (hi : 61 ≤ i) :
    (swPend (swWarn (w ||| flBits fl) x) p).getLsbD i = w.getLsbD i := by
  rw [getLsbD_swPend _ _ (by omega), getLsbD_swWarn _ _ (by omega), BitVec.getLsbD_or, getLsbD_flBits _ (by omega), Bool.or_false]

end Sys2Proof.Machine
end

