-- ==== Sys2Proof/Laws/Memory.lean ====
section
/-! SUPPORT. The laws of tables and of memory: a read after a write, what a write leaves alone, and the canonical form
that every memory operation keeps. -/

namespace Sys2Proof.Machine

/-! ### Tables -/

@[simp] theorem Tbl.get_set_self {α : Type} (t : Tbl α) (d x : α) (n : Nat) : (Tbl.set t n x).get d n = x := by
  induction t with
  | nil => simp [Tbl.set, Tbl.get]
  | cons e r ih =>
    obtain ⟨k, v⟩ := e
    simp only [Tbl.set]
    split
    · simp [Tbl.get]
    · split
      · simp [Tbl.get]
      · simp [Tbl.get, *]

theorem Tbl.get_set_ne {α : Type} (t : Tbl α) (d x : α) {n m : Nat} (h : m ≠ n) :
    (Tbl.set t n x).get d m = t.get d m := by
  induction t with
  | nil => simp [Tbl.set, Tbl.get, Ne.symm h]
  | cons e r ih =>
    obtain ⟨k, v⟩ := e
    simp only [Tbl.set]
    split
    · next hk => subst hk; simp [Tbl.get, Ne.symm h]
    · split
      · simp [Tbl.get, Ne.symm h]
      · simp [Tbl.get, ih]

/-! ### One byte of memory -/

theorem Memory.read_dropWhile (m : Memory) (a : Nat) {b : Nat} (h : a < b) :
    Memory.read (m.dropWhile (fun e => decide (e.1 ≤ a))) b = m.read b := by
  induction m with
  | nil => rfl
  | cons e r ih =>
    obtain ⟨k, v⟩ := e
    simp only [List.dropWhile_cons]
    split
    · next hk =>
      have : k ≤ a := by simpa using hk
      rw [ih]
      simp [Memory.read, show ¬ b = k by omega, show ¬ b < k by omega]
    · rfl

theorem Memory.read_dropWhile_low (m : Memory) (a : Nat) {b : Nat} (h : b ≤ a) :
    Memory.read (m.dropWhile (fun e => decide (e.1 ≤ a))) b = 0 := by
  induction m with
  | nil => rfl
  | cons e r ih =>
    obtain ⟨k, v⟩ := e
    simp only [List.dropWhile_cons]
    split
    · exact ih
    · next hk =>
      have : a < k := by simpa using hk
      simp [Memory.read, show ¬ b = k by omega, show b < k by omega]

/-- A read after a write to the same address gives the byte written. -/
@[simp] theorem Memory.read_write_self (m : Memory) (a : Nat) (x : Byte) : (m.write a x).read a = x := by
  induction m with
  | nil => simp only [Memory.write]; split <;> simp_all [Memory.read]
  | cons e r ih =>
    obtain ⟨k, v⟩ := e
    simp only [Memory.write]
    split
    · next h => simp [Memory.read, show ¬ a = k by omega, show ¬ a < k by omega, ih]
    · split
      · split
        · next hx => simp [hx, Memory.read_dropWhile_low r a (Nat.le_refl a)]
        · simp [Memory.read]
      · split
        · next hx => simp [hx, Memory.read, show ¬ a = k by omega, show a < k by omega]
        · simp [Memory.read]

/-- A write leaves every other address alone. -/
theorem Memory.read_write_ne (m : Memory) (x : Byte) {a b : Nat} (h : b ≠ a) : (m.write a x).read b = m.read b := by
  induction m with
  | nil => simp only [Memory.write]; split <;> simp [Memory.read, h]
  | cons e r ih =>
    obtain ⟨k, v⟩ := e
    simp only [Memory.write]
    split
    · simp [Memory.read, ih]
    · split
      · next hk =>
        subst hk
        split
        · simp only [Memory.read, h, if_false]
          rcases Nat.lt_or_ge k b with hb | hb
          · simp [Memory.read_dropWhile r k hb, show ¬ b < k by omega]
          · simp [Memory.read_dropWhile_low r k hb, show b < k by omega]
        · simp [Memory.read, h]
      · split
        · rfl
        · simp only [Memory.read, h, if_false]
          split
          · next hb => simp [show ¬ b = k by omega, show b < k by omega]
          · rfl

/-- A write seen at every address. -/
theorem Memory.read_write (m : Memory) (a b : Nat) (x : Byte) :
    (m.write a x).read b = if b = a then x else m.read b := by
  split
  · next h => subst h; simp
  · next h => exact Memory.read_write_ne m x h

/-! ### The canonical form -/

theorem Memory.wf_cons (k : Nat) (v : Byte) (r : Memory) :
    Memory.wf ((k, v) :: r) = true ↔ v ≠ 0 ∧ (∀ e ∈ r.head?, k < e.1) ∧ Memory.wf r = true := by
  cases r with
  | nil => simp [Memory.wf]
  | cons e r => simp [Memory.wf, and_assoc]

theorem Memory.wf_tail {e : Host.Cell} {r : Memory} (h : Memory.wf (e :: r) = true) : Memory.wf r = true :=
  ((Memory.wf_cons e.1 e.2 r).1 h).2.2

theorem Memory.wf_lt {k : Nat} {v : Byte} {r : Memory} (h : Memory.wf ((k, v) :: r) = true) : ∀ e ∈ r, k < e.1 := by
  induction r generalizing k v with
  | nil => simp
  | cons f t ih =>
    have h1 := (Memory.wf_cons k v _).1 h
    have hk : k < f.1 := h1.2.1 f (by simp)
    intro e he
    rcases List.mem_cons.1 he with rfl | he
    · exact hk
    · exact Nat.lt_trans hk (ih h1.2.2 e he)

theorem Memory.wf_intro {k : Nat} {v : Byte} {r : Memory} (hv : v ≠ 0) (hl : ∀ e ∈ r, k < e.1) (hr : Memory.wf r = true) :
    Memory.wf ((k, v) :: r) = true :=
  (Memory.wf_cons k v r).2 ⟨hv, fun e he => hl e (List.mem_of_mem_head? he), hr⟩

theorem Memory.wf_ne {k : Nat} {v : Byte} {r : Memory} (h : Memory.wf ((k, v) :: r) = true) : v ≠ 0 :=
  ((Memory.wf_cons k v r).1 h).1

/-- Every entry that a write lists stood there before or is the one written. -/
theorem Memory.mem_write {m : Memory} {a : Nat} {x : Byte} {e : Host.Cell} (h : e ∈ m.write a x) : e ∈ m ∨ e.1 = a := by
  induction m with
  | nil =>
    simp only [Memory.write] at h
    split at h
    · exact absurd h (by simp)
    · exact .inr (by rw [List.mem_singleton.1 h])
  | cons f r ih =>
    obtain ⟨k, v⟩ := f
    simp only [Memory.write] at h
    split at h
    · rcases List.mem_cons.1 h with rfl | h
      · simp
      · rcases ih h with h | h <;> simp [h]
    · split at h
      · split at h
        · exact .inl (List.mem_cons_of_mem _ ((List.dropWhile_sublist _).subset h))
        · rcases List.mem_cons.1 h with rfl | h
          · simp
          · simp [h]
      · split at h
        · exact .inl h
        · rcases List.mem_cons.1 h with rfl | h
          · simp
          · exact .inl h

theorem Memory.wf_dropWhile {m : Memory} (p : Host.Cell → Bool) (h : m.wf = true) : Memory.wf (m.dropWhile p) = true := by
  induction m with
  | nil => exact h
  | cons e r ih =>
    simp only [List.dropWhile_cons]
    split
    · exact ih (Memory.wf_tail h)
    · exact h

/-- A write keeps the canonical form. -/
theorem Memory.write_wf {m : Memory} (a : Nat) (x : Byte) (h : m.wf = true) : (m.write a x).wf = true := by
  induction m with
  | nil => simp only [Memory.write]; split <;> simp_all [Memory.wf]
  | cons e r ih =>
    obtain ⟨k, v⟩ := e
    have hr := Memory.wf_tail h
    have hl := Memory.wf_lt h
    simp only [Memory.write]
    split
    · next hk =>
      refine Memory.wf_intro (Memory.wf_ne h) (fun e he => ?_) (ih hr)
      rcases Memory.mem_write he with he | he
      · exact hl e he
      · omega
    · split
      · next hk =>
        subst hk
        split
        · exact Memory.wf_dropWhile _ hr
        · next hx => exact Memory.wf_intro hx hl hr
      · next hk hk2 =>
        split
        · exact h
        · next hx =>
          refine Memory.wf_intro hx (fun e he => ?_) h
          rcases List.mem_cons.1 he with rfl | he
          · simp; omega
          · have := hl e he; omega

/-- Leaving entries out keeps the canonical form. -/
theorem Memory.wf_filter {m : Memory} (p : Host.Cell → Bool) (h : m.wf = true) : Memory.wf (m.filter p) = true := by
  induction m with
  | nil => exact h
  | cons e r ih =>
    obtain ⟨k, v⟩ := e
    simp only [List.filter_cons]
    split
    · exact Memory.wf_intro (Memory.wf_ne h) (fun e he => Memory.wf_lt h e (List.mem_filter.1 he).1) (ih (Memory.wf_tail h))
    · exact ih (Memory.wf_tail h)

theorem Memory.setNum_wf {m : Memory} (a n v : Nat) (h : m.wf = true) : (m.setNum a n v).wf = true := by
  induction n generalizing m a v with
  | zero => exact h
  | succ n ih => exact ih _ _ (Memory.write_wf _ _ h)

theorem Memory.setBytes_wf {m : Memory} (a : Nat) (bs : List Byte) (h : m.wf = true) : (m.setBytes a bs).wf = true := by
  induction bs generalizing m a with
  | nil => exact h
  | cons b r ih => exact ih _ (Memory.write_wf _ _ h)

theorem Memory.slice_wf {m : Memory} (a n : Nat) (h : m.wf = true) : (m.slice a n).wf = true := Memory.wf_filter _ h

theorem Memory.clear_wf {m : Memory} (a n : Nat) (h : m.wf = true) : (m.clear a n).wf = true := Memory.wf_filter _ h

theorem Memory.foldl_wf {α : Type} (f : Memory → α → Memory) (hf : ∀ m x, m.wf = true → (f m x).wf = true)
    (l : List α) {m : Memory} (h : m.wf = true) : (l.foldl f m).wf = true := by
  induction l generalizing m with
  | nil => exact h
  | cons x r ih => exact ih (hf _ _ h)

theorem Memory.replace_wf {m : Memory} (a n : Nat) (b : Memory) (h : m.wf = true) : (m.replace a n b).wf = true :=
  Memory.foldl_wf _ (fun _ e hm => Memory.write_wf e.1 e.2 hm) _ (Memory.clear_wf a n h)

theorem storeBytes_wf {m : Memory} (b : List Nat) (a : Nat) (bs : List Byte) (h : m.wf = true) :
    (storeBytes m b a bs).wf = true := by
  induction bs generalizing m a with
  | nil => exact h
  | cons x r ih =>
    refine ih _ ?_
    split
    · exact h
    · exact Memory.write_wf _ _ h

/-- Two memories in canonical form that read alike at every address are one. -/
theorem Memory.wf_ext {m n : Memory} (hm : m.wf = true) (hn : n.wf = true) (h : ∀ a, m.read a = n.read a) : m = n := by
  have low : ∀ (r : Memory) (k a : Nat), (∀ e ∈ r, k < e.1) → a ≤ k → r.read a = 0 := by
    intro r k a hr ha
    cases r with
    | nil => rfl
    | cons e t =>
      have := hr e (by simp)
      simp [Memory.read, show ¬ a = e.1 by omega, show a < e.1 by omega]
  induction m generalizing n with
  | nil =>
    cases n with
    | nil => rfl
    | cons e t =>
      have := h e.1
      simp [Memory.read] at this
      exact absurd this.symm (Memory.wf_ne hn)
  | cons e r ih =>
    obtain ⟨k, v⟩ := e
    cases n with
    | nil =>
      have := h k
      simp [Memory.read] at this
      exact absurd this (Memory.wf_ne hm)
    | cons f t =>
      obtain ⟨j, w⟩ := f
      have hk : k = j := by
        rcases Nat.lt_trichotomy k j with hlt | heq | hgt
        · have := h k
          simp [Memory.read, show ¬ k = j by omega, hlt] at this
          exact absurd this (Memory.wf_ne hm)
        · exact heq
        · have := h j
          simp [Memory.read, show ¬ j = k by omega, hgt] at this
          exact absurd this.symm (Memory.wf_ne hn)
      subst hk
      have hv := h k
      simp [Memory.read] at hv
      subst hv
      have : r = t := by
        refine ih (Memory.wf_tail hm) (Memory.wf_tail hn) (fun a => ?_)
        rcases Nat.lt_or_ge k a with ha | ha
        · have := h a
          simpa [Memory.read, show ¬ a = k by omega, show ¬ a < k by omega] using this
        · rw [low r k a (Memory.wf_lt hm) ha, low t k a (Memory.wf_lt hn) ha]
      rw [this]

/-! ### Numbers and runs of bytes -/

theorem toBytes_length (n v : Nat) : (toBytes n v).length = n := by
  induction n generalizing v with
  | zero => rfl
  | succ n ih => simp [toBytes, ih]

/-- A run of bytes written and read at any address. -/
theorem Memory.read_setBytes (m : Memory) (a b : Nat) (bs : List Byte) :
    (m.setBytes a bs).read b = if a ≤ b ∧ b < a + bs.length then bs.getD (b - a) 0 else m.read b := by
  induction bs generalizing m a with
  | nil => simp [Memory.setBytes] <;> omega
  | cons x r ih =>
    simp only [Memory.setBytes, ih, List.length_cons]
    by_cases h1 : a + 1 ≤ b ∧ b < a + 1 + r.length
    · rw [if_pos h1, if_pos (by omega)]
      obtain ⟨j, rfl⟩ : ∃ j, b = a + 1 + j := ⟨b - (a + 1), by omega⟩
      rw [show a + 1 + j - (a + 1) = j by omega, show a + 1 + j - a = j + 1 by omega]
      simp
    · rw [if_neg h1, Memory.read_write]
      by_cases h2 : b = a
      · subst h2; simp
      · rw [if_neg h2, if_neg (by omega)]

theorem Memory.setNum_eq (m : Memory) (a n v : Nat) : m.setNum a n v = m.setBytes a (toBytes n v) := by
  induction n generalizing m a v with
  | zero => rfl
  | succ n ih => simp [Memory.setNum, Memory.setBytes, toBytes, ih]

theorem Memory.num_congr {m m' : Memory} (a n : Nat) (h : ∀ b, a ≤ b → b < a + n → m.read b = m'.read b) :
    m.num a n = m'.num a n := by
  induction n generalizing a with
  | zero => rfl
  | succ n ih =>
    simp only [Memory.num]
    rw [h a (Nat.le_refl a) (by omega), ih (a + 1) (fun b h1 h2 => h b (by omega) (by omega))]

/-- The number read from bytes just written. -/
theorem Memory.num_setBytes_self (m : Memory) (a n v : Nat) : (m.setBytes a (toBytes n v)).num a n = v % 256 ^ n := by
  induction n generalizing m a v with
  | zero => simp [Memory.num, Nat.mod_one]
  | succ n ih =>
    simp only [toBytes, Memory.setBytes, Memory.num]
    rw [ih, Memory.read_setBytes, if_neg (by omega), Memory.read_write_self, Nat.pow_succ, Nat.mul_comm (256 ^ n)]
    simp [Nat.mod_mul]

/-- A number read away from the bytes written. -/
theorem Memory.num_setBytes_off (m : Memory) (a b n : Nat) (bs : List Byte) (h : b + n ≤ a ∨ a + bs.length ≤ b) :
    (m.setBytes a bs).num b n = m.num b n := by
  refine Memory.num_congr b n (fun c h1 h2 => ?_)
  rw [Memory.read_setBytes, if_neg (by omega)]

/-- A store that R14 does not filter writes its bytes as they are; one it filters leaves each ignored byte. -/
theorem read_storeBytes (m : Memory) (w : List Nat) (a b : Nat) (bs : List Byte) :
    (storeBytes m w a bs).read b =
      if a ≤ b ∧ b < a + bs.length ∧ ignoresStore w b = false then bs.getD (b - a) 0 else m.read b := by
  induction bs generalizing m a with
  | nil => simp [storeBytes]; omega
  | cons x r ih =>
    simp only [storeBytes, ih, List.length_cons]
    by_cases h1 : a + 1 ≤ b ∧ b < a + 1 + r.length ∧ ignoresStore w b = false
    · rw [if_pos h1, if_pos (by refine ⟨?_, ?_, h1.2.2⟩ <;> omega)]
      obtain ⟨j, rfl⟩ : ∃ j, b = a + 1 + j := ⟨b - (a + 1), by omega⟩
      rw [show a + 1 + j - (a + 1) = j by omega, show a + 1 + j - a = j + 1 by omega]
      simp
    · rw [if_neg h1]
      by_cases h2 : b = a
      · subst h2
        rcases hi : ignoresStore w b with _ | _ <;> simp
      · rw [if_neg (show ¬ (a ≤ b ∧ b < a + (r.length + 1) ∧ ignoresStore w b = false) from
          fun ⟨h3, h4, h5⟩ => h1 ⟨by omega, by omega, h5⟩)]
        split
        · rfl
        · exact Memory.read_write_ne m x h2

/-- The device starts with its memories in canonical form. -/
theorem reset_memory_wf : State.reset.hbm.wf = true ∧ State.reset.hostMem.wf = true := ⟨rfl, rfl⟩

end Sys2Proof.Machine
end

