-- ==== Sys2Proof/Laws/Group.lean ====
section
/-! SUPPORT. What the write phase of a group does (R21): the changes to the issuing core one after another, and the
result of a group of one syllable that nothing holds up. -/

namespace Sys2Proof.Machine

/-! ### Membership in tables -/

theorem Tbl.mem_set {α : Type} {t : Tbl α} {n : Nat} {x : α} {e : Nat × α} (h : e ∈ Tbl.set t n x) : e = (n, x) ∨ e ∈ t := by
  induction t with
  | nil => simpa [Tbl.set] using h
  | cons f r ih =>
    obtain ⟨k, v⟩ := f
    simp only [Tbl.set] at h
    split at h
    · rcases List.mem_cons.1 h with h | h
      · exact .inl h
      · exact .inr (List.mem_cons_of_mem _ h)
    · split at h
      · rcases List.mem_cons.1 h with h | h
        · exact .inl h
        · exact .inr h
      · rcases List.mem_cons.1 h with h | h
        · exact .inr (by simp [h])
        · rcases ih h with h | h <;> simp [h]

theorem Tbl.mem_set_self {α : Type} (t : Tbl α) (n : Nat) (x : α) : (n, x) ∈ Tbl.set t n x := by
  induction t with
  | nil => simp [Tbl.set]
  | cons f r ih =>
    obtain ⟨k, v⟩ := f
    simp only [Tbl.set]
    split
    · simp
    · split
      · simp
      · simp [ih]

theorem Tbl.mem_of_mem {α : Type} {t : Tbl α} (d : α) (n : Nat) (x : α) {e : Nat × α} (h : e ∈ t) :
    e ∈ Tbl.set t n x ∨ e = (n, t.get d n) := by
  induction t with
  | nil => simp at h
  | cons f r ih =>
    obtain ⟨k, v⟩ := f
    simp only [Tbl.set, Tbl.get]
    split
    · next hk =>
      subst hk
      rcases List.mem_cons.1 h with h | h
      · exact .inr h
      · exact .inl (List.mem_cons_of_mem _ h)
    · split
      · exact .inl (List.mem_cons_of_mem _ h)
      · rcases List.mem_cons.1 h with h | h
        · exact .inl (by simp [h])
        · rcases ih h with h | h
          · exact .inl (List.mem_cons_of_mem _ h)
          · exact .inr h

theorem Tbl.get_mem {α : Type} (t : Tbl α) (d : α) (n : Nat) : (n, t.get d n) ∈ t ∨ t.get d n = d := by
  induction t with
  | nil => simp [Tbl.get]
  | cons f r ih =>
    obtain ⟨k, v⟩ := f
    simp only [Tbl.get]
    split
    · next hk => subst hk; simp
    · rcases ih with h | h
      · exact .inl (List.mem_cons_of_mem _ h)
      · exact .inr h

/-! ### Changes to one core -/

/-- A state that differs from another in one core only, which it holds as given; the workspaces bound there are the
same (R12). -/
structure Upd (s : State) (n : Nat) (c : Core) (t : State) : Prop where
  rest : { t with cores := s.cores } = s
  self : t.coreAt n = c
  others : ∀ m, m ≠ n → t.coreAt m = s.coreAt m
  bound : ∀ w, w ∈ t.bound n ↔ w ∈ s.bound n

theorem Upd.refl (s : State) (n : Nat) : Upd s n (s.coreAt n) s := ⟨rfl, rfl, fun _ _ => rfl, fun _ => Iff.rfl⟩

/-- The guests that a core's slots name for a home core. -/
def Core.guests (c : Core) (m : Nat) : List Nat :=
  c.slots.filterMap (fun e => if e.2.st == .guest && e.2.th.home == m then some e.2.th.homeWp else none)

theorem mem_guestHomes (s : State) (m w : Nat) :
    w ∈ s.guestHomes m ↔ (∃ e ∈ s.cores, w ∈ e.2.guests m)
      ∨ w ∈ s.migrants.filterMap (fun x => if x.th.home == m then some x.th.homeWp else none) := by
  simp only [State.guestHomes, List.mem_append]
  refine or_congr ?_ Iff.rfl
  simp only [List.mem_filterMap, List.mem_flatMap, Core.guests]
  constructor
  · rintro ⟨a, ⟨e, he, ha⟩, h⟩; exact ⟨e, he, a, ha, h⟩
  · rintro ⟨e, he, a, ha, h⟩; exact ⟨a, ⟨e, he, ha⟩, h⟩

/-- What the bound workspaces of a core depend on stays the same. -/
structure Core.sameBound (c d : Core) : Prop where
  bound : ∀ w, w ∈ d.bound ↔ w ∈ c.bound
  guests : ∀ m w, w ∈ d.guests m ↔ w ∈ c.guests m

theorem Core.sameBound.rfl' (c : Core) : Core.sameBound c c := ⟨fun _ => Iff.rfl, fun _ _ => Iff.rfl⟩

theorem Upd.mod {s t : State} {n : Nat} {c : Core} (h : Upd s n c t) (f : Core → Core) (hf : Core.sameBound c (f c)) :
    Upd s n (f c) (t.modCore n f) := by
  have hself : (t.modCore n f).coreAt n = f c := by simp [State.modCore, State.setCore, State.coreAt, ← h.self]
  refine ⟨h.rest, hself, fun m hm => ?_, fun w => ?_⟩
  · rw [← h.others m hm]
    exact Tbl.get_set_ne _ _ _ hm
  · rw [← h.bound w]
    simp only [State.bound, List.mem_append, hself]
    rw [hf.bound w, h.self]
    refine or_congr Iff.rfl ?_
    rw [mem_guestHomes, mem_guestHomes]
    refine or_congr ?_ Iff.rfl
    constructor
    · rintro ⟨e, he, hw⟩
      rcases Tbl.mem_set he with rfl | he
      · have hw' : w ∈ c.guests n := (hf.guests n w).1 (by simpa [h.self] using hw)
        rcases Tbl.get_mem t.cores {} n with hm | hm
        · exact ⟨_, hm, by simpa [State.coreAt, ← h.self] using hw'⟩
        · rw [← h.self, State.coreAt, hm] at hw'
          simp [Core.guests] at hw'
      · exact ⟨e, he, hw⟩
    · rintro ⟨e, he, hw⟩
      rcases Tbl.mem_of_mem {} n (f (t.coreAt n)) he with he | rfl
      · exact ⟨e, he, hw⟩
      · refine ⟨_, Tbl.mem_set_self t.cores n (f (t.coreAt n)), ?_⟩
        have : w ∈ c.guests n := by simpa [State.coreAt, ← h.self] using hw
        simpa [h.self] using (hf.guests n w).2 this

/-- A change that touches neither the slots nor the queues of threads. -/
theorem Core.sameBound.of_eq {c d : Core} (h1 : d.slots = c.slots) (h2 : d.rq = c.rq) (h3 : d.park = c.park) :
    Core.sameBound c d := by
  refine ⟨fun w => ?_, fun m w => ?_⟩ <;> simp [Core.bound, Core.guests, Core.slotAt, h1, h2, h3]

/-- What the bound workspaces depend on in a slot. -/
structure Slot.sameBound (x y : Slot) : Prop where
  swp : y.swp = x.swp
  st : y.st = x.st
  wp : y.th.wp = x.th.wp
  home : y.th.home = x.th.home
  homeWp : y.th.homeWp = x.th.homeWp

theorem mem_busyWps (c : Core) (w : Nat) :
    w ∈ (c.slots.filter (fun e => e.2.st != .free)).map (fun e => e.2.th.wp) ↔ ∃ e ∈ c.slots, e.2.st ≠ .free ∧ e.2.th.wp = w := by
  simp [List.mem_map, List.mem_filter, and_assoc]

theorem mem_guests (c : Core) (m w : Nat) :
    w ∈ c.guests m ↔ ∃ e ∈ c.slots, e.2.st = .guest ∧ e.2.th.home = m ∧ e.2.th.homeWp = w := by
  simp only [Core.guests, List.mem_filterMap]
  constructor
  · rintro ⟨e, he, h⟩
    refine ⟨e, he, ?_⟩
    split at h
    · next hc => simp at hc h; exact ⟨hc.1, hc.2, h⟩
    · exact absurd h (by simp)
  · rintro ⟨e, he, h1, h2, h3⟩
    exact ⟨e, he, by simp [h1, h2, h3]⟩

/-- A property of some listed slot survives a change of one slot that keeps it. -/
theorem exists_slot_set {c : Core} {k : Nat} {y : Slot} (p : Slot → Prop) (hfree : ¬ p {})
    (hy : p y ↔ p (c.slotAt k)) : (∃ e ∈ Tbl.set c.slots k y, p e.2) ↔ ∃ e ∈ c.slots, p e.2 := by
  constructor
  · rintro ⟨e, he, hp⟩
    rcases Tbl.mem_set he with rfl | he
    · rcases Tbl.get_mem c.slots {} k with hm | hm
      · exact ⟨_, hm, hy.1 hp⟩
      · exact absurd (hm ▸ hy.1 hp : p {}) hfree
    · exact ⟨e, he, hp⟩
  · rintro ⟨e, he, hp⟩
    rcases Tbl.mem_of_mem {} k y he with he | rfl
    · exact ⟨e, he, hp⟩
    · exact ⟨_, Tbl.mem_set_self c.slots k y, hy.2 hp⟩

theorem Core.slotAt_setSlot_self (c : Core) (k : Nat) (y : Slot) : (c.setSlot k y).slotAt k = y := Tbl.get_set_self _ _ _ _

theorem Core.slotAt_setSlot_ne (c : Core) (y : Slot) {k j : Nat} (h : j ≠ k) : (c.setSlot k y).slotAt j = c.slotAt j :=
  Tbl.get_set_ne _ _ _ h

theorem Core.sameBound.setSlot {c : Core} {k : Nat} {y : Slot} (h : Slot.sameBound (c.slotAt k) y) :
    Core.sameBound c (c.setSlot k y) := by
  have hswp : ∀ j, ((c.setSlot k y).slotAt j).swp = (c.slotAt j).swp := by
    intro j
    by_cases hj : j = k
    · subst hj; rw [Core.slotAt_setSlot_self, h.swp]
    · rw [Core.slotAt_setSlot_ne _ _ hj]
  refine ⟨fun w => ?_, fun m w => ?_⟩
  · simp only [Core.bound, List.mem_append, mem_busyWps, hswp]
    have := exists_slot_set (c := c) (k := k) (y := y) (fun x => x.st ≠ .free ∧ x.th.wp = w) (by simp)
      (by rw [h.st, h.wp])
    rw [show (c.setSlot k y).slots = Tbl.set c.slots k y from rfl, this]
    rfl
  · rw [mem_guests, mem_guests]
    exact exists_slot_set (c := c) (k := k) (y := y) (fun x => x.st = .guest ∧ x.th.home = m ∧ x.th.homeWp = w) (by simp)
      (by rw [h.st, h.home, h.homeWp])

theorem inBound_congr {b d : List Nat} (h : ∀ w, w ∈ b ↔ w ∈ d) (lo hi a : Nat) : inBound b lo hi a = inBound d lo hi a := by
  simp only [inBound]
  congr 1
  rw [Bool.eq_iff_iff]
  simpa using h (a / 1024)

theorem ignoresStore_congr {b d : List Nat} (h : ∀ w, w ∈ b ↔ w ∈ d) (a : Nat) : ignoresStore b a = ignoresStore d a := by
  simp [ignoresStore, inBound_congr h]

/-! ### The operations of the write phase on one core -/

theorem State.heal_good {s : State} (h : s.bad = []) (kind u a n : Nat) : s.heal kind u a n = s := by
  cases s; simp_all [State.heal]

theorem Upd.bad {s t : State} {n : Nat} {c : Core} (h : Upd s n c t) : t.bad = s.bad := by
  rw [← h.rest]

theorem State.poke_good {s : State} (h : s.bad = []) (n a : Nat) (bs : List Byte) :
    s.poke n a bs = s.modCore n (fun c => c.poke a bs) :=
  State.heal_good (s := s.modCore n (fun c => c.poke a bs)) h ..

theorem State.storeL_good {s : State} (h : s.bad = []) (n a : Nat) (bs : List Byte) :
    s.storeL n a bs = s.modCore n (fun c => c.store (s.bound n) a bs) :=
  State.heal_good (s := s.modCore n (fun c => c.store (s.bound n) a bs)) h ..

theorem Core.sameBound.poke (c : Core) (a : Nat) (bs : List Byte) : Core.sameBound c (c.poke a bs) := .of_eq rfl rfl rfl

theorem Core.sameBound.store (c : Core) (w : List Nat) (a : Nat) (bs : List Byte) : Core.sameBound c (c.store w a bs) :=
  .of_eq rfl rfl rfl

/-- A write of a general register on one core (R13, R59). -/
def Core.putReg (c : Core) (wp r : Nat) (v : Word) : Core :=
  if r = 0 then c else c.poke (wsBase wp + 8 * r) (toBytes 8 v.toNat)

theorem Upd.setReg {s t : State} {n : Nat} {c : Core} (h : Upd s n c t) (hb : s.bad = []) (wp r : Nat) (v : Word) :
    Upd s n (c.putReg wp r v) (t.setReg n wp r v) := by
  unfold State.setReg Core.putReg
  split
  · exact h
  · rw [State.poke_good (h.bad.trans hb)]
    exact h.mod (fun c => c.poke _ _) (.poke _ _ _)

theorem Upd.setVreg {s t : State} {n : Nat} {c : Core} (h : Upd s n c t) (hb : s.bad = []) (wp r : Nat) (v : Vec) :
    Upd s n (c.poke (wsBase wp + 256 + 64 * r) (toBytes 64 v.toNat)) (t.setVreg n wp r v) := by
  unfold State.setVreg
  rw [State.poke_good (h.bad.trans hb)]
  exact h.mod (fun c => c.poke _ _) (.poke _ _ _)

theorem storeBytes_congr {b d : List Nat} (h : ∀ w, w ∈ b ↔ w ∈ d) (m : Memory) (a : Nat) (bs : List Byte) :
    storeBytes m b a bs = storeBytes m d a bs := by
  induction bs generalizing m a with
  | nil => rfl
  | cons x r ih => simp only [storeBytes, ignoresStore_congr h, ih]

theorem Upd.storeL {s t : State} {n : Nat} {c : Core} (h : Upd s n c t) (hb : s.bad = []) (a : Nat) (bs : List Byte) :
    Upd s n (c.store (s.bound n) a bs) (t.storeL n a bs) := by
  rw [State.storeL_good (h.bad.trans hb)]
  have := h.mod (fun c => c.store (t.bound n) a bs) (.store _ _ _ _)
  simpa only [Core.store, storeBytes_congr h.bound] using this

theorem Upd.modSlot {s t : State} {n : Nat} {c : Core} (h : Upd s n c t) (k : Nat) (f : Slot → Slot)
    (hf : Slot.sameBound (c.slotAt k) (f (c.slotAt k))) :
    Upd s n (c.setSlot k (f (c.slotAt k))) (t.modSlot n k f) :=
  h.mod (fun c => c.setSlot k (f (c.slotAt k))) (.setSlot hf)

theorem Slot.sameBound_setComp (x : Slot) (p : Nat) (w : List Word) : Slot.sameBound x (x.setComp p w) := by
  unfold Slot.setComp
  split <;> split <;> exact ⟨rfl, rfl, rfl, rfl, rfl⟩

theorem Core.portPop_slots (c : Core) (t : Thread) (k p : Nat) :
    (c.portPop t k p).slots = c.slots ∧ (c.portPop t k p).rq = c.rq ∧ (c.portPop t k p).park = c.park
      ∧ (c.portPop t k p).lmem = c.lmem ∧ (c.portPop t k p).dirty = c.dirty ∧ (c.portPop t k p).ptr = c.ptr
      ∧ (c.portPop t k p).cycles = c.cycles := by
  unfold Core.portPop
  split
  · split
    · simp
    · simp only [Core.setRx]; split <;> simp
  · split
    · simp
    · simp [Core.setRx]
  · simp
  · simp

/-! ### A group of one syllable that nothing holds up -/

/-- Effects with nothing staged but ports, destinations, flags, warnings, a next PC and stores to the own local memory:
no trap, no wait, no access or action beyond the core. -/
structure Fx.Plain (fx : Fx) : Prop where
  pre : fx.pre = none
  home : fx.home = false
  brk : fx.brk = none
  stall : fx.stall = false
  portWait : fx.portWait = false
  trap : fx.trap = none
  full : fx.full = false
  wait : fx.wait = false
  holdOn : fx.holdOn = none
  req : fx.req = none
  csr : fx.csr = none
  acts : fx.acts = []
  ctl : fx.ctl = none
  reads : fx.reads = []
  tlb : fx.tlb = []
  dst : fx.dst = .none

theorem Alone.spec {s : State} (h : Alone s) : (s.thAt s.core s.slot).spec = false := by
  have h1 := h.ord; have h2 := h.ra
  simp only [State.th] at h1 h2
  simp [Thread.spec, h1, h2]

theorem overflowTrap_none {s : State} {x : Slot} {fx : Fx} {p : Nat} (ho : swOrd x.th.sw = false) (hc : fx.ctl = none)
    (h : fx.dst = .none) (hw : fx.wr.length ≤ 1) (hx : (x.comp p).length ≤ 15) : s.overflowTrap x fx p = none := by
  have : ((fx.wr.filter (fun w => w.1 == 28 + p)).map (fun w => w.2)).length ≤ 1 := by
    rw [List.length_map]
    exact Nat.le_trans (List.length_filter_le _ _) hw
  unfold State.overflowTrap
  simp only [h, composed, List.length_append, ho, hc, Bool.not_false, Bool.or_true, if_true, Dst.appends, Nat.zero_add, Nat.add_zero]
  rw [if_neg]
  simp only [Bool.and_eq_true, decide_eq_true_eq, not_and]
  omega

/-- A plain group of one syllable reaches its write phase (R21, R33). -/
theorem finish_plain {s : State} (h : Alone s) {fx : Fx} (hp : fx.Plain) (hw : fx.wr.length ≤ 1) (pfx : Option (BitVec 24)) :
    s.finish fx pfx = .next (s.perform s.core s.slot { fx with sylls := 1, pfx := pfx } false) := by
  have hs : { s with grp := {} } = s := by have := h.grp; cases s; simp_all
  have h1 : swOrd (s.slotAt s.core s.slot).th.sw = false := h.ord
  have h2 : swRa (s.slotAt s.core s.slot).th.sw = false := h.ra
  have o0 := fun gx hc hd hw => overflowTrap_none (s := s) (x := s.slotAt s.core s.slot) (fx := gx) (p := 0) h1 hc hd hw h.room.1
  have o1 := fun gx hc hd hw => overflowTrap_none (s := s) (x := s.slotAt s.core s.slot) (fx := gx) (p := 1) h1 hc hd hw h.room.2
  have e3 : ∀ gx, State.specFull s s.core s.slot gx = false := fun gx => by simp [State.specFull, h.spec]
  have e1 : ∀ gx : Fx, gx.acts = [] → State.sendTrap s s.core s.slot gx = none := fun gx hg => by simp [State.sendTrap, hg]
  have e2 : ∀ gx : Fx, gx.acts = [] → State.sendFull s s.core s.slot gx = false := fun gx hg => by simp [State.sendFull, hg]
  cases fx
  obtain ⟨a1, a2, a3, a4, a5, a6, a7, a8, a9, a10, a11, a12, a13, a14, a15, a16⟩ := hp
  simp only at a1 a2 a3 a4 a5 a6 a7 a8 a9 a10 a11 a12 a13 a14 a15 a16 hw
  subst a1 a2 a3 a4 a5 a6 a7 a8 a9 a10 a11 a12 a13 a14 a15 a16
  simp only [State.finish, h.grp, State.commit, hs, if_true]
  rw [o0 _ rfl rfl hw, o1 _ rfl rfl hw, e1 _ rfl, e2 _ rfl]
  simp [h1, h2, h.late, e3, State.doReads, State.doTlb]

/-- The effects that a result stands for. -/
def Result.fx (e : Result) (late : List Nat) : Fx :=
  { wr := match e.reg with
      | some (d, v) => if d = 0 then [] else [(d.toNat, v)]
      | none => []
    vwr := match e.vec with
      | some (d, v) => [(d.toNat, v)]
      | none => []
    late := late, pops := e.pops, fl := e.fl, warn := e.warn, next := e.next
    st := e.stores.map (fun x => { addr := x.1, bytes := x.2 }) }

theorem Upd.pops {s : State} (hord : swOrd s.th.sw = false) (ps : List Nat) {c : Core} {t : State}
    (h : Upd s s.core c t) (hc : c.slots = s.cor.slots) :
    Upd s s.core (ps.foldl (fun c p => c.portPop s.th s.slot p) c) (ps.foldl (fun x p => x.doPop s.core s.slot p) t) := by
  induction ps generalizing c t with
  | nil => exact h
  | cons p r ih =>
    have hth : t.thAt s.core s.slot = s.th := by
      simp [State.thAt, State.slotAt, State.th, h.self, Core.slotAt, hc, State.cor]
    refine ih (c := c.portPop s.th s.slot p) ?_ ((Core.portPop_slots ..).1.trans hc)
    simp only [State.doPop, hth, hord, Bool.false_and]
    exact h.mod (fun c => c.portPop s.th s.slot p)
      (.of_eq (Core.portPop_slots ..).1 (Core.portPop_slots ..).2.1 (Core.portPop_slots ..).2.2.1)

/-- A core after a scalar destination is written (R15, R59). -/
def Core.putDst (c : Core) (k : Nat) (w : Nat × Word) : Core :=
  if w.1 < 28 then c.putReg (c.slotAt k).th.wp w.1 w.2
  else c.setSlot k ((c.slotAt k).setComp (w.1 - 28) ((c.slotAt k).comp (w.1 - 28) ++ [w.2]))

theorem Upd.putDst {s t : State} {c : Core} (hb : s.bad = []) (h : Upd s s.core c t) (w : Nat × Word) :
    Upd s s.core (c.putDst s.slot w) (t.doWrite s.core s.slot false w) := by
  unfold State.doWrite State.wrD Core.putDst
  simp only [Bool.false_and, Bool.false_eq_true, if_false]
  split
  · have : t.thAt s.core s.slot = (c.slotAt s.slot).th := by simp [State.thAt, State.slotAt, h.self]
    rw [this]
    exact h.setReg hb _ _ _
  · exact h.modSlot s.slot (fun x => x.setComp (w.1 - 28) (x.comp (w.1 - 28) ++ [w.2])) (Slot.sameBound_setComp ..)

theorem Upd.stores {s : State} (hb : s.bad = []) (hch : s.chains = []) (l : List LStore) {c : Core} {t : State}
    (h : Upd s s.core c t) (hth : (c.slotAt s.slot).th.spec = false) (hord : swOrd (c.slotAt s.slot).th.sw = false) :
    Upd s s.core (l.foldl (fun c w => c.store (s.bound s.core) w.addr w.bytes) c)
      (l.foldl (fun x w => x.doStore s.core s.slot w.addr w.bytes) t) := by
  induction l generalizing c t with
  | nil => exact h
  | cons w r ih =>
    have ht : t.thAt s.core s.slot = (c.slotAt s.slot).th := by simp [State.thAt, State.slotAt, h.self]
    have hk : ∀ (ls : List (Nat × Vec × BitVec 64)), ls.foldl (fun x l => x.keepRegion s.core (c.slotAt s.slot).th l.1) t = t := by
      intro ls
      have : ∀ (x : State) (a : Nat), x.keepRegion s.core (c.slotAt s.slot).th a = x := by
        intro x a; simp [State.keepRegion, hord]
      induction ls with
      | nil => rfl
      | cons a r ih => rw [List.foldl_cons, this, ih]
    have hbad : t.bad = [] := h.bad.trans hb
    have hm : ∀ a n, t.mergesBad 0 s.core a n = false := by intro a n; simp [State.mergesBad, hbad]
    have hst : t.doStore s.core s.slot w.addr w.bytes = t.storeL s.core w.addr w.bytes := by
      have hc2 : (t.storeL s.core w.addr w.bytes).chains = [] := by
        have : t.chains = s.chains := by rw [← h.rest]
        rw [State.storeL_good hbad]
        exact this.trans hch
      unfold State.doStore
      simp only [ht, hth, hord, Bool.false_and, Bool.false_eq_true, if_false, hk, hm, hc2, List.isEmpty_nil, if_true]
    simp only [List.foldl_cons, hst]
    exact ih (h.storeL hb w.addr w.bytes) hth hord

/-- A core after a vector destination is written. -/
def Core.putVec (c : Core) (k : Nat) (w : Nat × Vec) : Core :=
  c.poke (wsBase (c.slotAt k).th.wp + 256 + 64 * w.1) (toBytes 64 w.2.toNat)

theorem Core.putVec_slotAt (c : Core) (k j : Nat) (w : Nat × Vec) : (c.putVec k w).slotAt j = c.slotAt j := by
  simp only [Core.putVec, Core.poke, Core.slotAt]

/-- A slot after flags, warnings and the pending prefix enter its SW. -/
def Slot.status (x : Slot) (e : Result) : Slot :=
  { x with th := { x.th with sw := swPend (swWarn (x.th.sw ||| flBits e.fl) e.warn) e.pfx } }

/-- A slot after PC and counters advance. -/
def Slot.advance (x : Slot) (e : Result) : Slot :=
  { x with
    stalled := false
    th := { x.th with
      pc := e.next.getD (x.th.pc + 4)
      synret := if x.th.sys then x.th.synret else x.th.synret + 1
      grpret := if x.th.sys then x.th.grpret else x.th.grpret + 1 } }

/-- The issuing core after pops, then scalar and vector destinations, then the status, then the stores, then the end. -/
def Result.core1 (e : Result) (s : State) : Core := e.pops.foldl (fun c p => c.portPop s.th s.slot p) s.cor
def Result.core2 (e : Result) (s : State) : Core := (e.fx []).wr.foldl (fun c w => c.putDst s.slot w) (e.core1 s)
def Result.core3 (e : Result) (s : State) : Core := (e.fx []).vwr.foldl (fun c w => c.putVec s.slot w) (e.core2 s)
def Result.core4 (e : Result) (s : State) : Core := (e.core3 s).setSlot s.slot (((e.core3 s).slotAt s.slot).status e)
def Result.core5 (e : Result) (s : State) : Core :=
  (e.fx []).st.foldl (fun c w => c.store (s.bound s.core) w.addr w.bytes) (e.core4 s)
def Result.coreAfter (e : Result) (s : State) : Core :=
  (e.core5 s).setSlot s.slot (((e.core5 s).slotAt s.slot).advance e)

theorem Core.putDst_slotTh (c : Core) (k : Nat) (w : Nat × Word) :
    ((c.putDst k w).slotAt k).th.sw = (c.slotAt k).th.sw ∧ ((c.putDst k w).slotAt k).th.wp = (c.slotAt k).th.wp := by
  unfold Core.putDst
  split
  · unfold Core.putReg; split <;> exact ⟨rfl, rfl⟩
  · rw [Core.slotAt_setSlot_self]
    unfold Slot.setComp; split <;> split <;> exact ⟨rfl, rfl⟩

theorem foldl_slots {α : Type} (f : Core → α → Core) (hf : ∀ c a, (f c a).slots = c.slots) (l : List α) (c : Core) :
    (l.foldl f c).slots = c.slots := by
  induction l generalizing c with
  | nil => rfl
  | cons a r ih => rw [List.foldl_cons, ih, hf]

theorem getD_stores (s : State) (ls : List (Nat × List Byte)) (m : Memory) (f : Nat → Byte) (a : Nat)
    (h : ∀ a, m.read a = f a) :
    (ls.foldl (fun m x => storeBytes m (s.bound s.core) x.1 x.2) m).read a
      = ls.foldl (fun g st a => if st.1 ≤ a ∧ a < st.1 + st.2.length ∧ ignoresStore (s.bound s.core) a = false
          then st.2.getD (a - st.1) 0 else g a) f a := by
  induction ls generalizing m f with
  | nil => exact h a
  | cons x r ih =>
    refine ih _ _ (fun b => ?_)
    rw [read_storeBytes, h]

theorem toBytes_getD (n v i : Nat) (h : i < n) : (toBytes n v).getD i 0 = BitVec.ofNat 8 (v / 256 ^ i) := by
  induction n generalizing v i with
  | zero => omega
  | succ n ih =>
    cases i with
    | zero => simp [toBytes]
    | succ i =>
      simp only [toBytes, List.getD_cons_succ]
      rw [ih _ _ (by omega), Nat.pow_succ, Nat.mul_comm, Nat.div_div_eq_div_mul]

theorem read_poke (c : Core) (b n v a : Nat) :
    (c.poke b (toBytes n v)).lmem.read a = layBytes (fun a => c.lmem.read a) b n v a := by
  simp only [Core.poke, Memory.read_setBytes, toBytes_length, layBytes]
  split
  · next h => rw [toBytes_getD _ _ _ (by omega)]
  · rfl

theorem Upd.putDsts {s : State} (hb : s.bad = []) (l : List (Nat × Word)) {c : Core} {t : State} (h : Upd s s.core c t) :
    Upd s s.core (l.foldl (fun c w => c.putDst s.slot w) c) (l.foldl (fun x w => x.doWrite s.core s.slot false w) t) := by
  induction l generalizing c t with
  | nil => exact h
  | cons w r ih => exact ih (h.putDst hb w)

theorem Upd.putVecs {s : State} (hb : s.bad = []) (l : List (Nat × Vec)) {c : Core} {t : State} (h : Upd s s.core c t) :
    Upd s s.core (l.foldl (fun c w => c.putVec s.slot w) c)
      (l.foldl (fun x w => x.doVwrite s.core s.slot false w) t) := by
  induction l generalizing c t with
  | nil => exact h
  | cons w r ih =>
    have h1 : t.thAt s.core s.slot = (c.slotAt s.slot).th := by simp [State.thAt, State.slotAt, h.self]
    have h2 : t.doVwrite s.core s.slot false w = t.setVreg s.core (c.slotAt s.slot).th.wp w.1 w.2 := by
      simp only [State.doVwrite, Bool.false_eq_true, if_false, h1]
    rw [List.foldl_cons, List.foldl_cons, h2]
    exact ih (h.setVreg hb _ _ _)

theorem foldl_sw {α : Type} (k : Nat) (f : Core → α → Core) (hf : ∀ c a, ((f c a).slotAt k).th.sw = (c.slotAt k).th.sw)
    (l : List α) (c : Core) : ((l.foldl f c).slotAt k).th.sw = (c.slotAt k).th.sw := by
  induction l generalizing c with
  | nil => rfl
  | cons a r ih => rw [List.foldl_cons, ih, hf]

theorem Result.core1_slots (e : Result) (s : State) : (e.core1 s).slots = s.cor.slots :=
  foldl_slots _ (fun _ _ => (Core.portPop_slots ..).1) _ _

theorem Result.core3_sw (e : Result) (s : State) : ((e.core3 s).slotAt s.slot).th.sw = s.th.sw := by
  have h1 : ((e.core1 s).slotAt s.slot).th.sw = s.th.sw := by simp [Core.slotAt, e.core1_slots]; rfl
  have h2 := foldl_sw s.slot (fun c w => Core.putDst c s.slot w) (fun c w => (Core.putDst_slotTh c s.slot w).1) (e.fx []).wr (e.core1 s)
  have h3 := foldl_sw s.slot (fun c w => Core.putVec c s.slot w) (fun c w => by rw [Core.putVec_slotAt]) (e.fx []).vwr (e.core2 s)
  exact h3.trans (h2.trans h1)

theorem Result.core4_th (e : Result) {s : State} (h : Alone s) :
    swOrd ((e.core4 s).slotAt s.slot).th.sw = false ∧ ((e.core4 s).slotAt s.slot).th.spec = false := by
  rw [Result.core4, Core.slotAt_setSlot_self]
  have h1 : swOrd (((e.core3 s).slotAt s.slot).status e).th.sw = false := by
    refine (sw_keeps _ _ _ _ (by decide)).trans ?_
    rw [e.core3_sw s]; exact h.ord
  have h2 : swRa (((e.core3 s).slotAt s.slot).status e).th.sw = false := by
    refine (sw_keeps _ _ _ _ (by decide)).trans ?_
    rw [e.core3_sw s]; exact h.ra
  exact ⟨h1, by simp [Thread.spec, h1, h2]⟩

theorem Result.core5_slots (e : Result) (s : State) : (e.core5 s).slots = (e.core4 s).slots :=
  foldl_slots (fun c (w : LStore) => c.store (s.bound s.core) w.addr w.bytes) (fun _ _ => rfl) _ _

/-- The write phase without a CSR write, an action or a control action. -/
theorem perform_plain {s : State} {n k : Nat} {fx : Fx} (hq : s.quantumRuns (s.thAt n k) = false) (h1 : fx.csr = none)
    (h2 : fx.acts = []) (h3 : fx.ctl = none) :
    s.perform n k fx false =
      let s1 := (fx.st.foldl (fun x w => x.doStore n k w.addr w.bytes)
        ((fx.vwr.foldl (fun x w => x.doVwrite n k false w) (fx.wr.foldl (fun x w => x.doWrite n k false w)
          (fx.pops.foldl (fun x p => x.doPop n k p) s))).doStatus n k fx)).doAdvance n k fx
      s1.doQuantum n k fx (swOrd (s.thAt n k).sw && !(s.thAt n k).sys) := by
  simp only [State.perform, hq, h1, h2, h3, Bool.false_and, List.foldl_nil]

/-- The write phase of a plain group changes the issuing core as its result says (R21). -/
theorem perform_upd {s : State} (h : Alone s) (e : Result) (late : List Nat) (hch : e.stores = [] ∨ s.chains = []) :
    Upd s s.core (e.coreAfter s) (s.perform s.core s.slot { e.fx late with sylls := 1, pfx := e.pfx } false) := by
  have hord : swOrd s.th.sw = false := h.ord
  have hq : s.quantumRuns (s.thAt s.core s.slot) = false := by
    have : swOrd (s.thAt s.core s.slot).sw = false := h.ord
    simp [State.quantumRuns, this]
  have u1 : Upd s s.core (e.core1 s) _ := Upd.pops hord e.pops (Upd.refl s s.core) rfl
  generalize h1 : e.pops.foldl _ s = t1 at u1
  have u2 : Upd s s.core (e.core2 s) _ := u1.putDsts h.good (e.fx []).wr
  generalize h2 : (e.fx []).wr.foldl _ t1 = t2 at u2
  have u3 : Upd s s.core (e.core3 s) _ := u2.putVecs h.good (e.fx []).vwr
  generalize h3 : (e.fx []).vwr.foldl _ t2 = t3 at u3
  have u4 : Upd s s.core (e.core4 s) _ := u3.modSlot s.slot (fun x => x.status e) ⟨rfl, rfl, rfl, rfl, rfl⟩
  generalize h4 : t3.modSlot _ _ _ = t4 at u4
  have u5 : Upd s s.core (e.core5 s) ((e.fx []).st.foldl (fun x w => x.doStore s.core s.slot w.addr w.bytes) t4) := by
    rcases hch with hs | hc
    · unfold Result.core5
      rw [show (e.fx []).st = [] by simp [Result.fx, hs]]
      exact u4
    · exact Upd.stores h.good hc (e.fx []).st u4 (e.core4_th h).2 (e.core4_th h).1
  generalize h5 : (e.fx []).st.foldl _ t4 = t5 at u5
  have u7 : Upd s s.core (e.coreAfter s) _ := u5.modSlot s.slot (fun x => x.advance e) ⟨rfl, rfl, rfl, rfl, rfl⟩
  generalize h7 : State.modSlot _ _ _ _ = t7 at u7
  generalize hf : ({ e.fx late with sylls := 1, pfx := e.pfx } : Fx) = f
  have e8 : t5.doAdvance s.core s.slot f = t7 := by rw [← h7, ← hf]; rfl
  have e4 : t3.doStatus s.core s.slot f = t4 := by rw [← h4, ← hf]; rfl
  have : s.perform s.core s.slot f false = t7 := by
    rw [perform_plain hq (by rw [← hf]; rfl) (by rw [← hf]; rfl) (by rw [← hf]; rfl),
      show f.pops = e.pops by rw [← hf]; rfl, h1, show f.wr = (e.fx []).wr by rw [← hf]; rfl, h2,
      show f.vwr = (e.fx []).vwr by rw [← hf]; rfl, h3, e4, show f.st = (e.fx []).st by rw [← hf]; rfl, h5, e8]
    simp [State.doQuantum, show swOrd (s.thAt s.core s.slot).sw = false from hord]
  rw [this]
  exact u7


/-! ### The result of a plain group -/

/-- A core without its memory and slots. -/
def Core.frame (c : Core) : Core := { c with lmem := [], dirty := [], slots := [] }

theorem Core.putDst_frame (c : Core) (k : Nat) (w : Nat × Word) : (c.putDst k w).frame = c.frame := by
  unfold Core.putDst
  split
  · unfold Core.putReg; split <;> rfl
  · rfl

theorem Core.putVec_frame (c : Core) (k : Nat) (w : Nat × Vec) : (c.putVec k w).frame = c.frame := by
  simp only [Core.putVec, Core.poke, Core.frame]

theorem foldl_frame {α β : Type} (g : Core → β) (f : Core → α → Core) (hf : ∀ c a, g (f c a) = g c) (l : List α) (c : Core) :
    g (l.foldl f c) = g c := by
  induction l generalizing c with
  | nil => rfl
  | cons a r ih => rw [List.foldl_cons, ih, hf]

theorem Result.core1_mem (e : Result) (s : State) :
    (e.core1 s).lmem = s.cor.lmem ∧ (e.core1 s).dirty = s.cor.dirty ∧ (e.core1 s).cycles = s.cor.cycles :=
  ⟨foldl_frame Core.lmem _ (fun _ _ => (Core.portPop_slots ..).2.2.2.1) _ _,
   foldl_frame Core.dirty _ (fun _ _ => (Core.portPop_slots ..).2.2.2.2.1) _ _,
   foldl_frame Core.cycles _ (fun _ _ => (Core.portPop_slots ..).2.2.2.2.2.2) _ _⟩

theorem Result.core5_frame (e : Result) (s : State) : (e.core5 s).frame = (e.core1 s).frame := by
  have h2 : (e.core2 s).frame = (e.core1 s).frame := foldl_frame Core.frame (fun c w => c.putDst s.slot w) (fun c w => Core.putDst_frame c s.slot w) _ _
  have h3 : (e.core3 s).frame = (e.core2 s).frame := foldl_frame Core.frame (fun c w => Core.putVec c s.slot w) (fun c w => Core.putVec_frame c s.slot w) _ _
  have h5 : (e.core5 s).frame = (e.core4 s).frame :=
    foldl_frame Core.frame (fun c (w : LStore) => Core.store c (s.bound s.core) w.addr w.bytes) (fun _ _ => rfl) _ _
  exact h5.trans (h3.trans h2)

theorem Result.core1_slotAt (e : Result) (s : State) (k : Nat) : (e.core1 s).slotAt k = s.slotAt s.core k := by
  show Tbl.get (e.core1 s).slots {} k = Tbl.get s.cor.slots {} k
  rw [e.core1_slots]

theorem Core.putDst_other (c : Core) (w : Nat × Word) {k j : Nat} (h : j ≠ k) : (c.putDst k w).slotAt j = c.slotAt j := by
  unfold Core.putDst
  split
  · unfold Core.putReg; split <;> rfl
  · exact Core.slotAt_setSlot_ne _ _ h

/-- The memory and the slot after the scalar destination of a result. -/
theorem Result.core2_eq (e : Result) (s : State) :
    (∀ a, (e.core2 s).lmem.read a = e.regByte s a) ∧ (e.core2 s).slotAt s.slot = e.slotDst s := by
  have hm : (fun a => (e.core1 s).lmem.read a) = s.localByte s.core := funext fun a => by rw [(e.core1_mem s).1]; rfl
  have hs : (e.core1 s).slotAt s.slot = s.slotAt s.core s.slot := e.core1_slotAt s s.slot
  have hs1 : ((e.core1 s).slotAt s.slot).th.wp = s.th.wp := by rw [hs]; rfl
  unfold Result.core2 Result.fx Result.regByte Result.slotDst
  rcases hr : e.reg with _ | ⟨d, v⟩
  · exact ⟨congrFun hm, hs⟩
  · by_cases h0 : d = 0
    · subst h0
      exact ⟨fun a => by simpa using congrFun hm a, by simpa using hs⟩
    · have hd0 : d.toNat ≠ 0 := fun h => h0 (BitVec.eq_of_toNat_eq h)
      simp only [h0, if_false, List.foldl_cons, List.foldl_nil, Core.putDst]
      by_cases h28 : d.toNat < 28
      · simp only [h28, if_true, Core.putReg, hd0, if_false]
        refine ⟨fun a => ?_, ?_⟩
        · rw [read_poke, hs1, hm, if_pos ⟨h0, trivial⟩]
        · rw [if_neg (by omega)]; exact hs
      · simp only [h28, if_false]
        refine ⟨fun a => ?_, ?_⟩
        · rw [if_neg (by simp)]
          exact congrFun hm a
        · rw [Core.slotAt_setSlot_self, if_pos (by omega), hs]

theorem Result.core3_read (e : Result) (s : State) (a : Nat) :
    (e.core3 s).lmem.read a = e.dstByte s a := by
  have c2 := e.core2_eq s
  have w2 : ((e.core2 s).slotAt s.slot).th.wp = s.th.wp := by
    rw [c2.2]; unfold Result.slotDst
    rcases e.reg with _ | ⟨d, v⟩
    · rfl
    · simp only; split
      · exact (Slot.sameBound_setComp ..).wp
      · rfl
  unfold Result.core3 Result.fx Result.dstByte
  rcases hr : e.vec with _ | ⟨d, v⟩
  · exact c2.1 a
  · simp only [List.foldl_cons, List.foldl_nil, Core.putVec]
    rw [read_poke, w2, show (fun a => (e.core2 s).lmem.read a) = e.regByte s from funext c2.1]

theorem foldl_store_lmem (w : List Nat) (l : List LStore) (c : Core) :
    (l.foldl (fun c x => c.store w x.addr x.bytes) c).lmem = l.foldl (fun m x => storeBytes m w x.addr x.bytes) c.lmem := by
  induction l generalizing c with
  | nil => rfl
  | cons a r ih => rw [List.foldl_cons, ih]; rfl

/-- A plain group retires with its result (R21). -/
theorem perform_retires {s : State} (h : Alone s) (e : Result) (late : List Nat)
    (hch : e.stores = [] ∨ s.chains = []) :
    Retires s e (s.perform s.core s.slot { e.fx late with sylls := 1, pfx := e.pfx } false) := by
  have u := perform_upd h e late hch
  have c2 := e.core2_eq s
  have s3 : (e.core3 s).slotAt s.slot = (e.core2 s).slotAt s.slot :=
    foldl_frame (fun c => c.slotAt s.slot) (fun c w => Core.putVec c s.slot w) (fun c w => Core.putVec_slotAt c _ _ w) _ _
  have s6 : (e.core5 s).slotAt s.slot = (e.slotDst s).status e := by
    show Tbl.get (e.core5 s).slots {} s.slot = _
    rw [e.core5_slots, ← c2.2, ← s3]
    exact Core.slotAt_setSlot_self _ _ _
  refine ⟨u.rest, u.others, ?_, fun a => ?_, fun k hk => ?_, ?_⟩
  · rw [u.self]
    have hf := e.core5_frame s
    have hm := e.core1_mem s
    have hsl := e.core1_slots s
    have hx : ({ e.coreAfter s with lmem := s.cor.lmem, dirty := s.cor.dirty, slots := s.cor.slots } : Core)
        = { (e.core5 s).frame with lmem := s.cor.lmem, dirty := s.cor.dirty, slots := s.cor.slots } := rfl
    rw [hx, hf, show e.pops.foldl (fun c p => c.portPop s.th s.slot p) s.cor = e.core1 s from rfl]
    generalize e.core1 s = c1 at *
    cases c1
    simp only at hm hsl
    simp [Core.frame, hm.1, hm.2.1, hm.2.2, hsl]
  · unfold State.localByte
    rw [u.self]
    show (e.core5 s).lmem.read a = _
    unfold Result.core5 Result.byte
    rw [foldl_store_lmem, show (e.fx []).st = e.stores.map (fun x => { addr := x.1, bytes := x.2 }) from rfl, List.foldl_map]
    exact getD_stores s e.stores _ _ a (fun b => e.core3_read s b)
  · show (State.coreAt _ s.core).slotAt k = _
    rw [u.self, Result.coreAfter, Core.slotAt_setSlot_ne _ _ hk]
    show Tbl.get (e.core5 s).slots {} k = _
    rw [e.core5_slots]
    show (e.core4 s).slotAt k = _
    rw [Result.core4, Core.slotAt_setSlot_ne _ _ hk, ← e.core1_slotAt s k]
    have h3 : (e.core3 s).slotAt k = (e.core2 s).slotAt k :=
      foldl_frame (fun c => c.slotAt k) (fun c w => Core.putVec c s.slot w) (fun c w => Core.putVec_slotAt c _ _ w) _ _
    have h2 : (e.core2 s).slotAt k = (e.core1 s).slotAt k :=
      foldl_frame (fun c => c.slotAt k) (fun c w => Core.putDst c s.slot w) (fun c w => Core.putDst_other c w hk) _ _
    exact h3.trans h2
  · show (State.coreAt _ s.core).slotAt s.slot = _
    rw [u.self, Result.coreAfter, Core.slotAt_setSlot_self, s6]
    have : (e.slotDst s).th.pc = s.th.pc ∧ (e.slotDst s).th.sw = s.th.sw ∧ (e.slotDst s).th.synret = s.th.synret
        ∧ (e.slotDst s).th.grpret = s.th.grpret := by
      unfold Result.slotDst
      rcases e.reg with _ | ⟨d, v⟩
      · exact ⟨rfl, rfl, rfl, rfl⟩
      · simp only; split
        · unfold Slot.setComp; split <;> split <;> exact ⟨rfl, rfl, rfl, rfl⟩
        · exact ⟨rfl, rfl, rfl, rfl⟩
    have hsys : ((e.slotDst s).status e).th.sys = s.th.sys :=
      (sw_keeps (e.slotDst s).th.sw e.fl e.warn e.pfx (i := 63) (by decide)).trans (by rw [this.2.1]; rfl)
    have hadv : ((e.slotDst s).status e).advance e = { (e.slotDst s).status e with
        stalled := false
        th := { ((e.slotDst s).status e).th with
          pc := e.next.getD (((e.slotDst s).status e).th.pc + 4)
          synret := if s.th.sys then ((e.slotDst s).status e).th.synret else ((e.slotDst s).status e).th.synret + 1
          grpret := if s.th.sys then ((e.slotDst s).status e).th.grpret else ((e.slotDst s).status e).th.grpret + 1 } } := by
      unfold Slot.advance; rw [hsys]
    rw [hadv]
    simp only [Slot.status, Result.slot, this.1, this.2.1, this.2.2.1, this.2.2.2]

/-- A group of one syllable whose staged effects are those of a result completes with it. -/
theorem finish_retires {s : State} (h : Alone s) (e : Result) (late : List Nat) {fx : Fx} (hfx : fx = e.fx late)
    (hch : e.stores = [] ∨ s.chains = []) :
    Leaves (s.finish fx e.pfx) (Retires s e) := by
  subst hfx
  refine ⟨_, finish_plain h ⟨rfl, rfl, rfl, rfl, rfl, rfl, rfl, rfl, rfl, rfl, rfl, rfl, rfl, rfl, rfl, rfl⟩ ?_ _,
    perform_retires h e late hch⟩
  unfold Result.fx
  rcases e.reg with _ | ⟨d, v⟩
  · simp
  · simp only; split <;> simp

end Sys2Proof.Machine
end

