-- ==== Sys2Proof/Laws/Operands.lean ====
section
/-! SUPPORT. What the operand operations stage for a group of one syllable that nothing holds up: no stall, no trap, no
journey home; only ports popped and destinations written. -/

namespace Sys2Proof.Machine

theorem Alone.pendW {s : State} (h : Alone s) (r : Nat) : s.pendW r = false := by simp [State.pendW, h.pend]

theorem Alone.pendV {s : State} (h : Alone s) (r : Nat) : s.pendV r = false := by simp [State.pendV, h.pend]

theorem Alone.isGuest {s : State} (h : Alone s) : s.isGuest = false := by simp [State.isGuest, h.run]

theorem Alone.isBad {s : State} (h : Alone s) (u a n : Nat) : s.isBad 0 u a n = false := by simp [State.isBad, h.good]

/-- A general register is read without a trace. -/
theorem Alone.useReg {s : State} (h : Alone s) (r : Nat) (fx : Fx) : s.useReg r fx = fx := by
  unfold State.useReg
  split
  · rfl
  · simp [h.pendW, h.isGuest, h.isBad, Fx.trapIf]

/-- A source field stages the ports it pops; a port that holds a word is no reason to wait. -/
theorem Alone.use {s : State} (h : Alone s) {r : Reg} (hr : s.fed [r]) (fx : Fx) :
    s.use r fx = { fx with pops := fx.pops ++ portsOf [r] } := by
  unfold State.use
  split
  · next h28 =>
    rw [h.useReg]
    simp [portsOf, show ¬ 28 ≤ r.toNat by omega]
  · next h28 =>
    have hp : portsOf [r] = [r.toNat - 28] := by simp [portsOf, show 28 ≤ r.toNat by omega]
    have := hr (r.toNat - 28) (by simp [hp])
    simp [State.usePort, hp, h.isGuest, this, ← Option.not_isSome]

theorem State.fed_cons {s : State} {r : Reg} {l : List Reg} : s.fed (r :: l) ↔ s.fed [r] ∧ s.fed l := by
  unfold State.fed portsOf
  by_cases h : 28 ≤ r.toNat <;> simp [h]

theorem portsOf_append (l m : List Reg) : portsOf l ++ portsOf m = portsOf (l ++ m) := by simp [portsOf]

/-- A scalar destination stages its write; w0 discards (R59). -/
theorem Alone.put {s : State} (h : Alone s) (d : Reg) (v : Word) (fx : Fx) :
    s.put d v fx = if d = 0 then fx else { fx with wr := fx.wr ++ [(d.toNat, v)] } := by
  unfold State.put
  split
  · rfl
  · simp [h.pendW, h.isGuest]

theorem Alone.putLater {s : State} (h : Alone s) (d : Reg) (x : Dst) (fx : Fx) : s.putLater d x fx = { fx with dst := x } := by
  simp [State.putLater, h.pendW, h.isGuest]

theorem Alone.useV {s : State} (h : Alone s) (r : Reg) (fx : Fx) : s.useV r fx = fx := by
  simp [State.useV, h.pendV, h.isGuest, h.isBad, Fx.trapIf]

theorem Alone.putV {s : State} (h : Alone s) (d : Reg) (v : Vec) (fx : Fx) :
    s.putV d v fx = { fx with vwr := fx.vwr ++ [(d.toNat, v)] } := by
  simp [State.putV, h.pendV, h.isGuest]

theorem Alone.useSc {s : State} (h : Alone s) (fx : Fx) : s.useSc fx = fx := by simp [State.useSc, h.isGuest]

/-- Nothing is staged before the first syllable of a group but the fallback of its prefix (R60). -/
theorem Alone.fx0 {s : State} (h : Alone s) : s.fx0 = { warn := fallAll s.curPfx } := by simp [State.fx0, h.grp, Fx.warnWith]

theorem Alone.fxC {s : State} (h : Alone s) : s.fxC = { warn := fallControl s.curPfx } := by simp [State.fxC, h.grp, Fx.warnWith]

theorem Alone.curPfx {s : State} (h : Alone s) : s.curPfx = if swPp s.th.sw then some (swPfx s.th.sw) else none := by
  unfold State.curPfx
  rw [h.grp]
  rfl

/-- Two-operand arithmetic completes with its value in d (R59, R62). -/
theorem alu2_retires {s : State} (h : Alone s) {d a b : Reg} (hf : s.fed [a, b]) (f : Word → Word → Word) :
    Leaves (alu2 s d a b f)
      (Retires s { pops := portsOf [a, b], reg := some (d, f (s.val a) (s.val b)), warn := fallAll s.curPfx }) := by
  have hf' := State.fed_cons.1 hf
  refine finish_retires h { pops := portsOf [a, b], reg := some (d, f (s.val a) (s.val b)), warn := fallAll s.curPfx } [] ?_ (.inl rfl)
  rw [h.put, h.use hf'.2, h.use hf'.1, h.fx0]
  unfold Result.fx
  simp only [List.nil_append, portsOf_append, List.cons_append]
  split <;> rfl

end Sys2Proof.Machine
end

