-- ==== Sys2Proof/Laws/PerInstr.lean ====
section
/-! SUPPORT. What holds for every instruction as syntax, one lemma for each constructor. -/

namespace Sys2Proof.Laws.Width

/-- An instruction takes four bytes as a syllable (R24), two as an engine word (R256), and none as a device event. -/
def Statement (i : Instr) : Prop :=
  (encode i).length = if i.isSyllable then 4 else if i.isEngineWord then 2 else 0

theorem add : ∀ x0 x1 x2, Statement (.add x0 x1 x2) := fun _ _ _ => rfl
theorem sub : ∀ x0 x1 x2, Statement (.sub x0 x1 x2) := fun _ _ _ => rfl
theorem mul : ∀ x0 x1 x2, Statement (.mul x0 x1 x2) := fun _ _ _ => rfl
theorem mulh : ∀ x0 x1 x2, Statement (.mulh x0 x1 x2) := fun _ _ _ => rfl
theorem mulhu : ∀ x0 x1 x2, Statement (.mulhu x0 x1 x2) := fun _ _ _ => rfl
theorem div : ∀ x0 x1 x2, Statement (.div x0 x1 x2) := fun _ _ _ => rfl
theorem divu : ∀ x0 x1 x2, Statement (.divu x0 x1 x2) := fun _ _ _ => rfl
theorem rem : ∀ x0 x1 x2, Statement (.rem x0 x1 x2) := fun _ _ _ => rfl
theorem remu : ∀ x0 x1 x2, Statement (.remu x0 x1 x2) := fun _ _ _ => rfl
theorem and : ∀ x0 x1 x2, Statement (.and x0 x1 x2) := fun _ _ _ => rfl
theorem andn : ∀ x0 x1 x2, Statement (.andn x0 x1 x2) := fun _ _ _ => rfl
theorem or : ∀ x0 x1 x2, Statement (.or x0 x1 x2) := fun _ _ _ => rfl
theorem orn : ∀ x0 x1 x2, Statement (.orn x0 x1 x2) := fun _ _ _ => rfl
theorem xor : ∀ x0 x1 x2, Statement (.xor x0 x1 x2) := fun _ _ _ => rfl
theorem shl : ∀ x0 x1 x2, Statement (.shl x0 x1 x2) := fun _ _ _ => rfl
theorem shr : ∀ x0 x1 x2, Statement (.shr x0 x1 x2) := fun _ _ _ => rfl
theorem sar : ∀ x0 x1 x2, Statement (.sar x0 x1 x2) := fun _ _ _ => rfl
theorem rotl : ∀ x0 x1 x2, Statement (.rotl x0 x1 x2) := fun _ _ _ => rfl
theorem min : ∀ x0 x1 x2, Statement (.min x0 x1 x2) := fun _ _ _ => rfl
theorem max : ∀ x0 x1 x2, Statement (.max x0 x1 x2) := fun _ _ _ => rfl
theorem minu : ∀ x0 x1 x2, Statement (.minu x0 x1 x2) := fun _ _ _ => rfl
theorem maxu : ∀ x0 x1 x2, Statement (.maxu x0 x1 x2) := fun _ _ _ => rfl
theorem seq : ∀ x0 x1 x2, Statement (.seq x0 x1 x2) := fun _ _ _ => rfl
theorem sne : ∀ x0 x1 x2, Statement (.sne x0 x1 x2) := fun _ _ _ => rfl
theorem slt : ∀ x0 x1 x2, Statement (.slt x0 x1 x2) := fun _ _ _ => rfl
theorem sltu : ∀ x0 x1 x2, Statement (.sltu x0 x1 x2) := fun _ _ _ => rfl
theorem sel : ∀ x0 x1 x2 x3, Statement (.sel x0 x1 x2 x3) := fun _ _ _ _ => rfl
theorem addi : ∀ x0 x1 x2, Statement (.addi x0 x1 x2) := fun _ _ _ => rfl
theorem andi : ∀ x0 x1 x2, Statement (.andi x0 x1 x2) := fun _ _ _ => rfl
theorem ori : ∀ x0 x1 x2, Statement (.ori x0 x1 x2) := fun _ _ _ => rfl
theorem xori : ∀ x0 x1 x2, Statement (.xori x0 x1 x2) := fun _ _ _ => rfl
theorem muli : ∀ x0 x1 x2, Statement (.muli x0 x1 x2) := fun _ _ _ => rfl
theorem shli : ∀ x0 x1 x2, Statement (.shli x0 x1 x2) := fun _ _ _ => rfl
theorem shri : ∀ x0 x1 x2, Statement (.shri x0 x1 x2) := fun _ _ _ => rfl
theorem sari : ∀ x0 x1 x2, Statement (.sari x0 x1 x2) := fun _ _ _ => rfl
theorem slti : ∀ x0 x1 x2, Statement (.slti x0 x1 x2) := fun _ _ _ => rfl
theorem sltiu : ∀ x0 x1 x2, Statement (.sltiu x0 x1 x2) := fun _ _ _ => rfl
theorem li : ∀ x0 x1, Statement (.li x0 x1) := fun _ _ => rfl
theorem lsi : ∀ x0 x1, Statement (.lsi x0 x1) := fun _ _ => rfl
theorem clz : ∀ x0 x1, Statement (.clz x0 x1) := fun _ _ => rfl
theorem ctz : ∀ x0 x1, Statement (.ctz x0 x1) := fun _ _ => rfl
theorem popc : ∀ x0 x1, Statement (.popc x0 x1) := fun _ _ => rfl
theorem bswap : ∀ x0 x1, Statement (.bswap x0 x1) := fun _ _ => rfl
theorem lea : ∀ x0 x1 x2 x3, Statement (.lea x0 x1 x2 x3) := fun _ _ _ _ => rfl
theorem crd : ∀ x0 x1, Statement (.crd x0 x1) := fun _ _ => rfl
theorem bext : ∀ x0 x1 x2 x3, Statement (.bext x0 x1 x2 x3) := fun _ _ _ _ => rfl
theorem bins : ∀ x0 x1 x2 x3, Statement (.bins x0 x1 x2 x3) := fun _ _ _ _ => rfl
theorem bZ : ∀ x0 x1, Statement (.bZ x0 x1) := fun _ _ => rfl
theorem bNz : ∀ x0 x1, Statement (.bNz x0 x1) := fun _ _ => rfl
theorem bLz : ∀ x0 x1, Statement (.bLz x0 x1) := fun _ _ => rfl
theorem bGez : ∀ x0 x1, Statement (.bGez x0 x1) := fun _ _ => rfl
theorem bGz : ∀ x0 x1, Statement (.bGz x0 x1) := fun _ _ => rfl
theorem bLez : ∀ x0 x1, Statement (.bLez x0 x1) := fun _ _ => rfl
theorem j : ∀ x0, Statement (.j x0) := fun _ => rfl
theorem jal : ∀ x0 x1, Statement (.jal x0 x1) := fun _ _ => rfl
theorem jalr : ∀ x0 x1 x2, Statement (.jalr x0 x1 x2) := fun _ _ _ => rfl
theorem btag : ∀ x0 x1, Statement (.btag x0 x1) := fun _ _ => rfl
theorem ldl : ∀ x0 x1 x2 x3, Statement (.ldl x0 x1 x2 x3) := fun _ _ _ _ => rfl
theorem stl : ∀ x0 x1 x2 x3, Statement (.stl x0 x1 x2 x3) := fun _ _ _ _ => rfl
theorem pfx : ∀ x0, Statement (.pfx x0) := fun _ => rfl
theorem csrr : ∀ x0 x1, Statement (.csrr x0 x1) := fun _ _ => rfl
theorem csrw : ∀ x0 x1 x2, Statement (.csrw x0 x1 x2) := fun _ _ _ => rfl
theorem csrs : ∀ x0 x1 x2, Statement (.csrs x0 x1 x2) := fun _ _ _ => rfl
theorem csrc : ∀ x0 x1 x2, Statement (.csrc x0 x1 x2) := fun _ _ _ => rfl
theorem registerWrite : ∀ x0 x1 x2, Statement (.registerWrite x0 x1 x2) := fun _ _ _ => rfl
theorem vldl : ∀ x0 x1 x2, Statement (.vldl x0 x1 x2) := fun _ _ _ => rfl
theorem vstl : ∀ x0 x1 x2, Statement (.vstl x0 x1 x2) := fun _ _ _ => rfl
theorem vbcast : ∀ x0 x1, Statement (.vbcast x0 x1) := fun _ _ => rfl
theorem vext : ∀ x0 x1 x2, Statement (.vext x0 x1 x2) := fun _ _ _ => rfl
theorem vins : ∀ x0 x1 x2, Statement (.vins x0 x1 x2) := fun _ _ _ => rfl
theorem vmov : ∀ x0 x1, Statement (.vmov x0 x1) := fun _ _ => rfl
theorem vaddF : ∀ x0 x1 x2, Statement (.vaddF x0 x1 x2) := fun _ _ _ => rfl
theorem vsubF : ∀ x0 x1 x2, Statement (.vsubF x0 x1 x2) := fun _ _ _ => rfl
theorem vmulF : ∀ x0 x1 x2, Statement (.vmulF x0 x1 x2) := fun _ _ _ => rfl
theorem vfmaF : ∀ x0 x1 x2, Statement (.vfmaF x0 x1 x2) := fun _ _ _ => rfl
theorem vminF : ∀ x0 x1 x2, Statement (.vminF x0 x1 x2) := fun _ _ _ => rfl
theorem vmaxF : ∀ x0 x1 x2, Statement (.vmaxF x0 x1 x2) := fun _ _ _ => rfl
theorem vabsF : ∀ x0 x1, Statement (.vabsF x0 x1) := fun _ _ => rfl
theorem vnegF : ∀ x0 x1, Statement (.vnegF x0 x1) := fun _ _ => rfl
theorem vaddI : ∀ x0 x1 x2, Statement (.vaddI x0 x1 x2) := fun _ _ _ => rfl
theorem vsubI : ∀ x0 x1 x2, Statement (.vsubI x0 x1 x2) := fun _ _ _ => rfl
theorem vmulI : ∀ x0 x1 x2, Statement (.vmulI x0 x1 x2) := fun _ _ _ => rfl
theorem vminI : ∀ x0 x1 x2, Statement (.vminI x0 x1 x2) := fun _ _ _ => rfl
theorem vmaxI : ∀ x0 x1 x2, Statement (.vmaxI x0 x1 x2) := fun _ _ _ => rfl
theorem vand : ∀ x0 x1 x2, Statement (.vand x0 x1 x2) := fun _ _ _ => rfl
theorem vor : ∀ x0 x1 x2, Statement (.vor x0 x1 x2) := fun _ _ _ => rfl
theorem vxor : ∀ x0 x1 x2, Statement (.vxor x0 x1 x2) := fun _ _ _ => rfl
theorem vshl : ∀ x0 x1 x2, Statement (.vshl x0 x1 x2) := fun _ _ _ => rfl
theorem vshr : ∀ x0 x1 x2, Statement (.vshr x0 x1 x2) := fun _ _ _ => rfl
theorem vsar : ∀ x0 x1 x2, Statement (.vsar x0 x1 x2) := fun _ _ _ => rfl
theorem vcmpF : ∀ x0 x1 x2 x3, Statement (.vcmpF x0 x1 x2 x3) := fun _ _ _ _ => rfl
theorem vsel : ∀ x0 x1 x2, Statement (.vsel x0 x1 x2) := fun _ _ _ => rfl
theorem vcvt : ∀ x0 x1 x2, Statement (.vcvt x0 x1 x2) := fun _ _ _ => rfl
theorem vrcp : ∀ x0 x1, Statement (.vrcp x0 x1) := fun _ _ => rfl
theorem vrsqrt : ∀ x0 x1, Statement (.vrsqrt x0 x1) := fun _ _ => rfl
theorem vexp2 : ∀ x0 x1, Statement (.vexp2 x0 x1) := fun _ _ => rfl
theorem vlog2 : ∀ x0 x1, Statement (.vlog2 x0 x1) := fun _ _ => rfl
theorem vredAdd : ∀ x0 x1, Statement (.vredAdd x0 x1) := fun _ _ => rfl
theorem vscanAdd : ∀ x0 x1, Statement (.vscanAdd x0 x1) := fun _ _ => rfl
theorem vredMax : ∀ x0 x1, Statement (.vredMax x0 x1) := fun _ _ => rfl
theorem vredMin : ∀ x0 x1, Statement (.vredMin x0 x1) := fun _ _ => rfl
theorem vargmax : ∀ x0 x1, Statement (.vargmax x0 x1) := fun _ _ => rfl
theorem vargmin : ∀ x0 x1, Statement (.vargmin x0 x1) := fun _ _ => rfl
theorem vsort : ∀ x0 x1, Statement (.vsort x0 x1) := fun _ _ => rfl
theorem vcompact : ∀ x0 x1 x2, Statement (.vcompact x0 x1 x2) := fun _ _ _ => rfl
theorem vtopk : ∀ x0 x1 x2, Statement (.vtopk x0 x1 x2) := fun _ _ _ => rfl
theorem vperm : ∀ x0 x1 x2, Statement (.vperm x0 x1 x2) := fun _ _ _ => rfl
theorem vrevd : ∀ x0 x1 x2, Statement (.vrevd x0 x1 x2) := fun _ _ _ => rfl
theorem awclr : ∀ x0, Statement (.awclr x0) := fun _ => rfl
theorem awin : ∀ x0 x1, Statement (.awin x0 x1) := fun _ _ => rfl
theorem awinm : ∀ x0 x1 x2, Statement (.awinm x0 x1 x2) := fun _ _ _ => rfl
theorem vawin : ∀ x0 x1, Statement (.vawin x0 x1) := fun _ _ => rfl
theorem awadd : ∀ x0 x1, Statement (.awadd x0 x1) := fun _ _ => rfl
theorem awrd : ∀ x0 x1, Statement (.awrd x0 x1) := fun _ _ => rfl
theorem send : ∀ x0, Statement (.send x0) := fun _ => rfl
theorem sendv : ∀ x0 x1 x2, Statement (.sendv x0 x1 x2) := fun _ _ _ => rfl
theorem tset : ∀ x0 x1, Statement (.tset x0 x1) := fun _ _ => rfl
theorem tclr : ∀ x0 x1, Statement (.tclr x0 x1) := fun _ _ => rfl
theorem tpend : ∀ x0 x1, Statement (.tpend x0 x1) := fun _ _ => rfl
theorem tcreate : ∀ x0 x1, Statement (.tcreate x0 x1) := fun _ _ => rfl
theorem tdec : ∀ x0 x1 x2, Statement (.tdec x0 x1 x2) := fun _ _ _ => rfl
theorem launch : ∀ x0 x1, Statement (.launch x0 x1) := fun _ _ => rfl
theorem join : ∀ x0 x1, Statement (.join x0 x1) := fun _ _ => rfl
theorem bar : ∀ x0 x1, Statement (.bar x0 x1) := fun _ _ => rfl
theorem waitw : ∀ x0 x1 x2, Statement (.waitw x0 x1 x2) := fun _ _ _ => rfl
theorem enq : ∀ x0 x1 x2, Statement (.enq x0 x1 x2) := fun _ _ _ => rfl
theorem deq : ∀ x0 x1 x2, Statement (.deq x0 x1 x2) := fun _ _ _ => rfl
theorem spawna : ∀ x0 x1, Statement (.spawna x0 x1) := fun _ _ => rfl
theorem scwait : ∀ x0 x1, Statement (.scwait x0 x1) := fun _ _ => rfl
theorem mbxIns : ∀ x0 x1, Statement (.mbxIns x0 x1) := fun _ _ => rfl
theorem mbxRd : ∀ x0 x1, Statement (.mbxRd x0 x1) := fun _ _ => rfl
theorem mbxClr : ∀ x0 x1, Statement (.mbxClr x0 x1) := fun _ _ => rfl
theorem ldg : ∀ x0 x1 x2 x3 x4, Statement (.ldg x0 x1 x2 x3 x4) := fun _ _ _ _ _ => rfl
theorem vldg : ∀ x0 x1 x2 x3, Statement (.vldg x0 x1 x2 x3) := fun _ _ _ _ => rfl
theorem stg : ∀ x0 x1 x2 x3 x4, Statement (.stg x0 x1 x2 x3 x4) := fun _ _ _ _ _ => rfl
theorem vstg : ∀ x0 x1 x2 x3, Statement (.vstg x0 x1 x2 x3) := fun _ _ _ _ => rfl
theorem ldr : ∀ x0 x1 x2 x3, Statement (.ldr x0 x1 x2 x3) := fun _ _ _ _ => rfl
theorem ldrMig : ∀ x0 x1 x2 x3, Statement (.ldrMig x0 x1 x2 x3) := fun _ _ _ _ => rfl
theorem str : ∀ x0 x1 x2 x3, Statement (.str x0 x1 x2 x3) := fun _ _ _ _ => rfl
theorem amoAdd : ∀ x0 x1 x2 x3 x4 x5, Statement (.amoAdd x0 x1 x2 x3 x4 x5) := fun _ _ _ _ _ _ => rfl
theorem amoAnd : ∀ x0 x1 x2 x3 x4 x5, Statement (.amoAnd x0 x1 x2 x3 x4 x5) := fun _ _ _ _ _ _ => rfl
theorem amoOr : ∀ x0 x1 x2 x3 x4 x5, Statement (.amoOr x0 x1 x2 x3 x4 x5) := fun _ _ _ _ _ _ => rfl
theorem amoXor : ∀ x0 x1 x2 x3 x4 x5, Statement (.amoXor x0 x1 x2 x3 x4 x5) := fun _ _ _ _ _ _ => rfl
theorem amoMin : ∀ x0 x1 x2 x3 x4 x5, Statement (.amoMin x0 x1 x2 x3 x4 x5) := fun _ _ _ _ _ _ => rfl
theorem amoMax : ∀ x0 x1 x2 x3 x4 x5, Statement (.amoMax x0 x1 x2 x3 x4 x5) := fun _ _ _ _ _ _ => rfl
theorem amoMinu : ∀ x0 x1 x2 x3 x4 x5, Statement (.amoMinu x0 x1 x2 x3 x4 x5) := fun _ _ _ _ _ _ => rfl
theorem amoMaxu : ∀ x0 x1 x2 x3 x4 x5, Statement (.amoMaxu x0 x1 x2 x3 x4 x5) := fun _ _ _ _ _ _ => rfl
theorem amoSwap : ∀ x0 x1 x2 x3 x4 x5, Statement (.amoSwap x0 x1 x2 x3 x4 x5) := fun _ _ _ _ _ _ => rfl
theorem amoCas : ∀ x0 x1 x2 x3 x4 x5, Statement (.amoCas x0 x1 x2 x3 x4 x5) := fun _ _ _ _ _ _ => rfl
theorem amoIncb : ∀ x0 x1 x2 x3 x4 x5, Statement (.amoIncb x0 x1 x2 x3 x4 x5) := fun _ _ _ _ _ _ => rfl
theorem amoFadd : ∀ x0 x1 x2 x3 x4 x5, Statement (.amoFadd x0 x1 x2 x3 x4 x5) := fun _ _ _ _ _ _ => rfl
theorem fence : ∀ x0, Statement (.fence x0) := fun _ => rfl
theorem pf : ∀ x0 x1, Statement (.pf x0 x1) := fun _ _ => rfl
theorem tlook : ∀ x0 x1, Statement (.tlook x0 x1) := fun _ _ => rfl
theorem tfill : ∀ x0 x1 x2, Statement (.tfill x0 x1 x2) := fun _ _ _ => rfl
theorem tinv : ∀ x0 x1, Statement (.tinv x0 x1) := fun _ _ => rfl
theorem job : ∀ x0 x1 x2 x3, Statement (.job x0 x1 x2 x3) := fun _ _ _ _ => rfl
theorem jobNb : ∀ x0 x1 x2 x3, Statement (.jobNb x0 x1 x2 x3) := fun _ _ _ _ => rfl
theorem jwait : ∀ x0 x1, Statement (.jwait x0 x1) := fun _ _ => rfl
theorem jpoll : ∀ x0 x1 x2, Statement (.jpoll x0 x1 x2) := fun _ _ _ => rfl
theorem jcancel : ∀ x0 x1, Statement (.jcancel x0 x1) := fun _ _ => rfl
theorem qstat : ∀ x0, Statement (.qstat x0) := fun _ => rfl
theorem swp : ∀ x0 x1 x2, Statement (.swp x0 x1 x2) := fun _ _ _ => rfl
theorem resume : ∀ x0 x1 x2, Statement (.resume x0 x1 x2) := fun _ _ _ => rfl
theorem trap : ∀ x0, Statement (.trap x0) := fun _ => rfl
theorem park : ∀ x0, Statement (.park x0) := fun _ => rfl
theorem taskStart : ∀ x0 x1, Statement (.taskStart x0 x1) := fun _ _ => rfl
theorem taskAging : ∀ x0 x1, Statement (.taskAging x0 x1) := fun _ _ => rfl
theorem budgetExpiry : ∀ x0 x1, Statement (.budgetExpiry x0 x1) := fun _ _ => rfl
theorem messageDelivery : ∀ x0, Statement (.messageDelivery x0) := fun _ => rfl
theorem heldMessageDispatch : ∀ x0, Statement (.heldMessageDispatch x0) := fun _ => rfl
theorem noticeDelivery : ∀ x0, Statement (.noticeDelivery x0) := fun _ => rfl
theorem homeAccess : ∀ x0, Statement (.homeAccess x0) := fun _ => rfl
theorem loadReply : ∀ x0, Statement (.loadReply x0) := fun _ => rfl
theorem storeAck : ∀ x0, Statement (.storeAck x0) := fun _ => rfl
theorem remoteFaultReply : ∀ x0, Statement (.remoteFaultReply x0) := fun _ => rfl
theorem migrationArrival : ∀ x0, Statement (.migrationArrival x0) := fun _ => rfl
theorem migrationTimeout : ∀ x0, Statement (.migrationTimeout x0) := fun _ => rfl
theorem guestReturn : ∀ x0 x1, Statement (.guestReturn x0 x1) := fun _ _ => rfl
theorem batonReceive : ∀ x0, Statement (.batonReceive x0) := fun _ => rfl
theorem depDecrement : ∀ x0, Statement (.depDecrement x0) := fun _ => rfl
theorem readyListInsert : ∀ x0, Statement (.readyListInsert x0) := fun _ => rfl
theorem launchPlacement : ∀ x0, Statement (.launchPlacement x0) := fun _ => rfl
theorem barrierComplete : ∀ x0, Statement (.barrierComplete x0) := fun _ => rfl
theorem joinComplete : ∀ x0, Statement (.joinComplete x0) := fun _ => rfl
theorem waitwWake : ∀ x0, Statement (.waitwWake x0) := fun _ => rfl
theorem deqServe : ∀ x0, Statement (.deqServe x0) := fun _ => rfl
theorem roundStart : ∀ x0, Statement (.roundStart x0) := fun _ => rfl
theorem roundCommit : ∀ x0, Statement (.roundCommit x0) := fun _ => rfl
theorem jobStart : ∀ x0 x1, Statement (.jobStart x0 x1) := fun _ _ => rfl
theorem jobComplete : ∀ x0, Statement (.jobComplete x0) := fun _ => rfl
theorem jobSuccessorDecrement : ∀ x0, Statement (.jobSuccessorDecrement x0) := fun _ => rfl
theorem claimGrant : ∀ x0, Statement (.claimGrant x0) := fun _ => rfl
theorem recallClaim : ∀ x0 x1, Statement (.recallClaim x0 x1) := fun _ _ => rfl
theorem rangeLockRelease : ∀ x0, Statement (.rangeLockRelease x0) := fun _ => rfl
theorem drainWakeup : ∀ x0, Statement (.drainWakeup x0) := fun _ => rfl
theorem scoreMessageInsert : ∀ x0, Statement (.scoreMessageInsert x0) := fun _ => rfl
theorem evictPhaseTwo : ∀ x0, Statement (.evictPhaseTwo x0) := fun _ => rfl
theorem clReadySignal : ∀ x0, Statement (.clReadySignal x0) := fun _ => rfl
theorem clStepData : ∀ x0, Statement (.clStepData x0) := fun _ => rfl
theorem clPartnerTimeout : ∀ x0, Statement (.clPartnerTimeout x0) := fun _ => rfl
theorem translationWalk : ∀ x0 x1 x2, Statement (.translationWalk x0 x1 x2) := fun _ _ _ => rfl
theorem sectorFill : ∀ x0, Statement (.sectorFill x0) := fun _ => rfl
theorem lineEviction : ∀ x0, Statement (.lineEviction x0) := fun _ => rfl
theorem shootdownInvalidation : ∀ x0, Statement (.shootdownInvalidation x0) := fun _ => rfl
theorem remoteTranslationRequest : ∀ x0 x1 x2 x3, Statement (.remoteTranslationRequest x0 x1 x2 x3) := fun _ _ _ _ => rfl
theorem sccfgWrite : ∀ x0 x1, Statement (.sccfgWrite x0 x1) := fun _ _ => rfl
theorem mbcfgWrite : ∀ x0 x1, Statement (.mbcfgWrite x0 x1) := fun _ _ => rfl
theorem llcpartWrite : ∀ x0, Statement (.llcpartWrite x0) := fun _ => rfl
theorem calcfgWrite : ∀ x0, Statement (.calcfgWrite x0) := fun _ => rfl
theorem optportWrite : ∀ x0 x1, Statement (.optportWrite x0 x1) := fun _ _ => rfl
theorem peerClear : ∀ x0, Statement (.peerClear x0) := fun _ => rfl
theorem warmStart : ∀ x0, Statement (.warmStart x0) := fun _ => rfl
theorem droopLoop : ∀ x0 x1, Statement (.droopLoop x0 x1) := fun _ _ => rfl
theorem opticalEqualisation : ∀ x0, Statement (.opticalEqualisation x0) := fun _ => rfl
theorem hbmRecalibration : ∀ x0, Statement (.hbmRecalibration x0) := fun _ => rfl
theorem lookaheadThreshold : ∀ x0, Statement (.lookaheadThreshold x0) := fun _ => rfl
theorem replicaHint : ∀ x0 x1, Statement (.replicaHint x0 x1) := fun _ _ => rfl
theorem frameMark : ∀ x0 x1, Statement (.frameMark x0 x1) := fun _ _ => rfl
theorem marksMissed : ∀ x0, Statement (.marksMissed x0) := fun _ => rfl
theorem frameTransmit : ∀ x0, Statement (.frameTransmit x0) := fun _ => rfl
theorem frameReceive : ∀ x0 x1 x2 x3, Statement (.frameReceive x0 x1 x2 x3) := fun _ _ _ _ => rfl
theorem portLost : ∀ x0, Statement (.portLost x0) := fun _ => rfl
theorem sequenceAck : ∀ x0 x1, Statement (.sequenceAck x0 x1) := fun _ _ => rfl
theorem retransmitTimeout : ∀ x0 x1 x2, Statement (.retransmitTimeout x0 x1 x2) := fun _ _ _ => rfl
theorem latePacketAging : ∀ x0, Statement (.latePacketAging x0) := fun _ => rfl
theorem helloSend : ∀ x0, Statement (.helloSend x0) := fun _ => rfl
theorem helloReceive : ∀ x0 x1 x2, Statement (.helloReceive x0 x1 x2) := fun _ _ _ => rfl
theorem peerTimeout : ∀ x0, Statement (.peerTimeout x0) := fun _ => rfl
theorem hostRead : ∀ x0 x1, Statement (.hostRead x0 x1) := fun _ _ => rfl
theorem hostWrite : ∀ x0 x1 x2, Statement (.hostWrite x0 x1 x2) := fun _ _ _ => rfl
theorem hostAtomic : ∀ x0 x1 x2 x3 x4, Statement (.hostAtomic x0 x1 x2 x3 x4) := fun _ _ _ _ _ => rfl
theorem hostEnqueue : ∀ x0 x1 x2, Statement (.hostEnqueue x0 x1 x2) := fun _ _ _ => rfl
theorem hostCsrrd : ∀ x0 x1, Statement (.hostCsrrd x0 x1) := fun _ _ => rfl
theorem hostCsrwr : ∀ x0 x1 x2, Statement (.hostCsrwr x0 x1 x2) := fun _ _ _ => rfl
theorem linkFlitFailure : ∀ x0, Statement (.linkFlitFailure x0) := fun _ => rfl
theorem readoutRead : ∀ x0 x1 x2, Statement (.readoutRead x0 x1 x2) := fun _ _ _ => rfl
theorem lit : ∀ x0, Statement (.lit x0) := fun _ => rfl
theorem ext : ∀ x0, Statement (.ext x0) := fun _ => rfl
theorem referenceCounterTick : ∀ x0 x1, Statement (.referenceCounterTick x0 x1) := fun _ _ => rfl
theorem resultCompletion : ∀ x0 x1, Statement (.resultCompletion x0 x1) := fun _ _ => rfl
theorem uncorrectableError : ∀ x0 x1 x2, Statement (.uncorrectableError x0 x1 x2) := fun _ _ _ => rfl
theorem powerLoss : ∀ x0, Statement (.powerLoss x0) := fun _ => rfl
theorem texit : Statement (.texit) := rfl
theorem yield : Statement (.yield) := rfl
theorem baton : Statement (.baton) := rfl
theorem fenceI : Statement (.fenceI) := rfl
theorem qsync : Statement (.qsync) := rfl
theorem brk : Statement (.brk) := rfl
theorem rft : Statement (.rft) := rfl
theorem shootdownPage : Statement (.shootdownPage) := rfl
theorem shootdownContext : Statement (.shootdownContext) := rfl
theorem shootdownAll : Statement (.shootdownAll) := rfl
theorem shootdownPlacementMap : Statement (.shootdownPlacementMap) := rfl
theorem shootdownAck : Statement (.shootdownAck) := rfl
theorem preemptSave : Statement (.preemptSave) := rfl
theorem preemptRestore : Statement (.preemptRestore) := rfl
theorem preemptKill : Statement (.preemptKill) := rfl
theorem drainHedge : Statement (.drainHedge) := rfl
theorem reloadHedge : Statement (.reloadHedge) := rfl
theorem retireStack : Statement (.retireStack) := rfl
theorem returnStack : Statement (.returnStack) := rfl
theorem recalibratePort : Statement (.recalibratePort) := rfl
theorem replaceFirmware : Statement (.replaceFirmware) := rfl
theorem powerOn : Statement (.powerOn) := rfl
theorem coldStart : Statement (.coldStart) := rfl
theorem quote : Statement (.quote) := rfl
theorem engNop : Statement (.engNop) := rfl
theorem end_ : Statement (.end_) := rfl
theorem dup : Statement (.dup) := rfl
theorem drop : Statement (.drop) := rfl
theorem engSwap : Statement (.engSwap) := rfl
theorem engOver : Statement (.engOver) := rfl
theorem rot : Statement (.rot) := rfl
theorem engAdd : Statement (.engAdd) := rfl
theorem engSub : Statement (.engSub) := rfl
theorem engMul : Statement (.engMul) := rfl
theorem engShl : Statement (.engShl) := rfl
theorem engShr : Statement (.engShr) := rfl
theorem engAnd : Statement (.engAnd) := rfl
theorem engOr : Statement (.engOr) := rfl
theorem ldp : Statement (.ldp) := rfl
theorem stp : Statement (.stp) := rfl
theorem sig : Statement (.sig) := rfl
theorem skz : Statement (.skz) := rfl
theorem mmFmt : Statement (.mmFmt) := rfl
theorem mmScale : Statement (.mmScale) := rfl
theorem mmGeo : Statement (.mmGeo) := rfl
theorem mmA : Statement (.mmA) := rfl
theorem mmB : Statement (.mmB) := rfl
theorem mmAcc : Statement (.mmAcc) := rfl
theorem mmRound : Statement (.mmRound) := rfl
theorem mmDrain : Statement (.mmDrain) := rfl
theorem mmDrainla : Statement (.mmDrainla) := rfl
theorem mmDrainmb : Statement (.mmDrainmb) := rfl
theorem mmRun : Statement (.mmRun) := rfl
theorem mmRing : Statement (.mmRing) := rfl
theorem mmGmm : Statement (.mmGmm) := rfl
theorem bfLen : Statement (.bfLen) := rfl
theorem bfSched : Statement (.bfSched) := rfl
theorem bfLoad : Statement (.bfLoad) := rfl
theorem bfStage : Statement (.bfStage) := rfl
theorem bfPass : Statement (.bfPass) := rfl
theorem bfTwid : Statement (.bfTwid) := rfl
theorem bfCmul : Statement (.bfCmul) := rfl
theorem bfStore : Statement (.bfStore) := rfl
theorem cpDim : Statement (.cpDim) := rfl
theorem cpGo : Statement (.cpGo) := rfl
theorem cpFill : Statement (.cpFill) := rfl
theorem cpGath : Statement (.cpGath) := rfl
theorem cpScat : Statement (.cpScat) := rfl
theorem cpCvt : Statement (.cpCvt) := rfl
theorem cpClr : Statement (.cpClr) := rfl
theorem rtCfg : Statement (.rtCfg) := rfl
theorem rtBind : Statement (.rtBind) := rfl
theorem rtCap : Statement (.rtCap) := rfl
theorem rtRun : Statement (.rtRun) := rfl
theorem rtEmit : Statement (.rtEmit) := rfl
theorem rtStat : Statement (.rtStat) := rfl
theorem clGrp : Statement (.clGrp) := rfl
theorem clRs : Statement (.clRs) := rfl
theorem clAg : Statement (.clAg) := rfl
theorem clChain : Statement (.clChain) := rfl
theorem clGo : Statement (.clGo) := rfl
theorem lgGate : Statement (.lgGate) := rfl
theorem lgRun : Statement (.lgRun) := rfl
theorem lgPf : Statement (.lgPf) := rfl
theorem exSet : Statement (.exSet) := rfl
theorem exPin : Statement (.exPin) := rfl
theorem exEvict : Statement (.exEvict) := rfl
theorem exRep : Statement (.exRep) := rfl

end Sys2Proof.Laws.Width
end

