-- ==== Sys2Proof/Laws/State.lean ====
section
/-! SUPPORT. What each named update of the state leaves alone, field by field, and what it leaves in the part it changes:
with these no proof unfolds a record update. -/

namespace Sys2Proof.Machine

/-! ### State.setCore -/

@[simp] theorem State.setCore_hedges (s : State) (n : Nat) (c : Core) : (s.setCore n c).hedges = s.hedges := rfl
@[simp] theorem State.setCore_thickets (s : State) (n : Nat) (c : Core) : (s.setCore n c).thickets = s.thickets := rfl
@[simp] theorem State.setCore_dies (s : State) (n : Nat) (c : Core) : (s.setCore n c).dies = s.dies := rfl
@[simp] theorem State.setCore_pkg (s : State) (n : Nat) (c : Core) : (s.setCore n c).pkg = s.pkg := rfl
@[simp] theorem State.setCore_hbm (s : State) (n : Nat) (c : Core) : (s.setCore n c).hbm = s.hbm := rfl
@[simp] theorem State.setCore_hostMem (s : State) (n : Nat) (c : Core) : (s.setCore n c).hostMem = s.hostMem := rfl
@[simp] theorem State.setCore_llc (s : State) (n : Nat) (c : Core) : (s.setCore n c).llc = s.llc := rfl
@[simp] theorem State.setCore_bad (s : State) (n : Nat) (c : Core) : (s.setCore n c).bad = s.bad := rfl
@[simp] theorem State.setCore_net (s : State) (n : Nat) (c : Core) : (s.setCore n c).net = s.net := rfl
@[simp] theorem State.setCore_replies (s : State) (n : Nat) (c : Core) : (s.setCore n c).replies = s.replies := rfl
@[simp] theorem State.setCore_notices (s : State) (n : Nat) (c : Core) : (s.setCore n c).notices = s.notices := rfl
@[simp] theorem State.setCore_migrants (s : State) (n : Nat) (c : Core) : (s.setCore n c).migrants = s.migrants := rfl
@[simp] theorem State.setCore_launches (s : State) (n : Nat) (c : Core) : (s.setCore n c).launches = s.launches := rfl
@[simp] theorem State.setCore_barriers (s : State) (n : Nat) (c : Core) : (s.setCore n c).barriers = s.barriers := rfl
@[simp] theorem State.setCore_ords (s : State) (n : Nat) (c : Core) : (s.setCore n c).ords = s.ords := rfl
@[simp] theorem State.setCore_chains (s : State) (n : Nat) (c : Core) : (s.setCore n c).chains = s.chains := rfl
@[simp] theorem State.setCore_jobs (s : State) (n : Nat) (c : Core) : (s.setCore n c).jobs = s.jobs := rfl
@[simp] theorem State.setCore_jobSeq (s : State) (n : Nat) (c : Core) : (s.setCore n c).jobSeq = s.jobSeq := rfl
@[simp] theorem State.setCore_jobPos (s : State) (n : Nat) (c : Core) : (s.setCore n c).jobPos = s.jobPos := rfl
@[simp] theorem State.setCore_decs (s : State) (n : Nat) (c : Core) : (s.setCore n c).decs = s.decs := rfl
@[simp] theorem State.setCore_clMsgs (s : State) (n : Nat) (c : Core) : (s.setCore n c).clMsgs = s.clMsgs := rfl
@[simp] theorem State.setCore_regions (s : State) (n : Nat) (c : Core) : (s.setCore n c).regions = s.regions := rfl
@[simp] theorem State.setCore_arrivals (s : State) (n : Nat) (c : Core) : (s.setCore n c).arrivals = s.arrivals := rfl
@[simp] theorem State.setCore_homeUs (s : State) (n : Nat) (c : Core) : (s.setCore n c).homeUs = s.homeUs := rfl
@[simp] theorem State.setCore_ports (s : State) (n : Nat) (c : Core) : (s.setCore n c).ports = s.ports := rfl
@[simp] theorem State.setCore_calSlot (s : State) (n : Nat) (c : Core) : (s.setCore n c).calSlot = s.calSlot := rfl
@[simp] theorem State.setCore_calT (s : State) (n : Nat) (c : Core) : (s.setCore n c).calT = s.calT := rfl
@[simp] theorem State.setCore_calBase (s : State) (n : Nat) (c : Core) : (s.setCore n c).calBase = s.calBase := rfl
@[simp] theorem State.setCore_turns (s : State) (n : Nat) (c : Core) : (s.setCore n c).turns = s.turns := rfl
@[simp] theorem State.setCore_pairs (s : State) (n : Nat) (c : Core) : (s.setCore n c).pairs = s.pairs := rfl
@[simp] theorem State.setCore_egress (s : State) (n : Nat) (c : Core) : (s.setCore n c).egress = s.egress := rfl
@[simp] theorem State.setCore_sent (s : State) (n : Nat) (c : Core) : (s.setCore n c).sent = s.sent := rfl
@[simp] theorem State.setCore_helloAge (s : State) (n : Nat) (c : Core) : (s.setCore n c).helloAge = s.helloAge := rfl
@[simp] theorem State.setCore_helloSent (s : State) (n : Nat) (c : Core) : (s.setCore n c).helloSent = s.helloSent := rfl
@[simp] theorem State.setCore_images (s : State) (n : Nat) (c : Core) : (s.setCore n c).images = s.images := rfl
@[simp] theorem State.setCore_farClaims (s : State) (n : Nat) (c : Core) : (s.setCore n c).farClaims = s.farClaims := rfl
@[simp] theorem State.setCore_hostOut (s : State) (n : Nat) (c : Core) : (s.setCore n c).hostOut = s.hostOut := rfl
@[simp] theorem State.setCore_hostGot (s : State) (n : Nat) (c : Core) : (s.setCore n c).hostGot = s.hostGot := rfl
@[simp] theorem State.setCore_hostWait (s : State) (n : Nat) (c : Core) : (s.setCore n c).hostWait = s.hostWait := rfl
@[simp] theorem State.setCore_readOut (s : State) (n : Nat) (c : Core) : (s.setCore n c).readOut = s.readOut := rfl
@[simp] theorem State.setCore_nextId (s : State) (n : Nat) (c : Core) : (s.setCore n c).nextId = s.nextId := rfl
@[simp] theorem State.setCore_sched (s : State) (n : Nat) (c : Core) : (s.setCore n c).sched = s.sched := rfl
@[simp] theorem State.setCore_turn (s : State) (n : Nat) (c : Core) : (s.setCore n c).turn = s.turn := rfl
@[simp] theorem State.setCore_choices (s : State) (n : Nat) (c : Core) : (s.setCore n c).choices = s.choices := rfl
@[simp] theorem State.setCore_core (s : State) (n : Nat) (c : Core) : (s.setCore n c).core = s.core := rfl
@[simp] theorem State.setCore_slot (s : State) (n : Nat) (c : Core) : (s.setCore n c).slot = s.slot := rfl
@[simp] theorem State.setCore_job (s : State) (n : Nat) (c : Core) : (s.setCore n c).job = s.job := rfl
@[simp] theorem State.setCore_late (s : State) (n : Nat) (c : Core) : (s.setCore n c).late = s.late := rfl
@[simp] theorem State.setCore_grp (s : State) (n : Nat) (c : Core) : (s.setCore n c).grp = s.grp := rfl

/-! ### State.modCore -/

@[simp] theorem State.modCore_hedges (s : State) (n : Nat) (f : Core → Core) : (s.modCore n f).hedges = s.hedges := rfl
@[simp] theorem State.modCore_thickets (s : State) (n : Nat) (f : Core → Core) : (s.modCore n f).thickets = s.thickets := rfl
@[simp] theorem State.modCore_dies (s : State) (n : Nat) (f : Core → Core) : (s.modCore n f).dies = s.dies := rfl
@[simp] theorem State.modCore_pkg (s : State) (n : Nat) (f : Core → Core) : (s.modCore n f).pkg = s.pkg := rfl
@[simp] theorem State.modCore_hbm (s : State) (n : Nat) (f : Core → Core) : (s.modCore n f).hbm = s.hbm := rfl
@[simp] theorem State.modCore_hostMem (s : State) (n : Nat) (f : Core → Core) : (s.modCore n f).hostMem = s.hostMem := rfl
@[simp] theorem State.modCore_llc (s : State) (n : Nat) (f : Core → Core) : (s.modCore n f).llc = s.llc := rfl
@[simp] theorem State.modCore_bad (s : State) (n : Nat) (f : Core → Core) : (s.modCore n f).bad = s.bad := rfl
@[simp] theorem State.modCore_net (s : State) (n : Nat) (f : Core → Core) : (s.modCore n f).net = s.net := rfl
@[simp] theorem State.modCore_replies (s : State) (n : Nat) (f : Core → Core) : (s.modCore n f).replies = s.replies := rfl
@[simp] theorem State.modCore_notices (s : State) (n : Nat) (f : Core → Core) : (s.modCore n f).notices = s.notices := rfl
@[simp] theorem State.modCore_migrants (s : State) (n : Nat) (f : Core → Core) : (s.modCore n f).migrants = s.migrants := rfl
@[simp] theorem State.modCore_launches (s : State) (n : Nat) (f : Core → Core) : (s.modCore n f).launches = s.launches := rfl
@[simp] theorem State.modCore_barriers (s : State) (n : Nat) (f : Core → Core) : (s.modCore n f).barriers = s.barriers := rfl
@[simp] theorem State.modCore_ords (s : State) (n : Nat) (f : Core → Core) : (s.modCore n f).ords = s.ords := rfl
@[simp] theorem State.modCore_chains (s : State) (n : Nat) (f : Core → Core) : (s.modCore n f).chains = s.chains := rfl
@[simp] theorem State.modCore_jobs (s : State) (n : Nat) (f : Core → Core) : (s.modCore n f).jobs = s.jobs := rfl
@[simp] theorem State.modCore_jobSeq (s : State) (n : Nat) (f : Core → Core) : (s.modCore n f).jobSeq = s.jobSeq := rfl
@[simp] theorem State.modCore_jobPos (s : State) (n : Nat) (f : Core → Core) : (s.modCore n f).jobPos = s.jobPos := rfl
@[simp] theorem State.modCore_decs (s : State) (n : Nat) (f : Core → Core) : (s.modCore n f).decs = s.decs := rfl
@[simp] theorem State.modCore_clMsgs (s : State) (n : Nat) (f : Core → Core) : (s.modCore n f).clMsgs = s.clMsgs := rfl
@[simp] theorem State.modCore_regions (s : State) (n : Nat) (f : Core → Core) : (s.modCore n f).regions = s.regions := rfl
@[simp] theorem State.modCore_arrivals (s : State) (n : Nat) (f : Core → Core) : (s.modCore n f).arrivals = s.arrivals := rfl
@[simp] theorem State.modCore_homeUs (s : State) (n : Nat) (f : Core → Core) : (s.modCore n f).homeUs = s.homeUs := rfl
@[simp] theorem State.modCore_ports (s : State) (n : Nat) (f : Core → Core) : (s.modCore n f).ports = s.ports := rfl
@[simp] theorem State.modCore_calSlot (s : State) (n : Nat) (f : Core → Core) : (s.modCore n f).calSlot = s.calSlot := rfl
@[simp] theorem State.modCore_calT (s : State) (n : Nat) (f : Core → Core) : (s.modCore n f).calT = s.calT := rfl
@[simp] theorem State.modCore_calBase (s : State) (n : Nat) (f : Core → Core) : (s.modCore n f).calBase = s.calBase := rfl
@[simp] theorem State.modCore_turns (s : State) (n : Nat) (f : Core → Core) : (s.modCore n f).turns = s.turns := rfl
@[simp] theorem State.modCore_pairs (s : State) (n : Nat) (f : Core → Core) : (s.modCore n f).pairs = s.pairs := rfl
@[simp] theorem State.modCore_egress (s : State) (n : Nat) (f : Core → Core) : (s.modCore n f).egress = s.egress := rfl
@[simp] theorem State.modCore_sent (s : State) (n : Nat) (f : Core → Core) : (s.modCore n f).sent = s.sent := rfl
@[simp] theorem State.modCore_helloAge (s : State) (n : Nat) (f : Core → Core) : (s.modCore n f).helloAge = s.helloAge := rfl
@[simp] theorem State.modCore_helloSent (s : State) (n : Nat) (f : Core → Core) : (s.modCore n f).helloSent = s.helloSent := rfl
@[simp] theorem State.modCore_images (s : State) (n : Nat) (f : Core → Core) : (s.modCore n f).images = s.images := rfl
@[simp] theorem State.modCore_farClaims (s : State) (n : Nat) (f : Core → Core) : (s.modCore n f).farClaims = s.farClaims := rfl
@[simp] theorem State.modCore_hostOut (s : State) (n : Nat) (f : Core → Core) : (s.modCore n f).hostOut = s.hostOut := rfl
@[simp] theorem State.modCore_hostGot (s : State) (n : Nat) (f : Core → Core) : (s.modCore n f).hostGot = s.hostGot := rfl
@[simp] theorem State.modCore_hostWait (s : State) (n : Nat) (f : Core → Core) : (s.modCore n f).hostWait = s.hostWait := rfl
@[simp] theorem State.modCore_readOut (s : State) (n : Nat) (f : Core → Core) : (s.modCore n f).readOut = s.readOut := rfl
@[simp] theorem State.modCore_nextId (s : State) (n : Nat) (f : Core → Core) : (s.modCore n f).nextId = s.nextId := rfl
@[simp] theorem State.modCore_sched (s : State) (n : Nat) (f : Core → Core) : (s.modCore n f).sched = s.sched := rfl
@[simp] theorem State.modCore_turn (s : State) (n : Nat) (f : Core → Core) : (s.modCore n f).turn = s.turn := rfl
@[simp] theorem State.modCore_choices (s : State) (n : Nat) (f : Core → Core) : (s.modCore n f).choices = s.choices := rfl
@[simp] theorem State.modCore_core (s : State) (n : Nat) (f : Core → Core) : (s.modCore n f).core = s.core := rfl
@[simp] theorem State.modCore_slot (s : State) (n : Nat) (f : Core → Core) : (s.modCore n f).slot = s.slot := rfl
@[simp] theorem State.modCore_job (s : State) (n : Nat) (f : Core → Core) : (s.modCore n f).job = s.job := rfl
@[simp] theorem State.modCore_late (s : State) (n : Nat) (f : Core → Core) : (s.modCore n f).late = s.late := rfl
@[simp] theorem State.modCore_grp (s : State) (n : Nat) (f : Core → Core) : (s.modCore n f).grp = s.grp := rfl

/-! ### State.modSlot -/

@[simp] theorem State.modSlot_hedges (s : State) (n k : Nat) (f : Slot → Slot) : (s.modSlot n k f).hedges = s.hedges := rfl
@[simp] theorem State.modSlot_thickets (s : State) (n k : Nat) (f : Slot → Slot) : (s.modSlot n k f).thickets = s.thickets := rfl
@[simp] theorem State.modSlot_dies (s : State) (n k : Nat) (f : Slot → Slot) : (s.modSlot n k f).dies = s.dies := rfl
@[simp] theorem State.modSlot_pkg (s : State) (n k : Nat) (f : Slot → Slot) : (s.modSlot n k f).pkg = s.pkg := rfl
@[simp] theorem State.modSlot_hbm (s : State) (n k : Nat) (f : Slot → Slot) : (s.modSlot n k f).hbm = s.hbm := rfl
@[simp] theorem State.modSlot_hostMem (s : State) (n k : Nat) (f : Slot → Slot) : (s.modSlot n k f).hostMem = s.hostMem := rfl
@[simp] theorem State.modSlot_llc (s : State) (n k : Nat) (f : Slot → Slot) : (s.modSlot n k f).llc = s.llc := rfl
@[simp] theorem State.modSlot_bad (s : State) (n k : Nat) (f : Slot → Slot) : (s.modSlot n k f).bad = s.bad := rfl
@[simp] theorem State.modSlot_net (s : State) (n k : Nat) (f : Slot → Slot) : (s.modSlot n k f).net = s.net := rfl
@[simp] theorem State.modSlot_replies (s : State) (n k : Nat) (f : Slot → Slot) : (s.modSlot n k f).replies = s.replies := rfl
@[simp] theorem State.modSlot_notices (s : State) (n k : Nat) (f : Slot → Slot) : (s.modSlot n k f).notices = s.notices := rfl
@[simp] theorem State.modSlot_migrants (s : State) (n k : Nat) (f : Slot → Slot) : (s.modSlot n k f).migrants = s.migrants := rfl
@[simp] theorem State.modSlot_launches (s : State) (n k : Nat) (f : Slot → Slot) : (s.modSlot n k f).launches = s.launches := rfl
@[simp] theorem State.modSlot_barriers (s : State) (n k : Nat) (f : Slot → Slot) : (s.modSlot n k f).barriers = s.barriers := rfl
@[simp] theorem State.modSlot_ords (s : State) (n k : Nat) (f : Slot → Slot) : (s.modSlot n k f).ords = s.ords := rfl
@[simp] theorem State.modSlot_chains (s : State) (n k : Nat) (f : Slot → Slot) : (s.modSlot n k f).chains = s.chains := rfl
@[simp] theorem State.modSlot_jobs (s : State) (n k : Nat) (f : Slot → Slot) : (s.modSlot n k f).jobs = s.jobs := rfl
@[simp] theorem State.modSlot_jobSeq (s : State) (n k : Nat) (f : Slot → Slot) : (s.modSlot n k f).jobSeq = s.jobSeq := rfl
@[simp] theorem State.modSlot_jobPos (s : State) (n k : Nat) (f : Slot → Slot) : (s.modSlot n k f).jobPos = s.jobPos := rfl
@[simp] theorem State.modSlot_decs (s : State) (n k : Nat) (f : Slot → Slot) : (s.modSlot n k f).decs = s.decs := rfl
@[simp] theorem State.modSlot_clMsgs (s : State) (n k : Nat) (f : Slot → Slot) : (s.modSlot n k f).clMsgs = s.clMsgs := rfl
@[simp] theorem State.modSlot_regions (s : State) (n k : Nat) (f : Slot → Slot) : (s.modSlot n k f).regions = s.regions := rfl
@[simp] theorem State.modSlot_arrivals (s : State) (n k : Nat) (f : Slot → Slot) : (s.modSlot n k f).arrivals = s.arrivals := rfl
@[simp] theorem State.modSlot_homeUs (s : State) (n k : Nat) (f : Slot → Slot) : (s.modSlot n k f).homeUs = s.homeUs := rfl
@[simp] theorem State.modSlot_ports (s : State) (n k : Nat) (f : Slot → Slot) : (s.modSlot n k f).ports = s.ports := rfl
@[simp] theorem State.modSlot_calSlot (s : State) (n k : Nat) (f : Slot → Slot) : (s.modSlot n k f).calSlot = s.calSlot := rfl
@[simp] theorem State.modSlot_calT (s : State) (n k : Nat) (f : Slot → Slot) : (s.modSlot n k f).calT = s.calT := rfl
@[simp] theorem State.modSlot_calBase (s : State) (n k : Nat) (f : Slot → Slot) : (s.modSlot n k f).calBase = s.calBase := rfl
@[simp] theorem State.modSlot_turns (s : State) (n k : Nat) (f : Slot → Slot) : (s.modSlot n k f).turns = s.turns := rfl
@[simp] theorem State.modSlot_pairs (s : State) (n k : Nat) (f : Slot → Slot) : (s.modSlot n k f).pairs = s.pairs := rfl
@[simp] theorem State.modSlot_egress (s : State) (n k : Nat) (f : Slot → Slot) : (s.modSlot n k f).egress = s.egress := rfl
@[simp] theorem State.modSlot_sent (s : State) (n k : Nat) (f : Slot → Slot) : (s.modSlot n k f).sent = s.sent := rfl
@[simp] theorem State.modSlot_helloAge (s : State) (n k : Nat) (f : Slot → Slot) : (s.modSlot n k f).helloAge = s.helloAge := rfl
@[simp] theorem State.modSlot_helloSent (s : State) (n k : Nat) (f : Slot → Slot) : (s.modSlot n k f).helloSent = s.helloSent := rfl
@[simp] theorem State.modSlot_images (s : State) (n k : Nat) (f : Slot → Slot) : (s.modSlot n k f).images = s.images := rfl
@[simp] theorem State.modSlot_farClaims (s : State) (n k : Nat) (f : Slot → Slot) : (s.modSlot n k f).farClaims = s.farClaims := rfl
@[simp] theorem State.modSlot_hostOut (s : State) (n k : Nat) (f : Slot → Slot) : (s.modSlot n k f).hostOut = s.hostOut := rfl
@[simp] theorem State.modSlot_hostGot (s : State) (n k : Nat) (f : Slot → Slot) : (s.modSlot n k f).hostGot = s.hostGot := rfl
@[simp] theorem State.modSlot_hostWait (s : State) (n k : Nat) (f : Slot → Slot) : (s.modSlot n k f).hostWait = s.hostWait := rfl
@[simp] theorem State.modSlot_readOut (s : State) (n k : Nat) (f : Slot → Slot) : (s.modSlot n k f).readOut = s.readOut := rfl
@[simp] theorem State.modSlot_nextId (s : State) (n k : Nat) (f : Slot → Slot) : (s.modSlot n k f).nextId = s.nextId := rfl
@[simp] theorem State.modSlot_sched (s : State) (n k : Nat) (f : Slot → Slot) : (s.modSlot n k f).sched = s.sched := rfl
@[simp] theorem State.modSlot_turn (s : State) (n k : Nat) (f : Slot → Slot) : (s.modSlot n k f).turn = s.turn := rfl
@[simp] theorem State.modSlot_choices (s : State) (n k : Nat) (f : Slot → Slot) : (s.modSlot n k f).choices = s.choices := rfl
@[simp] theorem State.modSlot_core (s : State) (n k : Nat) (f : Slot → Slot) : (s.modSlot n k f).core = s.core := rfl
@[simp] theorem State.modSlot_slot (s : State) (n k : Nat) (f : Slot → Slot) : (s.modSlot n k f).slot = s.slot := rfl
@[simp] theorem State.modSlot_job (s : State) (n k : Nat) (f : Slot → Slot) : (s.modSlot n k f).job = s.job := rfl
@[simp] theorem State.modSlot_late (s : State) (n k : Nat) (f : Slot → Slot) : (s.modSlot n k f).late = s.late := rfl
@[simp] theorem State.modSlot_grp (s : State) (n k : Nat) (f : Slot → Slot) : (s.modSlot n k f).grp = s.grp := rfl

/-! ### State.modTh -/

@[simp] theorem State.modTh_hedges (s : State) (n k : Nat) (f : Thread → Thread) : (s.modTh n k f).hedges = s.hedges := rfl
@[simp] theorem State.modTh_thickets (s : State) (n k : Nat) (f : Thread → Thread) : (s.modTh n k f).thickets = s.thickets := rfl
@[simp] theorem State.modTh_dies (s : State) (n k : Nat) (f : Thread → Thread) : (s.modTh n k f).dies = s.dies := rfl
@[simp] theorem State.modTh_pkg (s : State) (n k : Nat) (f : Thread → Thread) : (s.modTh n k f).pkg = s.pkg := rfl
@[simp] theorem State.modTh_hbm (s : State) (n k : Nat) (f : Thread → Thread) : (s.modTh n k f).hbm = s.hbm := rfl
@[simp] theorem State.modTh_hostMem (s : State) (n k : Nat) (f : Thread → Thread) : (s.modTh n k f).hostMem = s.hostMem := rfl
@[simp] theorem State.modTh_llc (s : State) (n k : Nat) (f : Thread → Thread) : (s.modTh n k f).llc = s.llc := rfl
@[simp] theorem State.modTh_bad (s : State) (n k : Nat) (f : Thread → Thread) : (s.modTh n k f).bad = s.bad := rfl
@[simp] theorem State.modTh_net (s : State) (n k : Nat) (f : Thread → Thread) : (s.modTh n k f).net = s.net := rfl
@[simp] theorem State.modTh_replies (s : State) (n k : Nat) (f : Thread → Thread) : (s.modTh n k f).replies = s.replies := rfl
@[simp] theorem State.modTh_notices (s : State) (n k : Nat) (f : Thread → Thread) : (s.modTh n k f).notices = s.notices := rfl
@[simp] theorem State.modTh_migrants (s : State) (n k : Nat) (f : Thread → Thread) : (s.modTh n k f).migrants = s.migrants := rfl
@[simp] theorem State.modTh_launches (s : State) (n k : Nat) (f : Thread → Thread) : (s.modTh n k f).launches = s.launches := rfl
@[simp] theorem State.modTh_barriers (s : State) (n k : Nat) (f : Thread → Thread) : (s.modTh n k f).barriers = s.barriers := rfl
@[simp] theorem State.modTh_ords (s : State) (n k : Nat) (f : Thread → Thread) : (s.modTh n k f).ords = s.ords := rfl
@[simp] theorem State.modTh_chains (s : State) (n k : Nat) (f : Thread → Thread) : (s.modTh n k f).chains = s.chains := rfl
@[simp] theorem State.modTh_jobs (s : State) (n k : Nat) (f : Thread → Thread) : (s.modTh n k f).jobs = s.jobs := rfl
@[simp] theorem State.modTh_jobSeq (s : State) (n k : Nat) (f : Thread → Thread) : (s.modTh n k f).jobSeq = s.jobSeq := rfl
@[simp] theorem State.modTh_jobPos (s : State) (n k : Nat) (f : Thread → Thread) : (s.modTh n k f).jobPos = s.jobPos := rfl
@[simp] theorem State.modTh_decs (s : State) (n k : Nat) (f : Thread → Thread) : (s.modTh n k f).decs = s.decs := rfl
@[simp] theorem State.modTh_clMsgs (s : State) (n k : Nat) (f : Thread → Thread) : (s.modTh n k f).clMsgs = s.clMsgs := rfl
@[simp] theorem State.modTh_regions (s : State) (n k : Nat) (f : Thread → Thread) : (s.modTh n k f).regions = s.regions := rfl
@[simp] theorem State.modTh_arrivals (s : State) (n k : Nat) (f : Thread → Thread) : (s.modTh n k f).arrivals = s.arrivals := rfl
@[simp] theorem State.modTh_homeUs (s : State) (n k : Nat) (f : Thread → Thread) : (s.modTh n k f).homeUs = s.homeUs := rfl
@[simp] theorem State.modTh_ports (s : State) (n k : Nat) (f : Thread → Thread) : (s.modTh n k f).ports = s.ports := rfl
@[simp] theorem State.modTh_calSlot (s : State) (n k : Nat) (f : Thread → Thread) : (s.modTh n k f).calSlot = s.calSlot := rfl
@[simp] theorem State.modTh_calT (s : State) (n k : Nat) (f : Thread → Thread) : (s.modTh n k f).calT = s.calT := rfl
@[simp] theorem State.modTh_calBase (s : State) (n k : Nat) (f : Thread → Thread) : (s.modTh n k f).calBase = s.calBase := rfl
@[simp] theorem State.modTh_turns (s : State) (n k : Nat) (f : Thread → Thread) : (s.modTh n k f).turns = s.turns := rfl
@[simp] theorem State.modTh_pairs (s : State) (n k : Nat) (f : Thread → Thread) : (s.modTh n k f).pairs = s.pairs := rfl
@[simp] theorem State.modTh_egress (s : State) (n k : Nat) (f : Thread → Thread) : (s.modTh n k f).egress = s.egress := rfl
@[simp] theorem State.modTh_sent (s : State) (n k : Nat) (f : Thread → Thread) : (s.modTh n k f).sent = s.sent := rfl
@[simp] theorem State.modTh_helloAge (s : State) (n k : Nat) (f : Thread → Thread) : (s.modTh n k f).helloAge = s.helloAge := rfl
@[simp] theorem State.modTh_helloSent (s : State) (n k : Nat) (f : Thread → Thread) : (s.modTh n k f).helloSent = s.helloSent := rfl
@[simp] theorem State.modTh_images (s : State) (n k : Nat) (f : Thread → Thread) : (s.modTh n k f).images = s.images := rfl
@[simp] theorem State.modTh_farClaims (s : State) (n k : Nat) (f : Thread → Thread) : (s.modTh n k f).farClaims = s.farClaims := rfl
@[simp] theorem State.modTh_hostOut (s : State) (n k : Nat) (f : Thread → Thread) : (s.modTh n k f).hostOut = s.hostOut := rfl
@[simp] theorem State.modTh_hostGot (s : State) (n k : Nat) (f : Thread → Thread) : (s.modTh n k f).hostGot = s.hostGot := rfl
@[simp] theorem State.modTh_hostWait (s : State) (n k : Nat) (f : Thread → Thread) : (s.modTh n k f).hostWait = s.hostWait := rfl
@[simp] theorem State.modTh_readOut (s : State) (n k : Nat) (f : Thread → Thread) : (s.modTh n k f).readOut = s.readOut := rfl
@[simp] theorem State.modTh_nextId (s : State) (n k : Nat) (f : Thread → Thread) : (s.modTh n k f).nextId = s.nextId := rfl
@[simp] theorem State.modTh_sched (s : State) (n k : Nat) (f : Thread → Thread) : (s.modTh n k f).sched = s.sched := rfl
@[simp] theorem State.modTh_turn (s : State) (n k : Nat) (f : Thread → Thread) : (s.modTh n k f).turn = s.turn := rfl
@[simp] theorem State.modTh_choices (s : State) (n k : Nat) (f : Thread → Thread) : (s.modTh n k f).choices = s.choices := rfl
@[simp] theorem State.modTh_core (s : State) (n k : Nat) (f : Thread → Thread) : (s.modTh n k f).core = s.core := rfl
@[simp] theorem State.modTh_slot (s : State) (n k : Nat) (f : Thread → Thread) : (s.modTh n k f).slot = s.slot := rfl
@[simp] theorem State.modTh_job (s : State) (n k : Nat) (f : Thread → Thread) : (s.modTh n k f).job = s.job := rfl
@[simp] theorem State.modTh_late (s : State) (n k : Nat) (f : Thread → Thread) : (s.modTh n k f).late = s.late := rfl
@[simp] theorem State.modTh_grp (s : State) (n k : Nat) (f : Thread → Thread) : (s.modTh n k f).grp = s.grp := rfl

/-! ### State.modHedge -/

@[simp] theorem State.modHedge_cores (s : State) (h : Nat) (f : Hedge → Hedge) : (s.modHedge h f).cores = s.cores := rfl
@[simp] theorem State.modHedge_thickets (s : State) (h : Nat) (f : Hedge → Hedge) : (s.modHedge h f).thickets = s.thickets := rfl
@[simp] theorem State.modHedge_dies (s : State) (h : Nat) (f : Hedge → Hedge) : (s.modHedge h f).dies = s.dies := rfl
@[simp] theorem State.modHedge_pkg (s : State) (h : Nat) (f : Hedge → Hedge) : (s.modHedge h f).pkg = s.pkg := rfl
@[simp] theorem State.modHedge_hbm (s : State) (h : Nat) (f : Hedge → Hedge) : (s.modHedge h f).hbm = s.hbm := rfl
@[simp] theorem State.modHedge_hostMem (s : State) (h : Nat) (f : Hedge → Hedge) : (s.modHedge h f).hostMem = s.hostMem := rfl
@[simp] theorem State.modHedge_llc (s : State) (h : Nat) (f : Hedge → Hedge) : (s.modHedge h f).llc = s.llc := rfl
@[simp] theorem State.modHedge_bad (s : State) (h : Nat) (f : Hedge → Hedge) : (s.modHedge h f).bad = s.bad := rfl
@[simp] theorem State.modHedge_net (s : State) (h : Nat) (f : Hedge → Hedge) : (s.modHedge h f).net = s.net := rfl
@[simp] theorem State.modHedge_replies (s : State) (h : Nat) (f : Hedge → Hedge) : (s.modHedge h f).replies = s.replies := rfl
@[simp] theorem State.modHedge_notices (s : State) (h : Nat) (f : Hedge → Hedge) : (s.modHedge h f).notices = s.notices := rfl
@[simp] theorem State.modHedge_migrants (s : State) (h : Nat) (f : Hedge → Hedge) : (s.modHedge h f).migrants = s.migrants := rfl
@[simp] theorem State.modHedge_launches (s : State) (h : Nat) (f : Hedge → Hedge) : (s.modHedge h f).launches = s.launches := rfl
@[simp] theorem State.modHedge_barriers (s : State) (h : Nat) (f : Hedge → Hedge) : (s.modHedge h f).barriers = s.barriers := rfl
@[simp] theorem State.modHedge_ords (s : State) (h : Nat) (f : Hedge → Hedge) : (s.modHedge h f).ords = s.ords := rfl
@[simp] theorem State.modHedge_chains (s : State) (h : Nat) (f : Hedge → Hedge) : (s.modHedge h f).chains = s.chains := rfl
@[simp] theorem State.modHedge_jobs (s : State) (h : Nat) (f : Hedge → Hedge) : (s.modHedge h f).jobs = s.jobs := rfl
@[simp] theorem State.modHedge_jobSeq (s : State) (h : Nat) (f : Hedge → Hedge) : (s.modHedge h f).jobSeq = s.jobSeq := rfl
@[simp] theorem State.modHedge_jobPos (s : State) (h : Nat) (f : Hedge → Hedge) : (s.modHedge h f).jobPos = s.jobPos := rfl
@[simp] theorem State.modHedge_decs (s : State) (h : Nat) (f : Hedge → Hedge) : (s.modHedge h f).decs = s.decs := rfl
@[simp] theorem State.modHedge_clMsgs (s : State) (h : Nat) (f : Hedge → Hedge) : (s.modHedge h f).clMsgs = s.clMsgs := rfl
@[simp] theorem State.modHedge_regions (s : State) (h : Nat) (f : Hedge → Hedge) : (s.modHedge h f).regions = s.regions := rfl
@[simp] theorem State.modHedge_arrivals (s : State) (h : Nat) (f : Hedge → Hedge) : (s.modHedge h f).arrivals = s.arrivals := rfl
@[simp] theorem State.modHedge_homeUs (s : State) (h : Nat) (f : Hedge → Hedge) : (s.modHedge h f).homeUs = s.homeUs := rfl
@[simp] theorem State.modHedge_ports (s : State) (h : Nat) (f : Hedge → Hedge) : (s.modHedge h f).ports = s.ports := rfl
@[simp] theorem State.modHedge_calSlot (s : State) (h : Nat) (f : Hedge → Hedge) : (s.modHedge h f).calSlot = s.calSlot := rfl
@[simp] theorem State.modHedge_calT (s : State) (h : Nat) (f : Hedge → Hedge) : (s.modHedge h f).calT = s.calT := rfl
@[simp] theorem State.modHedge_calBase (s : State) (h : Nat) (f : Hedge → Hedge) : (s.modHedge h f).calBase = s.calBase := rfl
@[simp] theorem State.modHedge_turns (s : State) (h : Nat) (f : Hedge → Hedge) : (s.modHedge h f).turns = s.turns := rfl
@[simp] theorem State.modHedge_pairs (s : State) (h : Nat) (f : Hedge → Hedge) : (s.modHedge h f).pairs = s.pairs := rfl
@[simp] theorem State.modHedge_egress (s : State) (h : Nat) (f : Hedge → Hedge) : (s.modHedge h f).egress = s.egress := rfl
@[simp] theorem State.modHedge_sent (s : State) (h : Nat) (f : Hedge → Hedge) : (s.modHedge h f).sent = s.sent := rfl
@[simp] theorem State.modHedge_helloAge (s : State) (h : Nat) (f : Hedge → Hedge) : (s.modHedge h f).helloAge = s.helloAge := rfl
@[simp] theorem State.modHedge_helloSent (s : State) (h : Nat) (f : Hedge → Hedge) : (s.modHedge h f).helloSent = s.helloSent := rfl
@[simp] theorem State.modHedge_images (s : State) (h : Nat) (f : Hedge → Hedge) : (s.modHedge h f).images = s.images := rfl
@[simp] theorem State.modHedge_farClaims (s : State) (h : Nat) (f : Hedge → Hedge) : (s.modHedge h f).farClaims = s.farClaims := rfl
@[simp] theorem State.modHedge_hostOut (s : State) (h : Nat) (f : Hedge → Hedge) : (s.modHedge h f).hostOut = s.hostOut := rfl
@[simp] theorem State.modHedge_hostGot (s : State) (h : Nat) (f : Hedge → Hedge) : (s.modHedge h f).hostGot = s.hostGot := rfl
@[simp] theorem State.modHedge_hostWait (s : State) (h : Nat) (f : Hedge → Hedge) : (s.modHedge h f).hostWait = s.hostWait := rfl
@[simp] theorem State.modHedge_readOut (s : State) (h : Nat) (f : Hedge → Hedge) : (s.modHedge h f).readOut = s.readOut := rfl
@[simp] theorem State.modHedge_nextId (s : State) (h : Nat) (f : Hedge → Hedge) : (s.modHedge h f).nextId = s.nextId := rfl
@[simp] theorem State.modHedge_sched (s : State) (h : Nat) (f : Hedge → Hedge) : (s.modHedge h f).sched = s.sched := rfl
@[simp] theorem State.modHedge_turn (s : State) (h : Nat) (f : Hedge → Hedge) : (s.modHedge h f).turn = s.turn := rfl
@[simp] theorem State.modHedge_choices (s : State) (h : Nat) (f : Hedge → Hedge) : (s.modHedge h f).choices = s.choices := rfl
@[simp] theorem State.modHedge_core (s : State) (h : Nat) (f : Hedge → Hedge) : (s.modHedge h f).core = s.core := rfl
@[simp] theorem State.modHedge_slot (s : State) (h : Nat) (f : Hedge → Hedge) : (s.modHedge h f).slot = s.slot := rfl
@[simp] theorem State.modHedge_job (s : State) (h : Nat) (f : Hedge → Hedge) : (s.modHedge h f).job = s.job := rfl
@[simp] theorem State.modHedge_late (s : State) (h : Nat) (f : Hedge → Hedge) : (s.modHedge h f).late = s.late := rfl
@[simp] theorem State.modHedge_grp (s : State) (h : Nat) (f : Hedge → Hedge) : (s.modHedge h f).grp = s.grp := rfl

/-! ### State.modThicket -/

@[simp] theorem State.modThicket_cores (s : State) (k : Nat) (f : Thicket → Thicket) : (s.modThicket k f).cores = s.cores := rfl
@[simp] theorem State.modThicket_hedges (s : State) (k : Nat) (f : Thicket → Thicket) : (s.modThicket k f).hedges = s.hedges := rfl
@[simp] theorem State.modThicket_dies (s : State) (k : Nat) (f : Thicket → Thicket) : (s.modThicket k f).dies = s.dies := rfl
@[simp] theorem State.modThicket_pkg (s : State) (k : Nat) (f : Thicket → Thicket) : (s.modThicket k f).pkg = s.pkg := rfl
@[simp] theorem State.modThicket_hbm (s : State) (k : Nat) (f : Thicket → Thicket) : (s.modThicket k f).hbm = s.hbm := rfl
@[simp] theorem State.modThicket_hostMem (s : State) (k : Nat) (f : Thicket → Thicket) : (s.modThicket k f).hostMem = s.hostMem := rfl
@[simp] theorem State.modThicket_llc (s : State) (k : Nat) (f : Thicket → Thicket) : (s.modThicket k f).llc = s.llc := rfl
@[simp] theorem State.modThicket_bad (s : State) (k : Nat) (f : Thicket → Thicket) : (s.modThicket k f).bad = s.bad := rfl
@[simp] theorem State.modThicket_net (s : State) (k : Nat) (f : Thicket → Thicket) : (s.modThicket k f).net = s.net := rfl
@[simp] theorem State.modThicket_replies (s : State) (k : Nat) (f : Thicket → Thicket) : (s.modThicket k f).replies = s.replies := rfl
@[simp] theorem State.modThicket_notices (s : State) (k : Nat) (f : Thicket → Thicket) : (s.modThicket k f).notices = s.notices := rfl
@[simp] theorem State.modThicket_migrants (s : State) (k : Nat) (f : Thicket → Thicket) : (s.modThicket k f).migrants = s.migrants := rfl
@[simp] theorem State.modThicket_launches (s : State) (k : Nat) (f : Thicket → Thicket) : (s.modThicket k f).launches = s.launches := rfl
@[simp] theorem State.modThicket_barriers (s : State) (k : Nat) (f : Thicket → Thicket) : (s.modThicket k f).barriers = s.barriers := rfl
@[simp] theorem State.modThicket_ords (s : State) (k : Nat) (f : Thicket → Thicket) : (s.modThicket k f).ords = s.ords := rfl
@[simp] theorem State.modThicket_chains (s : State) (k : Nat) (f : Thicket → Thicket) : (s.modThicket k f).chains = s.chains := rfl
@[simp] theorem State.modThicket_jobs (s : State) (k : Nat) (f : Thicket → Thicket) : (s.modThicket k f).jobs = s.jobs := rfl
@[simp] theorem State.modThicket_jobSeq (s : State) (k : Nat) (f : Thicket → Thicket) : (s.modThicket k f).jobSeq = s.jobSeq := rfl
@[simp] theorem State.modThicket_jobPos (s : State) (k : Nat) (f : Thicket → Thicket) : (s.modThicket k f).jobPos = s.jobPos := rfl
@[simp] theorem State.modThicket_decs (s : State) (k : Nat) (f : Thicket → Thicket) : (s.modThicket k f).decs = s.decs := rfl
@[simp] theorem State.modThicket_clMsgs (s : State) (k : Nat) (f : Thicket → Thicket) : (s.modThicket k f).clMsgs = s.clMsgs := rfl
@[simp] theorem State.modThicket_regions (s : State) (k : Nat) (f : Thicket → Thicket) : (s.modThicket k f).regions = s.regions := rfl
@[simp] theorem State.modThicket_arrivals (s : State) (k : Nat) (f : Thicket → Thicket) : (s.modThicket k f).arrivals = s.arrivals := rfl
@[simp] theorem State.modThicket_homeUs (s : State) (k : Nat) (f : Thicket → Thicket) : (s.modThicket k f).homeUs = s.homeUs := rfl
@[simp] theorem State.modThicket_ports (s : State) (k : Nat) (f : Thicket → Thicket) : (s.modThicket k f).ports = s.ports := rfl
@[simp] theorem State.modThicket_calSlot (s : State) (k : Nat) (f : Thicket → Thicket) : (s.modThicket k f).calSlot = s.calSlot := rfl
@[simp] theorem State.modThicket_calT (s : State) (k : Nat) (f : Thicket → Thicket) : (s.modThicket k f).calT = s.calT := rfl
@[simp] theorem State.modThicket_calBase (s : State) (k : Nat) (f : Thicket → Thicket) : (s.modThicket k f).calBase = s.calBase := rfl
@[simp] theorem State.modThicket_turns (s : State) (k : Nat) (f : Thicket → Thicket) : (s.modThicket k f).turns = s.turns := rfl
@[simp] theorem State.modThicket_pairs (s : State) (k : Nat) (f : Thicket → Thicket) : (s.modThicket k f).pairs = s.pairs := rfl
@[simp] theorem State.modThicket_egress (s : State) (k : Nat) (f : Thicket → Thicket) : (s.modThicket k f).egress = s.egress := rfl
@[simp] theorem State.modThicket_sent (s : State) (k : Nat) (f : Thicket → Thicket) : (s.modThicket k f).sent = s.sent := rfl
@[simp] theorem State.modThicket_helloAge (s : State) (k : Nat) (f : Thicket → Thicket) : (s.modThicket k f).helloAge = s.helloAge := rfl
@[simp] theorem State.modThicket_helloSent (s : State) (k : Nat) (f : Thicket → Thicket) : (s.modThicket k f).helloSent = s.helloSent := rfl
@[simp] theorem State.modThicket_images (s : State) (k : Nat) (f : Thicket → Thicket) : (s.modThicket k f).images = s.images := rfl
@[simp] theorem State.modThicket_farClaims (s : State) (k : Nat) (f : Thicket → Thicket) : (s.modThicket k f).farClaims = s.farClaims := rfl
@[simp] theorem State.modThicket_hostOut (s : State) (k : Nat) (f : Thicket → Thicket) : (s.modThicket k f).hostOut = s.hostOut := rfl
@[simp] theorem State.modThicket_hostGot (s : State) (k : Nat) (f : Thicket → Thicket) : (s.modThicket k f).hostGot = s.hostGot := rfl
@[simp] theorem State.modThicket_hostWait (s : State) (k : Nat) (f : Thicket → Thicket) : (s.modThicket k f).hostWait = s.hostWait := rfl
@[simp] theorem State.modThicket_readOut (s : State) (k : Nat) (f : Thicket → Thicket) : (s.modThicket k f).readOut = s.readOut := rfl
@[simp] theorem State.modThicket_nextId (s : State) (k : Nat) (f : Thicket → Thicket) : (s.modThicket k f).nextId = s.nextId := rfl
@[simp] theorem State.modThicket_sched (s : State) (k : Nat) (f : Thicket → Thicket) : (s.modThicket k f).sched = s.sched := rfl
@[simp] theorem State.modThicket_turn (s : State) (k : Nat) (f : Thicket → Thicket) : (s.modThicket k f).turn = s.turn := rfl
@[simp] theorem State.modThicket_choices (s : State) (k : Nat) (f : Thicket → Thicket) : (s.modThicket k f).choices = s.choices := rfl
@[simp] theorem State.modThicket_core (s : State) (k : Nat) (f : Thicket → Thicket) : (s.modThicket k f).core = s.core := rfl
@[simp] theorem State.modThicket_slot (s : State) (k : Nat) (f : Thicket → Thicket) : (s.modThicket k f).slot = s.slot := rfl
@[simp] theorem State.modThicket_job (s : State) (k : Nat) (f : Thicket → Thicket) : (s.modThicket k f).job = s.job := rfl
@[simp] theorem State.modThicket_late (s : State) (k : Nat) (f : Thicket → Thicket) : (s.modThicket k f).late = s.late := rfl
@[simp] theorem State.modThicket_grp (s : State) (k : Nat) (f : Thicket → Thicket) : (s.modThicket k f).grp = s.grp := rfl

/-! ### State.modDie -/

@[simp] theorem State.modDie_cores (s : State) (d : Nat) (f : Die → Die) : (s.modDie d f).cores = s.cores := rfl
@[simp] theorem State.modDie_hedges (s : State) (d : Nat) (f : Die → Die) : (s.modDie d f).hedges = s.hedges := rfl
@[simp] theorem State.modDie_thickets (s : State) (d : Nat) (f : Die → Die) : (s.modDie d f).thickets = s.thickets := rfl
@[simp] theorem State.modDie_pkg (s : State) (d : Nat) (f : Die → Die) : (s.modDie d f).pkg = s.pkg := rfl
@[simp] theorem State.modDie_hbm (s : State) (d : Nat) (f : Die → Die) : (s.modDie d f).hbm = s.hbm := rfl
@[simp] theorem State.modDie_hostMem (s : State) (d : Nat) (f : Die → Die) : (s.modDie d f).hostMem = s.hostMem := rfl
@[simp] theorem State.modDie_llc (s : State) (d : Nat) (f : Die → Die) : (s.modDie d f).llc = s.llc := rfl
@[simp] theorem State.modDie_bad (s : State) (d : Nat) (f : Die → Die) : (s.modDie d f).bad = s.bad := rfl
@[simp] theorem State.modDie_net (s : State) (d : Nat) (f : Die → Die) : (s.modDie d f).net = s.net := rfl
@[simp] theorem State.modDie_replies (s : State) (d : Nat) (f : Die → Die) : (s.modDie d f).replies = s.replies := rfl
@[simp] theorem State.modDie_notices (s : State) (d : Nat) (f : Die → Die) : (s.modDie d f).notices = s.notices := rfl
@[simp] theorem State.modDie_migrants (s : State) (d : Nat) (f : Die → Die) : (s.modDie d f).migrants = s.migrants := rfl
@[simp] theorem State.modDie_launches (s : State) (d : Nat) (f : Die → Die) : (s.modDie d f).launches = s.launches := rfl
@[simp] theorem State.modDie_barriers (s : State) (d : Nat) (f : Die → Die) : (s.modDie d f).barriers = s.barriers := rfl
@[simp] theorem State.modDie_ords (s : State) (d : Nat) (f : Die → Die) : (s.modDie d f).ords = s.ords := rfl
@[simp] theorem State.modDie_chains (s : State) (d : Nat) (f : Die → Die) : (s.modDie d f).chains = s.chains := rfl
@[simp] theorem State.modDie_jobs (s : State) (d : Nat) (f : Die → Die) : (s.modDie d f).jobs = s.jobs := rfl
@[simp] theorem State.modDie_jobSeq (s : State) (d : Nat) (f : Die → Die) : (s.modDie d f).jobSeq = s.jobSeq := rfl
@[simp] theorem State.modDie_jobPos (s : State) (d : Nat) (f : Die → Die) : (s.modDie d f).jobPos = s.jobPos := rfl
@[simp] theorem State.modDie_decs (s : State) (d : Nat) (f : Die → Die) : (s.modDie d f).decs = s.decs := rfl
@[simp] theorem State.modDie_clMsgs (s : State) (d : Nat) (f : Die → Die) : (s.modDie d f).clMsgs = s.clMsgs := rfl
@[simp] theorem State.modDie_regions (s : State) (d : Nat) (f : Die → Die) : (s.modDie d f).regions = s.regions := rfl
@[simp] theorem State.modDie_arrivals (s : State) (d : Nat) (f : Die → Die) : (s.modDie d f).arrivals = s.arrivals := rfl
@[simp] theorem State.modDie_homeUs (s : State) (d : Nat) (f : Die → Die) : (s.modDie d f).homeUs = s.homeUs := rfl
@[simp] theorem State.modDie_ports (s : State) (d : Nat) (f : Die → Die) : (s.modDie d f).ports = s.ports := rfl
@[simp] theorem State.modDie_calSlot (s : State) (d : Nat) (f : Die → Die) : (s.modDie d f).calSlot = s.calSlot := rfl
@[simp] theorem State.modDie_calT (s : State) (d : Nat) (f : Die → Die) : (s.modDie d f).calT = s.calT := rfl
@[simp] theorem State.modDie_calBase (s : State) (d : Nat) (f : Die → Die) : (s.modDie d f).calBase = s.calBase := rfl
@[simp] theorem State.modDie_turns (s : State) (d : Nat) (f : Die → Die) : (s.modDie d f).turns = s.turns := rfl
@[simp] theorem State.modDie_pairs (s : State) (d : Nat) (f : Die → Die) : (s.modDie d f).pairs = s.pairs := rfl
@[simp] theorem State.modDie_egress (s : State) (d : Nat) (f : Die → Die) : (s.modDie d f).egress = s.egress := rfl
@[simp] theorem State.modDie_sent (s : State) (d : Nat) (f : Die → Die) : (s.modDie d f).sent = s.sent := rfl
@[simp] theorem State.modDie_helloAge (s : State) (d : Nat) (f : Die → Die) : (s.modDie d f).helloAge = s.helloAge := rfl
@[simp] theorem State.modDie_helloSent (s : State) (d : Nat) (f : Die → Die) : (s.modDie d f).helloSent = s.helloSent := rfl
@[simp] theorem State.modDie_images (s : State) (d : Nat) (f : Die → Die) : (s.modDie d f).images = s.images := rfl
@[simp] theorem State.modDie_farClaims (s : State) (d : Nat) (f : Die → Die) : (s.modDie d f).farClaims = s.farClaims := rfl
@[simp] theorem State.modDie_hostOut (s : State) (d : Nat) (f : Die → Die) : (s.modDie d f).hostOut = s.hostOut := rfl
@[simp] theorem State.modDie_hostGot (s : State) (d : Nat) (f : Die → Die) : (s.modDie d f).hostGot = s.hostGot := rfl
@[simp] theorem State.modDie_hostWait (s : State) (d : Nat) (f : Die → Die) : (s.modDie d f).hostWait = s.hostWait := rfl
@[simp] theorem State.modDie_readOut (s : State) (d : Nat) (f : Die → Die) : (s.modDie d f).readOut = s.readOut := rfl
@[simp] theorem State.modDie_nextId (s : State) (d : Nat) (f : Die → Die) : (s.modDie d f).nextId = s.nextId := rfl
@[simp] theorem State.modDie_sched (s : State) (d : Nat) (f : Die → Die) : (s.modDie d f).sched = s.sched := rfl
@[simp] theorem State.modDie_turn (s : State) (d : Nat) (f : Die → Die) : (s.modDie d f).turn = s.turn := rfl
@[simp] theorem State.modDie_choices (s : State) (d : Nat) (f : Die → Die) : (s.modDie d f).choices = s.choices := rfl
@[simp] theorem State.modDie_core (s : State) (d : Nat) (f : Die → Die) : (s.modDie d f).core = s.core := rfl
@[simp] theorem State.modDie_slot (s : State) (d : Nat) (f : Die → Die) : (s.modDie d f).slot = s.slot := rfl
@[simp] theorem State.modDie_job (s : State) (d : Nat) (f : Die → Die) : (s.modDie d f).job = s.job := rfl
@[simp] theorem State.modDie_late (s : State) (d : Nat) (f : Die → Die) : (s.modDie d f).late = s.late := rfl
@[simp] theorem State.modDie_grp (s : State) (d : Nat) (f : Die → Die) : (s.modDie d f).grp = s.grp := rfl

/-! ### State.modPkg -/

@[simp] theorem State.modPkg_cores (s : State) (f : Pkg → Pkg) : (s.modPkg f).cores = s.cores := rfl
@[simp] theorem State.modPkg_hedges (s : State) (f : Pkg → Pkg) : (s.modPkg f).hedges = s.hedges := rfl
@[simp] theorem State.modPkg_thickets (s : State) (f : Pkg → Pkg) : (s.modPkg f).thickets = s.thickets := rfl
@[simp] theorem State.modPkg_dies (s : State) (f : Pkg → Pkg) : (s.modPkg f).dies = s.dies := rfl
@[simp] theorem State.modPkg_hbm (s : State) (f : Pkg → Pkg) : (s.modPkg f).hbm = s.hbm := rfl
@[simp] theorem State.modPkg_hostMem (s : State) (f : Pkg → Pkg) : (s.modPkg f).hostMem = s.hostMem := rfl
@[simp] theorem State.modPkg_llc (s : State) (f : Pkg → Pkg) : (s.modPkg f).llc = s.llc := rfl
@[simp] theorem State.modPkg_bad (s : State) (f : Pkg → Pkg) : (s.modPkg f).bad = s.bad := rfl
@[simp] theorem State.modPkg_net (s : State) (f : Pkg → Pkg) : (s.modPkg f).net = s.net := rfl
@[simp] theorem State.modPkg_replies (s : State) (f : Pkg → Pkg) : (s.modPkg f).replies = s.replies := rfl
@[simp] theorem State.modPkg_notices (s : State) (f : Pkg → Pkg) : (s.modPkg f).notices = s.notices := rfl
@[simp] theorem State.modPkg_migrants (s : State) (f : Pkg → Pkg) : (s.modPkg f).migrants = s.migrants := rfl
@[simp] theorem State.modPkg_launches (s : State) (f : Pkg → Pkg) : (s.modPkg f).launches = s.launches := rfl
@[simp] theorem State.modPkg_barriers (s : State) (f : Pkg → Pkg) : (s.modPkg f).barriers = s.barriers := rfl
@[simp] theorem State.modPkg_ords (s : State) (f : Pkg → Pkg) : (s.modPkg f).ords = s.ords := rfl
@[simp] theorem State.modPkg_chains (s : State) (f : Pkg → Pkg) : (s.modPkg f).chains = s.chains := rfl
@[simp] theorem State.modPkg_jobs (s : State) (f : Pkg → Pkg) : (s.modPkg f).jobs = s.jobs := rfl
@[simp] theorem State.modPkg_jobSeq (s : State) (f : Pkg → Pkg) : (s.modPkg f).jobSeq = s.jobSeq := rfl
@[simp] theorem State.modPkg_jobPos (s : State) (f : Pkg → Pkg) : (s.modPkg f).jobPos = s.jobPos := rfl
@[simp] theorem State.modPkg_decs (s : State) (f : Pkg → Pkg) : (s.modPkg f).decs = s.decs := rfl
@[simp] theorem State.modPkg_clMsgs (s : State) (f : Pkg → Pkg) : (s.modPkg f).clMsgs = s.clMsgs := rfl
@[simp] theorem State.modPkg_regions (s : State) (f : Pkg → Pkg) : (s.modPkg f).regions = s.regions := rfl
@[simp] theorem State.modPkg_arrivals (s : State) (f : Pkg → Pkg) : (s.modPkg f).arrivals = s.arrivals := rfl
@[simp] theorem State.modPkg_homeUs (s : State) (f : Pkg → Pkg) : (s.modPkg f).homeUs = s.homeUs := rfl
@[simp] theorem State.modPkg_ports (s : State) (f : Pkg → Pkg) : (s.modPkg f).ports = s.ports := rfl
@[simp] theorem State.modPkg_calSlot (s : State) (f : Pkg → Pkg) : (s.modPkg f).calSlot = s.calSlot := rfl
@[simp] theorem State.modPkg_calT (s : State) (f : Pkg → Pkg) : (s.modPkg f).calT = s.calT := rfl
@[simp] theorem State.modPkg_calBase (s : State) (f : Pkg → Pkg) : (s.modPkg f).calBase = s.calBase := rfl
@[simp] theorem State.modPkg_turns (s : State) (f : Pkg → Pkg) : (s.modPkg f).turns = s.turns := rfl
@[simp] theorem State.modPkg_pairs (s : State) (f : Pkg → Pkg) : (s.modPkg f).pairs = s.pairs := rfl
@[simp] theorem State.modPkg_egress (s : State) (f : Pkg → Pkg) : (s.modPkg f).egress = s.egress := rfl
@[simp] theorem State.modPkg_sent (s : State) (f : Pkg → Pkg) : (s.modPkg f).sent = s.sent := rfl
@[simp] theorem State.modPkg_helloAge (s : State) (f : Pkg → Pkg) : (s.modPkg f).helloAge = s.helloAge := rfl
@[simp] theorem State.modPkg_helloSent (s : State) (f : Pkg → Pkg) : (s.modPkg f).helloSent = s.helloSent := rfl
@[simp] theorem State.modPkg_images (s : State) (f : Pkg → Pkg) : (s.modPkg f).images = s.images := rfl
@[simp] theorem State.modPkg_farClaims (s : State) (f : Pkg → Pkg) : (s.modPkg f).farClaims = s.farClaims := rfl
@[simp] theorem State.modPkg_hostOut (s : State) (f : Pkg → Pkg) : (s.modPkg f).hostOut = s.hostOut := rfl
@[simp] theorem State.modPkg_hostGot (s : State) (f : Pkg → Pkg) : (s.modPkg f).hostGot = s.hostGot := rfl
@[simp] theorem State.modPkg_hostWait (s : State) (f : Pkg → Pkg) : (s.modPkg f).hostWait = s.hostWait := rfl
@[simp] theorem State.modPkg_readOut (s : State) (f : Pkg → Pkg) : (s.modPkg f).readOut = s.readOut := rfl
@[simp] theorem State.modPkg_nextId (s : State) (f : Pkg → Pkg) : (s.modPkg f).nextId = s.nextId := rfl
@[simp] theorem State.modPkg_sched (s : State) (f : Pkg → Pkg) : (s.modPkg f).sched = s.sched := rfl
@[simp] theorem State.modPkg_turn (s : State) (f : Pkg → Pkg) : (s.modPkg f).turn = s.turn := rfl
@[simp] theorem State.modPkg_choices (s : State) (f : Pkg → Pkg) : (s.modPkg f).choices = s.choices := rfl
@[simp] theorem State.modPkg_core (s : State) (f : Pkg → Pkg) : (s.modPkg f).core = s.core := rfl
@[simp] theorem State.modPkg_slot (s : State) (f : Pkg → Pkg) : (s.modPkg f).slot = s.slot := rfl
@[simp] theorem State.modPkg_job (s : State) (f : Pkg → Pkg) : (s.modPkg f).job = s.job := rfl
@[simp] theorem State.modPkg_late (s : State) (f : Pkg → Pkg) : (s.modPkg f).late = s.late := rfl
@[simp] theorem State.modPkg_grp (s : State) (f : Pkg → Pkg) : (s.modPkg f).grp = s.grp := rfl

/-! ### State.heal -/

@[simp] theorem State.heal_cores (s : State) (kind u a n : Nat) : (s.heal kind u a n).cores = s.cores := rfl
@[simp] theorem State.heal_hedges (s : State) (kind u a n : Nat) : (s.heal kind u a n).hedges = s.hedges := rfl
@[simp] theorem State.heal_thickets (s : State) (kind u a n : Nat) : (s.heal kind u a n).thickets = s.thickets := rfl
@[simp] theorem State.heal_dies (s : State) (kind u a n : Nat) : (s.heal kind u a n).dies = s.dies := rfl
@[simp] theorem State.heal_pkg (s : State) (kind u a n : Nat) : (s.heal kind u a n).pkg = s.pkg := rfl
@[simp] theorem State.heal_hbm (s : State) (kind u a n : Nat) : (s.heal kind u a n).hbm = s.hbm := rfl
@[simp] theorem State.heal_hostMem (s : State) (kind u a n : Nat) : (s.heal kind u a n).hostMem = s.hostMem := rfl
@[simp] theorem State.heal_llc (s : State) (kind u a n : Nat) : (s.heal kind u a n).llc = s.llc := rfl
@[simp] theorem State.heal_net (s : State) (kind u a n : Nat) : (s.heal kind u a n).net = s.net := rfl
@[simp] theorem State.heal_replies (s : State) (kind u a n : Nat) : (s.heal kind u a n).replies = s.replies := rfl
@[simp] theorem State.heal_notices (s : State) (kind u a n : Nat) : (s.heal kind u a n).notices = s.notices := rfl
@[simp] theorem State.heal_migrants (s : State) (kind u a n : Nat) : (s.heal kind u a n).migrants = s.migrants := rfl
@[simp] theorem State.heal_launches (s : State) (kind u a n : Nat) : (s.heal kind u a n).launches = s.launches := rfl
@[simp] theorem State.heal_barriers (s : State) (kind u a n : Nat) : (s.heal kind u a n).barriers = s.barriers := rfl
@[simp] theorem State.heal_ords (s : State) (kind u a n : Nat) : (s.heal kind u a n).ords = s.ords := rfl
@[simp] theorem State.heal_chains (s : State) (kind u a n : Nat) : (s.heal kind u a n).chains = s.chains := rfl
@[simp] theorem State.heal_jobs (s : State) (kind u a n : Nat) : (s.heal kind u a n).jobs = s.jobs := rfl
@[simp] theorem State.heal_jobSeq (s : State) (kind u a n : Nat) : (s.heal kind u a n).jobSeq = s.jobSeq := rfl
@[simp] theorem State.heal_jobPos (s : State) (kind u a n : Nat) : (s.heal kind u a n).jobPos = s.jobPos := rfl
@[simp] theorem State.heal_decs (s : State) (kind u a n : Nat) : (s.heal kind u a n).decs = s.decs := rfl
@[simp] theorem State.heal_clMsgs (s : State) (kind u a n : Nat) : (s.heal kind u a n).clMsgs = s.clMsgs := rfl
@[simp] theorem State.heal_regions (s : State) (kind u a n : Nat) : (s.heal kind u a n).regions = s.regions := rfl
@[simp] theorem State.heal_arrivals (s : State) (kind u a n : Nat) : (s.heal kind u a n).arrivals = s.arrivals := rfl
@[simp] theorem State.heal_homeUs (s : State) (kind u a n : Nat) : (s.heal kind u a n).homeUs = s.homeUs := rfl
@[simp] theorem State.heal_ports (s : State) (kind u a n : Nat) : (s.heal kind u a n).ports = s.ports := rfl
@[simp] theorem State.heal_calSlot (s : State) (kind u a n : Nat) : (s.heal kind u a n).calSlot = s.calSlot := rfl
@[simp] theorem State.heal_calT (s : State) (kind u a n : Nat) : (s.heal kind u a n).calT = s.calT := rfl
@[simp] theorem State.heal_calBase (s : State) (kind u a n : Nat) : (s.heal kind u a n).calBase = s.calBase := rfl
@[simp] theorem State.heal_turns (s : State) (kind u a n : Nat) : (s.heal kind u a n).turns = s.turns := rfl
@[simp] theorem State.heal_pairs (s : State) (kind u a n : Nat) : (s.heal kind u a n).pairs = s.pairs := rfl
@[simp] theorem State.heal_egress (s : State) (kind u a n : Nat) : (s.heal kind u a n).egress = s.egress := rfl
@[simp] theorem State.heal_sent (s : State) (kind u a n : Nat) : (s.heal kind u a n).sent = s.sent := rfl
@[simp] theorem State.heal_helloAge (s : State) (kind u a n : Nat) : (s.heal kind u a n).helloAge = s.helloAge := rfl
@[simp] theorem State.heal_helloSent (s : State) (kind u a n : Nat) : (s.heal kind u a n).helloSent = s.helloSent := rfl
@[simp] theorem State.heal_images (s : State) (kind u a n : Nat) : (s.heal kind u a n).images = s.images := rfl
@[simp] theorem State.heal_farClaims (s : State) (kind u a n : Nat) : (s.heal kind u a n).farClaims = s.farClaims := rfl
@[simp] theorem State.heal_hostOut (s : State) (kind u a n : Nat) : (s.heal kind u a n).hostOut = s.hostOut := rfl
@[simp] theorem State.heal_hostGot (s : State) (kind u a n : Nat) : (s.heal kind u a n).hostGot = s.hostGot := rfl
@[simp] theorem State.heal_hostWait (s : State) (kind u a n : Nat) : (s.heal kind u a n).hostWait = s.hostWait := rfl
@[simp] theorem State.heal_readOut (s : State) (kind u a n : Nat) : (s.heal kind u a n).readOut = s.readOut := rfl
@[simp] theorem State.heal_nextId (s : State) (kind u a n : Nat) : (s.heal kind u a n).nextId = s.nextId := rfl
@[simp] theorem State.heal_sched (s : State) (kind u a n : Nat) : (s.heal kind u a n).sched = s.sched := rfl
@[simp] theorem State.heal_turn (s : State) (kind u a n : Nat) : (s.heal kind u a n).turn = s.turn := rfl
@[simp] theorem State.heal_choices (s : State) (kind u a n : Nat) : (s.heal kind u a n).choices = s.choices := rfl
@[simp] theorem State.heal_core (s : State) (kind u a n : Nat) : (s.heal kind u a n).core = s.core := rfl
@[simp] theorem State.heal_slot (s : State) (kind u a n : Nat) : (s.heal kind u a n).slot = s.slot := rfl
@[simp] theorem State.heal_job (s : State) (kind u a n : Nat) : (s.heal kind u a n).job = s.job := rfl
@[simp] theorem State.heal_late (s : State) (kind u a n : Nat) : (s.heal kind u a n).late = s.late := rfl
@[simp] theorem State.heal_grp (s : State) (kind u a n : Nat) : (s.heal kind u a n).grp = s.grp := rfl

/-! ### State.poke -/

@[simp] theorem State.poke_hedges (s : State) (n a : Nat) (bs : List Byte) : (s.poke n a bs).hedges = s.hedges := rfl
@[simp] theorem State.poke_thickets (s : State) (n a : Nat) (bs : List Byte) : (s.poke n a bs).thickets = s.thickets := rfl
@[simp] theorem State.poke_dies (s : State) (n a : Nat) (bs : List Byte) : (s.poke n a bs).dies = s.dies := rfl
@[simp] theorem State.poke_pkg (s : State) (n a : Nat) (bs : List Byte) : (s.poke n a bs).pkg = s.pkg := rfl
@[simp] theorem State.poke_hbm (s : State) (n a : Nat) (bs : List Byte) : (s.poke n a bs).hbm = s.hbm := rfl
@[simp] theorem State.poke_hostMem (s : State) (n a : Nat) (bs : List Byte) : (s.poke n a bs).hostMem = s.hostMem := rfl
@[simp] theorem State.poke_llc (s : State) (n a : Nat) (bs : List Byte) : (s.poke n a bs).llc = s.llc := rfl
@[simp] theorem State.poke_net (s : State) (n a : Nat) (bs : List Byte) : (s.poke n a bs).net = s.net := rfl
@[simp] theorem State.poke_replies (s : State) (n a : Nat) (bs : List Byte) : (s.poke n a bs).replies = s.replies := rfl
@[simp] theorem State.poke_notices (s : State) (n a : Nat) (bs : List Byte) : (s.poke n a bs).notices = s.notices := rfl
@[simp] theorem State.poke_migrants (s : State) (n a : Nat) (bs : List Byte) : (s.poke n a bs).migrants = s.migrants := rfl
@[simp] theorem State.poke_launches (s : State) (n a : Nat) (bs : List Byte) : (s.poke n a bs).launches = s.launches := rfl
@[simp] theorem State.poke_barriers (s : State) (n a : Nat) (bs : List Byte) : (s.poke n a bs).barriers = s.barriers := rfl
@[simp] theorem State.poke_ords (s : State) (n a : Nat) (bs : List Byte) : (s.poke n a bs).ords = s.ords := rfl
@[simp] theorem State.poke_chains (s : State) (n a : Nat) (bs : List Byte) : (s.poke n a bs).chains = s.chains := rfl
@[simp] theorem State.poke_jobs (s : State) (n a : Nat) (bs : List Byte) : (s.poke n a bs).jobs = s.jobs := rfl
@[simp] theorem State.poke_jobSeq (s : State) (n a : Nat) (bs : List Byte) : (s.poke n a bs).jobSeq = s.jobSeq := rfl
@[simp] theorem State.poke_jobPos (s : State) (n a : Nat) (bs : List Byte) : (s.poke n a bs).jobPos = s.jobPos := rfl
@[simp] theorem State.poke_decs (s : State) (n a : Nat) (bs : List Byte) : (s.poke n a bs).decs = s.decs := rfl
@[simp] theorem State.poke_clMsgs (s : State) (n a : Nat) (bs : List Byte) : (s.poke n a bs).clMsgs = s.clMsgs := rfl
@[simp] theorem State.poke_regions (s : State) (n a : Nat) (bs : List Byte) : (s.poke n a bs).regions = s.regions := rfl
@[simp] theorem State.poke_arrivals (s : State) (n a : Nat) (bs : List Byte) : (s.poke n a bs).arrivals = s.arrivals := rfl
@[simp] theorem State.poke_homeUs (s : State) (n a : Nat) (bs : List Byte) : (s.poke n a bs).homeUs = s.homeUs := rfl
@[simp] theorem State.poke_ports (s : State) (n a : Nat) (bs : List Byte) : (s.poke n a bs).ports = s.ports := rfl
@[simp] theorem State.poke_calSlot (s : State) (n a : Nat) (bs : List Byte) : (s.poke n a bs).calSlot = s.calSlot := rfl
@[simp] theorem State.poke_calT (s : State) (n a : Nat) (bs : List Byte) : (s.poke n a bs).calT = s.calT := rfl
@[simp] theorem State.poke_calBase (s : State) (n a : Nat) (bs : List Byte) : (s.poke n a bs).calBase = s.calBase := rfl
@[simp] theorem State.poke_turns (s : State) (n a : Nat) (bs : List Byte) : (s.poke n a bs).turns = s.turns := rfl
@[simp] theorem State.poke_pairs (s : State) (n a : Nat) (bs : List Byte) : (s.poke n a bs).pairs = s.pairs := rfl
@[simp] theorem State.poke_egress (s : State) (n a : Nat) (bs : List Byte) : (s.poke n a bs).egress = s.egress := rfl
@[simp] theorem State.poke_sent (s : State) (n a : Nat) (bs : List Byte) : (s.poke n a bs).sent = s.sent := rfl
@[simp] theorem State.poke_helloAge (s : State) (n a : Nat) (bs : List Byte) : (s.poke n a bs).helloAge = s.helloAge := rfl
@[simp] theorem State.poke_helloSent (s : State) (n a : Nat) (bs : List Byte) : (s.poke n a bs).helloSent = s.helloSent := rfl
@[simp] theorem State.poke_images (s : State) (n a : Nat) (bs : List Byte) : (s.poke n a bs).images = s.images := rfl
@[simp] theorem State.poke_farClaims (s : State) (n a : Nat) (bs : List Byte) : (s.poke n a bs).farClaims = s.farClaims := rfl
@[simp] theorem State.poke_hostOut (s : State) (n a : Nat) (bs : List Byte) : (s.poke n a bs).hostOut = s.hostOut := rfl
@[simp] theorem State.poke_hostGot (s : State) (n a : Nat) (bs : List Byte) : (s.poke n a bs).hostGot = s.hostGot := rfl
@[simp] theorem State.poke_hostWait (s : State) (n a : Nat) (bs : List Byte) : (s.poke n a bs).hostWait = s.hostWait := rfl
@[simp] theorem State.poke_readOut (s : State) (n a : Nat) (bs : List Byte) : (s.poke n a bs).readOut = s.readOut := rfl
@[simp] theorem State.poke_nextId (s : State) (n a : Nat) (bs : List Byte) : (s.poke n a bs).nextId = s.nextId := rfl
@[simp] theorem State.poke_sched (s : State) (n a : Nat) (bs : List Byte) : (s.poke n a bs).sched = s.sched := rfl
@[simp] theorem State.poke_turn (s : State) (n a : Nat) (bs : List Byte) : (s.poke n a bs).turn = s.turn := rfl
@[simp] theorem State.poke_choices (s : State) (n a : Nat) (bs : List Byte) : (s.poke n a bs).choices = s.choices := rfl
@[simp] theorem State.poke_core (s : State) (n a : Nat) (bs : List Byte) : (s.poke n a bs).core = s.core := rfl
@[simp] theorem State.poke_slot (s : State) (n a : Nat) (bs : List Byte) : (s.poke n a bs).slot = s.slot := rfl
@[simp] theorem State.poke_job (s : State) (n a : Nat) (bs : List Byte) : (s.poke n a bs).job = s.job := rfl
@[simp] theorem State.poke_late (s : State) (n a : Nat) (bs : List Byte) : (s.poke n a bs).late = s.late := rfl
@[simp] theorem State.poke_grp (s : State) (n a : Nat) (bs : List Byte) : (s.poke n a bs).grp = s.grp := rfl

/-! ### State.storeL -/

@[simp] theorem State.storeL_hedges (s : State) (n a : Nat) (bs : List Byte) : (s.storeL n a bs).hedges = s.hedges := rfl
@[simp] theorem State.storeL_thickets (s : State) (n a : Nat) (bs : List Byte) : (s.storeL n a bs).thickets = s.thickets := rfl
@[simp] theorem State.storeL_dies (s : State) (n a : Nat) (bs : List Byte) : (s.storeL n a bs).dies = s.dies := rfl
@[simp] theorem State.storeL_pkg (s : State) (n a : Nat) (bs : List Byte) : (s.storeL n a bs).pkg = s.pkg := rfl
@[simp] theorem State.storeL_hbm (s : State) (n a : Nat) (bs : List Byte) : (s.storeL n a bs).hbm = s.hbm := rfl
@[simp] theorem State.storeL_hostMem (s : State) (n a : Nat) (bs : List Byte) : (s.storeL n a bs).hostMem = s.hostMem := rfl
@[simp] theorem State.storeL_llc (s : State) (n a : Nat) (bs : List Byte) : (s.storeL n a bs).llc = s.llc := rfl
@[simp] theorem State.storeL_net (s : State) (n a : Nat) (bs : List Byte) : (s.storeL n a bs).net = s.net := rfl
@[simp] theorem State.storeL_replies (s : State) (n a : Nat) (bs : List Byte) : (s.storeL n a bs).replies = s.replies := rfl
@[simp] theorem State.storeL_notices (s : State) (n a : Nat) (bs : List Byte) : (s.storeL n a bs).notices = s.notices := rfl
@[simp] theorem State.storeL_migrants (s : State) (n a : Nat) (bs : List Byte) : (s.storeL n a bs).migrants = s.migrants := rfl
@[simp] theorem State.storeL_launches (s : State) (n a : Nat) (bs : List Byte) : (s.storeL n a bs).launches = s.launches := rfl
@[simp] theorem State.storeL_barriers (s : State) (n a : Nat) (bs : List Byte) : (s.storeL n a bs).barriers = s.barriers := rfl
@[simp] theorem State.storeL_ords (s : State) (n a : Nat) (bs : List Byte) : (s.storeL n a bs).ords = s.ords := rfl
@[simp] theorem State.storeL_chains (s : State) (n a : Nat) (bs : List Byte) : (s.storeL n a bs).chains = s.chains := rfl
@[simp] theorem State.storeL_jobs (s : State) (n a : Nat) (bs : List Byte) : (s.storeL n a bs).jobs = s.jobs := rfl
@[simp] theorem State.storeL_jobSeq (s : State) (n a : Nat) (bs : List Byte) : (s.storeL n a bs).jobSeq = s.jobSeq := rfl
@[simp] theorem State.storeL_jobPos (s : State) (n a : Nat) (bs : List Byte) : (s.storeL n a bs).jobPos = s.jobPos := rfl
@[simp] theorem State.storeL_decs (s : State) (n a : Nat) (bs : List Byte) : (s.storeL n a bs).decs = s.decs := rfl
@[simp] theorem State.storeL_clMsgs (s : State) (n a : Nat) (bs : List Byte) : (s.storeL n a bs).clMsgs = s.clMsgs := rfl
@[simp] theorem State.storeL_regions (s : State) (n a : Nat) (bs : List Byte) : (s.storeL n a bs).regions = s.regions := rfl
@[simp] theorem State.storeL_arrivals (s : State) (n a : Nat) (bs : List Byte) : (s.storeL n a bs).arrivals = s.arrivals := rfl
@[simp] theorem State.storeL_homeUs (s : State) (n a : Nat) (bs : List Byte) : (s.storeL n a bs).homeUs = s.homeUs := rfl
@[simp] theorem State.storeL_ports (s : State) (n a : Nat) (bs : List Byte) : (s.storeL n a bs).ports = s.ports := rfl
@[simp] theorem State.storeL_calSlot (s : State) (n a : Nat) (bs : List Byte) : (s.storeL n a bs).calSlot = s.calSlot := rfl
@[simp] theorem State.storeL_calT (s : State) (n a : Nat) (bs : List Byte) : (s.storeL n a bs).calT = s.calT := rfl
@[simp] theorem State.storeL_calBase (s : State) (n a : Nat) (bs : List Byte) : (s.storeL n a bs).calBase = s.calBase := rfl
@[simp] theorem State.storeL_turns (s : State) (n a : Nat) (bs : List Byte) : (s.storeL n a bs).turns = s.turns := rfl
@[simp] theorem State.storeL_pairs (s : State) (n a : Nat) (bs : List Byte) : (s.storeL n a bs).pairs = s.pairs := rfl
@[simp] theorem State.storeL_egress (s : State) (n a : Nat) (bs : List Byte) : (s.storeL n a bs).egress = s.egress := rfl
@[simp] theorem State.storeL_sent (s : State) (n a : Nat) (bs : List Byte) : (s.storeL n a bs).sent = s.sent := rfl
@[simp] theorem State.storeL_helloAge (s : State) (n a : Nat) (bs : List Byte) : (s.storeL n a bs).helloAge = s.helloAge := rfl
@[simp] theorem State.storeL_helloSent (s : State) (n a : Nat) (bs : List Byte) : (s.storeL n a bs).helloSent = s.helloSent := rfl
@[simp] theorem State.storeL_images (s : State) (n a : Nat) (bs : List Byte) : (s.storeL n a bs).images = s.images := rfl
@[simp] theorem State.storeL_farClaims (s : State) (n a : Nat) (bs : List Byte) : (s.storeL n a bs).farClaims = s.farClaims := rfl
@[simp] theorem State.storeL_hostOut (s : State) (n a : Nat) (bs : List Byte) : (s.storeL n a bs).hostOut = s.hostOut := rfl
@[simp] theorem State.storeL_hostGot (s : State) (n a : Nat) (bs : List Byte) : (s.storeL n a bs).hostGot = s.hostGot := rfl
@[simp] theorem State.storeL_hostWait (s : State) (n a : Nat) (bs : List Byte) : (s.storeL n a bs).hostWait = s.hostWait := rfl
@[simp] theorem State.storeL_readOut (s : State) (n a : Nat) (bs : List Byte) : (s.storeL n a bs).readOut = s.readOut := rfl
@[simp] theorem State.storeL_nextId (s : State) (n a : Nat) (bs : List Byte) : (s.storeL n a bs).nextId = s.nextId := rfl
@[simp] theorem State.storeL_sched (s : State) (n a : Nat) (bs : List Byte) : (s.storeL n a bs).sched = s.sched := rfl
@[simp] theorem State.storeL_turn (s : State) (n a : Nat) (bs : List Byte) : (s.storeL n a bs).turn = s.turn := rfl
@[simp] theorem State.storeL_choices (s : State) (n a : Nat) (bs : List Byte) : (s.storeL n a bs).choices = s.choices := rfl
@[simp] theorem State.storeL_core (s : State) (n a : Nat) (bs : List Byte) : (s.storeL n a bs).core = s.core := rfl
@[simp] theorem State.storeL_slot (s : State) (n a : Nat) (bs : List Byte) : (s.storeL n a bs).slot = s.slot := rfl
@[simp] theorem State.storeL_job (s : State) (n a : Nat) (bs : List Byte) : (s.storeL n a bs).job = s.job := rfl
@[simp] theorem State.storeL_late (s : State) (n a : Nat) (bs : List Byte) : (s.storeL n a bs).late = s.late := rfl
@[simp] theorem State.storeL_grp (s : State) (n a : Nat) (bs : List Byte) : (s.storeL n a bs).grp = s.grp := rfl

/-! ### State.putJob -/

@[simp] theorem State.putJob_cores (s : State) (j : Job) : (s.putJob j).cores = s.cores := rfl
@[simp] theorem State.putJob_hedges (s : State) (j : Job) : (s.putJob j).hedges = s.hedges := rfl
@[simp] theorem State.putJob_thickets (s : State) (j : Job) : (s.putJob j).thickets = s.thickets := rfl
@[simp] theorem State.putJob_dies (s : State) (j : Job) : (s.putJob j).dies = s.dies := rfl
@[simp] theorem State.putJob_pkg (s : State) (j : Job) : (s.putJob j).pkg = s.pkg := rfl
@[simp] theorem State.putJob_hbm (s : State) (j : Job) : (s.putJob j).hbm = s.hbm := rfl
@[simp] theorem State.putJob_hostMem (s : State) (j : Job) : (s.putJob j).hostMem = s.hostMem := rfl
@[simp] theorem State.putJob_llc (s : State) (j : Job) : (s.putJob j).llc = s.llc := rfl
@[simp] theorem State.putJob_bad (s : State) (j : Job) : (s.putJob j).bad = s.bad := rfl
@[simp] theorem State.putJob_net (s : State) (j : Job) : (s.putJob j).net = s.net := rfl
@[simp] theorem State.putJob_replies (s : State) (j : Job) : (s.putJob j).replies = s.replies := rfl
@[simp] theorem State.putJob_notices (s : State) (j : Job) : (s.putJob j).notices = s.notices := rfl
@[simp] theorem State.putJob_migrants (s : State) (j : Job) : (s.putJob j).migrants = s.migrants := rfl
@[simp] theorem State.putJob_launches (s : State) (j : Job) : (s.putJob j).launches = s.launches := rfl
@[simp] theorem State.putJob_barriers (s : State) (j : Job) : (s.putJob j).barriers = s.barriers := rfl
@[simp] theorem State.putJob_ords (s : State) (j : Job) : (s.putJob j).ords = s.ords := rfl
@[simp] theorem State.putJob_chains (s : State) (j : Job) : (s.putJob j).chains = s.chains := rfl
@[simp] theorem State.putJob_jobSeq (s : State) (j : Job) : (s.putJob j).jobSeq = s.jobSeq := rfl
@[simp] theorem State.putJob_jobPos (s : State) (j : Job) : (s.putJob j).jobPos = s.jobPos := rfl
@[simp] theorem State.putJob_decs (s : State) (j : Job) : (s.putJob j).decs = s.decs := rfl
@[simp] theorem State.putJob_clMsgs (s : State) (j : Job) : (s.putJob j).clMsgs = s.clMsgs := rfl
@[simp] theorem State.putJob_regions (s : State) (j : Job) : (s.putJob j).regions = s.regions := rfl
@[simp] theorem State.putJob_arrivals (s : State) (j : Job) : (s.putJob j).arrivals = s.arrivals := rfl
@[simp] theorem State.putJob_homeUs (s : State) (j : Job) : (s.putJob j).homeUs = s.homeUs := rfl
@[simp] theorem State.putJob_ports (s : State) (j : Job) : (s.putJob j).ports = s.ports := rfl
@[simp] theorem State.putJob_calSlot (s : State) (j : Job) : (s.putJob j).calSlot = s.calSlot := rfl
@[simp] theorem State.putJob_calT (s : State) (j : Job) : (s.putJob j).calT = s.calT := rfl
@[simp] theorem State.putJob_calBase (s : State) (j : Job) : (s.putJob j).calBase = s.calBase := rfl
@[simp] theorem State.putJob_turns (s : State) (j : Job) : (s.putJob j).turns = s.turns := rfl
@[simp] theorem State.putJob_pairs (s : State) (j : Job) : (s.putJob j).pairs = s.pairs := rfl
@[simp] theorem State.putJob_egress (s : State) (j : Job) : (s.putJob j).egress = s.egress := rfl
@[simp] theorem State.putJob_sent (s : State) (j : Job) : (s.putJob j).sent = s.sent := rfl
@[simp] theorem State.putJob_helloAge (s : State) (j : Job) : (s.putJob j).helloAge = s.helloAge := rfl
@[simp] theorem State.putJob_helloSent (s : State) (j : Job) : (s.putJob j).helloSent = s.helloSent := rfl
@[simp] theorem State.putJob_images (s : State) (j : Job) : (s.putJob j).images = s.images := rfl
@[simp] theorem State.putJob_farClaims (s : State) (j : Job) : (s.putJob j).farClaims = s.farClaims := rfl
@[simp] theorem State.putJob_hostOut (s : State) (j : Job) : (s.putJob j).hostOut = s.hostOut := rfl
@[simp] theorem State.putJob_hostGot (s : State) (j : Job) : (s.putJob j).hostGot = s.hostGot := rfl
@[simp] theorem State.putJob_hostWait (s : State) (j : Job) : (s.putJob j).hostWait = s.hostWait := rfl
@[simp] theorem State.putJob_readOut (s : State) (j : Job) : (s.putJob j).readOut = s.readOut := rfl
@[simp] theorem State.putJob_nextId (s : State) (j : Job) : (s.putJob j).nextId = s.nextId := rfl
@[simp] theorem State.putJob_sched (s : State) (j : Job) : (s.putJob j).sched = s.sched := rfl
@[simp] theorem State.putJob_turn (s : State) (j : Job) : (s.putJob j).turn = s.turn := rfl
@[simp] theorem State.putJob_choices (s : State) (j : Job) : (s.putJob j).choices = s.choices := rfl
@[simp] theorem State.putJob_core (s : State) (j : Job) : (s.putJob j).core = s.core := rfl
@[simp] theorem State.putJob_slot (s : State) (j : Job) : (s.putJob j).slot = s.slot := rfl
@[simp] theorem State.putJob_job (s : State) (j : Job) : (s.putJob j).job = s.job := rfl
@[simp] theorem State.putJob_late (s : State) (j : Job) : (s.putJob j).late = s.late := rfl
@[simp] theorem State.putJob_grp (s : State) (j : Job) : (s.putJob j).grp = s.grp := rfl

/-! ### State.modOrd -/

@[simp] theorem State.modOrd_cores (s : State) (u : Nat) (f : OrdTask → OrdTask) : (s.modOrd u f).cores = s.cores := rfl
@[simp] theorem State.modOrd_hedges (s : State) (u : Nat) (f : OrdTask → OrdTask) : (s.modOrd u f).hedges = s.hedges := rfl
@[simp] theorem State.modOrd_thickets (s : State) (u : Nat) (f : OrdTask → OrdTask) : (s.modOrd u f).thickets = s.thickets := rfl
@[simp] theorem State.modOrd_dies (s : State) (u : Nat) (f : OrdTask → OrdTask) : (s.modOrd u f).dies = s.dies := rfl
@[simp] theorem State.modOrd_pkg (s : State) (u : Nat) (f : OrdTask → OrdTask) : (s.modOrd u f).pkg = s.pkg := rfl
@[simp] theorem State.modOrd_hbm (s : State) (u : Nat) (f : OrdTask → OrdTask) : (s.modOrd u f).hbm = s.hbm := rfl
@[simp] theorem State.modOrd_hostMem (s : State) (u : Nat) (f : OrdTask → OrdTask) : (s.modOrd u f).hostMem = s.hostMem := rfl
@[simp] theorem State.modOrd_llc (s : State) (u : Nat) (f : OrdTask → OrdTask) : (s.modOrd u f).llc = s.llc := rfl
@[simp] theorem State.modOrd_bad (s : State) (u : Nat) (f : OrdTask → OrdTask) : (s.modOrd u f).bad = s.bad := rfl
@[simp] theorem State.modOrd_net (s : State) (u : Nat) (f : OrdTask → OrdTask) : (s.modOrd u f).net = s.net := rfl
@[simp] theorem State.modOrd_replies (s : State) (u : Nat) (f : OrdTask → OrdTask) : (s.modOrd u f).replies = s.replies := rfl
@[simp] theorem State.modOrd_notices (s : State) (u : Nat) (f : OrdTask → OrdTask) : (s.modOrd u f).notices = s.notices := rfl
@[simp] theorem State.modOrd_migrants (s : State) (u : Nat) (f : OrdTask → OrdTask) : (s.modOrd u f).migrants = s.migrants := rfl
@[simp] theorem State.modOrd_launches (s : State) (u : Nat) (f : OrdTask → OrdTask) : (s.modOrd u f).launches = s.launches := rfl
@[simp] theorem State.modOrd_barriers (s : State) (u : Nat) (f : OrdTask → OrdTask) : (s.modOrd u f).barriers = s.barriers := rfl
@[simp] theorem State.modOrd_chains (s : State) (u : Nat) (f : OrdTask → OrdTask) : (s.modOrd u f).chains = s.chains := rfl
@[simp] theorem State.modOrd_jobs (s : State) (u : Nat) (f : OrdTask → OrdTask) : (s.modOrd u f).jobs = s.jobs := rfl
@[simp] theorem State.modOrd_jobSeq (s : State) (u : Nat) (f : OrdTask → OrdTask) : (s.modOrd u f).jobSeq = s.jobSeq := rfl
@[simp] theorem State.modOrd_jobPos (s : State) (u : Nat) (f : OrdTask → OrdTask) : (s.modOrd u f).jobPos = s.jobPos := rfl
@[simp] theorem State.modOrd_decs (s : State) (u : Nat) (f : OrdTask → OrdTask) : (s.modOrd u f).decs = s.decs := rfl
@[simp] theorem State.modOrd_clMsgs (s : State) (u : Nat) (f : OrdTask → OrdTask) : (s.modOrd u f).clMsgs = s.clMsgs := rfl
@[simp] theorem State.modOrd_regions (s : State) (u : Nat) (f : OrdTask → OrdTask) : (s.modOrd u f).regions = s.regions := rfl
@[simp] theorem State.modOrd_arrivals (s : State) (u : Nat) (f : OrdTask → OrdTask) : (s.modOrd u f).arrivals = s.arrivals := rfl
@[simp] theorem State.modOrd_homeUs (s : State) (u : Nat) (f : OrdTask → OrdTask) : (s.modOrd u f).homeUs = s.homeUs := rfl
@[simp] theorem State.modOrd_ports (s : State) (u : Nat) (f : OrdTask → OrdTask) : (s.modOrd u f).ports = s.ports := rfl
@[simp] theorem State.modOrd_calSlot (s : State) (u : Nat) (f : OrdTask → OrdTask) : (s.modOrd u f).calSlot = s.calSlot := rfl
@[simp] theorem State.modOrd_calT (s : State) (u : Nat) (f : OrdTask → OrdTask) : (s.modOrd u f).calT = s.calT := rfl
@[simp] theorem State.modOrd_calBase (s : State) (u : Nat) (f : OrdTask → OrdTask) : (s.modOrd u f).calBase = s.calBase := rfl
@[simp] theorem State.modOrd_turns (s : State) (u : Nat) (f : OrdTask → OrdTask) : (s.modOrd u f).turns = s.turns := rfl
@[simp] theorem State.modOrd_pairs (s : State) (u : Nat) (f : OrdTask → OrdTask) : (s.modOrd u f).pairs = s.pairs := rfl
@[simp] theorem State.modOrd_egress (s : State) (u : Nat) (f : OrdTask → OrdTask) : (s.modOrd u f).egress = s.egress := rfl
@[simp] theorem State.modOrd_sent (s : State) (u : Nat) (f : OrdTask → OrdTask) : (s.modOrd u f).sent = s.sent := rfl
@[simp] theorem State.modOrd_helloAge (s : State) (u : Nat) (f : OrdTask → OrdTask) : (s.modOrd u f).helloAge = s.helloAge := rfl
@[simp] theorem State.modOrd_helloSent (s : State) (u : Nat) (f : OrdTask → OrdTask) : (s.modOrd u f).helloSent = s.helloSent := rfl
@[simp] theorem State.modOrd_images (s : State) (u : Nat) (f : OrdTask → OrdTask) : (s.modOrd u f).images = s.images := rfl
@[simp] theorem State.modOrd_farClaims (s : State) (u : Nat) (f : OrdTask → OrdTask) : (s.modOrd u f).farClaims = s.farClaims := rfl
@[simp] theorem State.modOrd_hostOut (s : State) (u : Nat) (f : OrdTask → OrdTask) : (s.modOrd u f).hostOut = s.hostOut := rfl
@[simp] theorem State.modOrd_hostGot (s : State) (u : Nat) (f : OrdTask → OrdTask) : (s.modOrd u f).hostGot = s.hostGot := rfl
@[simp] theorem State.modOrd_hostWait (s : State) (u : Nat) (f : OrdTask → OrdTask) : (s.modOrd u f).hostWait = s.hostWait := rfl
@[simp] theorem State.modOrd_readOut (s : State) (u : Nat) (f : OrdTask → OrdTask) : (s.modOrd u f).readOut = s.readOut := rfl
@[simp] theorem State.modOrd_nextId (s : State) (u : Nat) (f : OrdTask → OrdTask) : (s.modOrd u f).nextId = s.nextId := rfl
@[simp] theorem State.modOrd_sched (s : State) (u : Nat) (f : OrdTask → OrdTask) : (s.modOrd u f).sched = s.sched := rfl
@[simp] theorem State.modOrd_turn (s : State) (u : Nat) (f : OrdTask → OrdTask) : (s.modOrd u f).turn = s.turn := rfl
@[simp] theorem State.modOrd_choices (s : State) (u : Nat) (f : OrdTask → OrdTask) : (s.modOrd u f).choices = s.choices := rfl
@[simp] theorem State.modOrd_core (s : State) (u : Nat) (f : OrdTask → OrdTask) : (s.modOrd u f).core = s.core := rfl
@[simp] theorem State.modOrd_slot (s : State) (u : Nat) (f : OrdTask → OrdTask) : (s.modOrd u f).slot = s.slot := rfl
@[simp] theorem State.modOrd_job (s : State) (u : Nat) (f : OrdTask → OrdTask) : (s.modOrd u f).job = s.job := rfl
@[simp] theorem State.modOrd_late (s : State) (u : Nat) (f : OrdTask → OrdTask) : (s.modOrd u f).late = s.late := rfl
@[simp] theorem State.modOrd_grp (s : State) (u : Nat) (f : OrdTask → OrdTask) : (s.modOrd u f).grp = s.grp := rfl

/-! ### State.modPort -/

@[simp] theorem State.modPort_cores (s : State) (p : Nat) (f : Port → Port) : (s.modPort p f).cores = s.cores := rfl
@[simp] theorem State.modPort_hedges (s : State) (p : Nat) (f : Port → Port) : (s.modPort p f).hedges = s.hedges := rfl
@[simp] theorem State.modPort_thickets (s : State) (p : Nat) (f : Port → Port) : (s.modPort p f).thickets = s.thickets := rfl
@[simp] theorem State.modPort_dies (s : State) (p : Nat) (f : Port → Port) : (s.modPort p f).dies = s.dies := rfl
@[simp] theorem State.modPort_pkg (s : State) (p : Nat) (f : Port → Port) : (s.modPort p f).pkg = s.pkg := rfl
@[simp] theorem State.modPort_hbm (s : State) (p : Nat) (f : Port → Port) : (s.modPort p f).hbm = s.hbm := rfl
@[simp] theorem State.modPort_hostMem (s : State) (p : Nat) (f : Port → Port) : (s.modPort p f).hostMem = s.hostMem := rfl
@[simp] theorem State.modPort_llc (s : State) (p : Nat) (f : Port → Port) : (s.modPort p f).llc = s.llc := rfl
@[simp] theorem State.modPort_bad (s : State) (p : Nat) (f : Port → Port) : (s.modPort p f).bad = s.bad := rfl
@[simp] theorem State.modPort_net (s : State) (p : Nat) (f : Port → Port) : (s.modPort p f).net = s.net := rfl
@[simp] theorem State.modPort_replies (s : State) (p : Nat) (f : Port → Port) : (s.modPort p f).replies = s.replies := rfl
@[simp] theorem State.modPort_notices (s : State) (p : Nat) (f : Port → Port) : (s.modPort p f).notices = s.notices := rfl
@[simp] theorem State.modPort_migrants (s : State) (p : Nat) (f : Port → Port) : (s.modPort p f).migrants = s.migrants := rfl
@[simp] theorem State.modPort_launches (s : State) (p : Nat) (f : Port → Port) : (s.modPort p f).launches = s.launches := rfl
@[simp] theorem State.modPort_barriers (s : State) (p : Nat) (f : Port → Port) : (s.modPort p f).barriers = s.barriers := rfl
@[simp] theorem State.modPort_ords (s : State) (p : Nat) (f : Port → Port) : (s.modPort p f).ords = s.ords := rfl
@[simp] theorem State.modPort_chains (s : State) (p : Nat) (f : Port → Port) : (s.modPort p f).chains = s.chains := rfl
@[simp] theorem State.modPort_jobs (s : State) (p : Nat) (f : Port → Port) : (s.modPort p f).jobs = s.jobs := rfl
@[simp] theorem State.modPort_jobSeq (s : State) (p : Nat) (f : Port → Port) : (s.modPort p f).jobSeq = s.jobSeq := rfl
@[simp] theorem State.modPort_jobPos (s : State) (p : Nat) (f : Port → Port) : (s.modPort p f).jobPos = s.jobPos := rfl
@[simp] theorem State.modPort_decs (s : State) (p : Nat) (f : Port → Port) : (s.modPort p f).decs = s.decs := rfl
@[simp] theorem State.modPort_clMsgs (s : State) (p : Nat) (f : Port → Port) : (s.modPort p f).clMsgs = s.clMsgs := rfl
@[simp] theorem State.modPort_regions (s : State) (p : Nat) (f : Port → Port) : (s.modPort p f).regions = s.regions := rfl
@[simp] theorem State.modPort_arrivals (s : State) (p : Nat) (f : Port → Port) : (s.modPort p f).arrivals = s.arrivals := rfl
@[simp] theorem State.modPort_homeUs (s : State) (p : Nat) (f : Port → Port) : (s.modPort p f).homeUs = s.homeUs := rfl
@[simp] theorem State.modPort_calSlot (s : State) (p : Nat) (f : Port → Port) : (s.modPort p f).calSlot = s.calSlot := rfl
@[simp] theorem State.modPort_calT (s : State) (p : Nat) (f : Port → Port) : (s.modPort p f).calT = s.calT := rfl
@[simp] theorem State.modPort_calBase (s : State) (p : Nat) (f : Port → Port) : (s.modPort p f).calBase = s.calBase := rfl
@[simp] theorem State.modPort_turns (s : State) (p : Nat) (f : Port → Port) : (s.modPort p f).turns = s.turns := rfl
@[simp] theorem State.modPort_pairs (s : State) (p : Nat) (f : Port → Port) : (s.modPort p f).pairs = s.pairs := rfl
@[simp] theorem State.modPort_egress (s : State) (p : Nat) (f : Port → Port) : (s.modPort p f).egress = s.egress := rfl
@[simp] theorem State.modPort_sent (s : State) (p : Nat) (f : Port → Port) : (s.modPort p f).sent = s.sent := rfl
@[simp] theorem State.modPort_helloAge (s : State) (p : Nat) (f : Port → Port) : (s.modPort p f).helloAge = s.helloAge := rfl
@[simp] theorem State.modPort_helloSent (s : State) (p : Nat) (f : Port → Port) : (s.modPort p f).helloSent = s.helloSent := rfl
@[simp] theorem State.modPort_images (s : State) (p : Nat) (f : Port → Port) : (s.modPort p f).images = s.images := rfl
@[simp] theorem State.modPort_farClaims (s : State) (p : Nat) (f : Port → Port) : (s.modPort p f).farClaims = s.farClaims := rfl
@[simp] theorem State.modPort_hostOut (s : State) (p : Nat) (f : Port → Port) : (s.modPort p f).hostOut = s.hostOut := rfl
@[simp] theorem State.modPort_hostGot (s : State) (p : Nat) (f : Port → Port) : (s.modPort p f).hostGot = s.hostGot := rfl
@[simp] theorem State.modPort_hostWait (s : State) (p : Nat) (f : Port → Port) : (s.modPort p f).hostWait = s.hostWait := rfl
@[simp] theorem State.modPort_readOut (s : State) (p : Nat) (f : Port → Port) : (s.modPort p f).readOut = s.readOut := rfl
@[simp] theorem State.modPort_nextId (s : State) (p : Nat) (f : Port → Port) : (s.modPort p f).nextId = s.nextId := rfl
@[simp] theorem State.modPort_sched (s : State) (p : Nat) (f : Port → Port) : (s.modPort p f).sched = s.sched := rfl
@[simp] theorem State.modPort_turn (s : State) (p : Nat) (f : Port → Port) : (s.modPort p f).turn = s.turn := rfl
@[simp] theorem State.modPort_choices (s : State) (p : Nat) (f : Port → Port) : (s.modPort p f).choices = s.choices := rfl
@[simp] theorem State.modPort_core (s : State) (p : Nat) (f : Port → Port) : (s.modPort p f).core = s.core := rfl
@[simp] theorem State.modPort_slot (s : State) (p : Nat) (f : Port → Port) : (s.modPort p f).slot = s.slot := rfl
@[simp] theorem State.modPort_job (s : State) (p : Nat) (f : Port → Port) : (s.modPort p f).job = s.job := rfl
@[simp] theorem State.modPort_late (s : State) (p : Nat) (f : Port → Port) : (s.modPort p f).late = s.late := rfl
@[simp] theorem State.modPort_grp (s : State) (p : Nat) (f : Port → Port) : (s.modPort p f).grp = s.grp := rfl

/-! ### Core.setSlot -/

@[simp] theorem Core.setSlot_lmem (c : Core) (k : Nat) (x : Slot) : (c.setSlot k x).lmem = c.lmem := rfl
@[simp] theorem Core.setSlot_dirty (c : Core) (k : Nat) (x : Slot) : (c.setSlot k x).dirty = c.dirty := rfl
@[simp] theorem Core.setSlot_rq (c : Core) (k : Nat) (x : Slot) : (c.setSlot k x).rq = c.rq := rfl
@[simp] theorem Core.setSlot_park (c : Core) (k : Nat) (x : Slot) : (c.setSlot k x).park = c.park := rfl
@[simp] theorem Core.setSlot_ready (c : Core) (k : Nat) (x : Slot) : (c.setSlot k x).ready = c.ready := rfl
@[simp] theorem Core.setSlot_rx0 (c : Core) (k : Nat) (x : Slot) : (c.setSlot k x).rx0 = c.rx0 := rfl
@[simp] theorem Core.setSlot_rx1 (c : Core) (k : Nat) (x : Slot) : (c.setSlot k x).rx1 = c.rx1 := rfl
@[simp] theorem Core.setSlot_rx2 (c : Core) (k : Nat) (x : Slot) : (c.setSlot k x).rx2 = c.rx2 := rfl
@[simp] theorem Core.setSlot_rx3 (c : Core) (k : Nat) (x : Slot) : (c.setSlot k x).rx3 = c.rx3 := rfl
@[simp] theorem Core.setSlot_heldWords (c : Core) (k : Nat) (x : Slot) : (c.setSlot k x).heldWords = c.heldWords := rfl
@[simp] theorem Core.setSlot_taskCount (c : Core) (k : Nat) (x : Slot) : (c.setSlot k x).taskCount = c.taskCount := rfl
@[simp] theorem Core.setSlot_ptr (c : Core) (k : Nat) (x : Slot) : (c.setSlot k x).ptr = c.ptr := rfl
@[simp] theorem Core.setSlot_cycles (c : Core) (k : Nat) (x : Slot) : (c.setSlot k x).cycles = c.cycles := rfl
@[simp] theorem Core.setSlot_usec (c : Core) (k : Nat) (x : Slot) : (c.setSlot k x).usec = c.usec := rfl
@[simp] theorem Core.setSlot_wsfree0 (c : Core) (k : Nat) (x : Slot) : (c.setSlot k x).wsfree0 = c.wsfree0 := rfl
@[simp] theorem Core.setSlot_wsfree1 (c : Core) (k : Nat) (x : Slot) : (c.setSlot k x).wsfree1 = c.wsfree1 := rfl
@[simp] theorem Core.setSlot_tagpc (c : Core) (k : Nat) (x : Slot) : (c.setSlot k x).tagpc = c.tagpc := rfl
@[simp] theorem Core.setSlot_tagattr (c : Core) (k : Nat) (x : Slot) : (c.setSlot k x).tagattr = c.tagattr := rfl
@[simp] theorem Core.setSlot_tagen (c : Core) (k : Nat) (x : Slot) : (c.setSlot k x).tagen = c.tagen := rfl
@[simp] theorem Core.setSlot_tagdrop (c : Core) (k : Nat) (x : Slot) : (c.setSlot k x).tagdrop = c.tagdrop := rfl
@[simp] theorem Core.setSlot_winnack (c : Core) (k : Nat) (x : Slot) : (c.setSlot k x).winnack = c.winnack := rfl
@[simp] theorem Core.setSlot_nslot (c : Core) (k : Nat) (x : Slot) : (c.setSlot k x).nslot = c.nslot := rfl
@[simp] theorem Core.setSlot_sbase (c : Core) (k : Nat) (x : Slot) : (c.setSlot k x).sbase = c.sbase := rfl
@[simp] theorem Core.setSlot_scptr (c : Core) (k : Nat) (x : Slot) : (c.setSlot k x).scptr = c.scptr := rfl
@[simp] theorem Core.setSlot_tags (c : Core) (k : Nat) (x : Slot) : (c.setSlot k x).tags = c.tags := rfl
@[simp] theorem Core.setSlot_mben (c : Core) (k : Nat) (x : Slot) : (c.setSlot k x).mben = c.mben := rfl
@[simp] theorem Core.setSlot_mbbase (c : Core) (k : Nat) (x : Slot) : (c.setSlot k x).mbbase = c.mbbase := rfl
@[simp] theorem Core.setSlot_mbdepth (c : Core) (k : Nat) (x : Slot) : (c.setSlot k x).mbdepth = c.mbdepth := rfl
@[simp] theorem Core.setSlot_rows (c : Core) (k : Nat) (x : Slot) : (c.setSlot k x).rows = c.rows := rfl
@[simp] theorem Core.setSlot_mblost (c : Core) (k : Nat) (x : Slot) : (c.setSlot k x).mblost = c.mblost := rfl
@[simp] theorem Core.setSlot_wina (c : Core) (k : Nat) (x : Slot) : (c.setSlot k x).wina = c.wina := rfl
@[simp] theorem Core.setSlot_winb (c : Core) (k : Nat) (x : Slot) : (c.setSlot k x).winb = c.winb := rfl

/-! ### The part that changes -/

@[simp] theorem State.coreAt_setCore_self (s : State) (n : Nat) (c : Core) : (s.setCore n c).coreAt n = c := Tbl.get_set_self ..

theorem State.coreAt_setCore_ne (s : State) (c : Core) {n m : Nat} (h : m ≠ n) : (s.setCore n c).coreAt m = s.coreAt m := Tbl.get_set_ne _ _ _ h

@[simp] theorem State.coreAt_modCore_self (s : State) (n : Nat) (f : Core → Core) : (s.modCore n f).coreAt n = f (s.coreAt n) := State.coreAt_setCore_self ..

theorem State.coreAt_modCore_ne (s : State) (f : Core → Core) {n m : Nat} (h : m ≠ n) : (s.modCore n f).coreAt m = s.coreAt m := State.coreAt_setCore_ne _ _ h

@[simp] theorem Core.slotAt_setSlot (c : Core) (k : Nat) (x : Slot) : (c.setSlot k x).slotAt k = x := Tbl.get_set_self ..

theorem Core.slotAt_setSlot_other (c : Core) (x : Slot) {k j : Nat} (h : j ≠ k) : (c.setSlot k x).slotAt j = c.slotAt j := Tbl.get_set_ne _ _ _ h

@[simp] theorem State.slotAt_modSlot_self (s : State) (n k : Nat) (f : Slot → Slot) : (s.modSlot n k f).slotAt n k = f (s.slotAt n k) := by
  simp [State.modSlot, State.slotAt]

@[simp] theorem State.thAt_modTh_self (s : State) (n k : Nat) (f : Thread → Thread) : (s.modTh n k f).thAt n k = f (s.thAt n k) := by
  simp [State.modTh, State.thAt]

@[simp] theorem State.hedge_modHedge_self (s : State) (h : Nat) (f : Hedge → Hedge) : (s.modHedge h f).hedge h = f (s.hedge h) := Tbl.get_set_self ..

theorem State.hedge_modHedge_ne (s : State) (f : Hedge → Hedge) {h k : Nat} (e : k ≠ h) : (s.modHedge h f).hedge k = s.hedge k := Tbl.get_set_ne _ _ _ e

@[simp] theorem State.thicket_modThicket_self (s : State) (k : Nat) (f : Thicket → Thicket) : (s.modThicket k f).thicket k = f (s.thicket k) := Tbl.get_set_self ..

theorem State.thicket_modThicket_ne (s : State) (f : Thicket → Thicket) {k j : Nat} (h : j ≠ k) : (s.modThicket k f).thicket j = s.thicket j := Tbl.get_set_ne _ _ _ h

@[simp] theorem State.die_modDie_self (s : State) (d : Nat) (f : Die → Die) : (s.modDie d f).die d = f (s.die d) := Tbl.get_set_self ..

theorem State.die_modDie_ne (s : State) (f : Die → Die) {d e : Nat} (h : e ≠ d) : (s.modDie d f).die e = s.die e := Tbl.get_set_ne _ _ _ h

@[simp] theorem State.pkg_modPkg (s : State) (f : Pkg → Pkg) : (s.modPkg f).pkg = f s.pkg := rfl

@[simp] theorem State.port_modPort_self (s : State) (p : Nat) (f : Port → Port) : (s.modPort p f).port p = f (s.port p) := Tbl.get_set_self ..

end Sys2Proof.Machine
end

