-- ==== Sys2Proof/Tests/Base.lean ====
section
/-! SUPPORT. The states that the tests and witnesses start from, and the checks they share. -/

namespace Sys2Proof.Tests

open Sys2Proof Sys2Proof.Machine

/-- A memory that holds little-endian numbers: address, bytes, number. -/
def memOf (l : List (Nat × Nat × Nat)) : Memory := l.foldl (fun m e => m.setNum e.1 e.2.1 e.2.2) []

/-- The thread of the tests: task 1 in workspace 0 at address 0x1000, in user or system mode. -/
def thOf (sys : Bool) : Thread := { uid := 1, pc := 0x1000, sw := if sys then 0x8000000000000000 else 0 }

/-- Core 0 of the tests: the thread runs in slot 0, w1 to w27 and the rest of local memory hold what the list says. -/
def coreOf (sys : Bool) (l : List (Nat × Nat × Nat)) : Core := {
  lmem := memOf l
  slots := [(0, { st := .running, swp := 1, th := thOf sys })]
  rx2 := [0x77]
  rx3 := [0x88] }

/-- A leaf that maps the first 64 GiB of context 0 to themselves, with every right. -/
def leaf : TlbEntry := { ctx := 0, va := 0, size := 2 ^ 36, frame := 0, x := true, usr := true, w := true, pol := 0 }

/-- A state with one thread on core 0: context 0 maps virtual to physical addresses, the scratch aperture is at 2^36, the
remote region at 2^51, package 1 is a known peer, and hedge 0 is mapped. -/
def mk (sys : Bool) (l : List (Nat × Nat × Nat)) : State := {
  cores := [(0, coreOf sys l)]
  hedges := [(0, {
    tlb := [leaf]
    pmaps := [(0, [32768])] })]
  pkg := {
    apbase := 0x1000000001
    rmbase := 0x8000000000001
    calcfg := 0x8000000000000100
    peers := [(1, 0x8000000000000000)] }
  nextId := 100 }

/-- w1 = a, w2 = b, w3 = c as the list of mk. -/
def regs3 (a b c : Nat) : List (Nat × Nat × Nat) := [(8, 8, a), (16, 8, b), (24, 8, c)]

/-- The checks of Alone, as one test. -/
def aloneB (s : State) : Bool :=
  let x := s.slotAt s.core s.slot
  s.grp == {} && s.late == false && x.st == .running && x.pend == [] && s.bad == [] && swOrd s.th.sw == false
    && swRa s.th.sw == false && decide ((x.comp 0).length ≤ 15) && decide ((x.comp 1).length ≤ 15)

theorem alone_of_test (s : State) (h : aloneB s = true) : Alone s := by
  simp only [aloneB, Bool.and_eq_true, beq_iff_eq, decide_eq_true_eq] at h
  obtain ⟨⟨⟨⟨⟨⟨⟨⟨h1, h2⟩, h3⟩, h4⟩, h5⟩, h6⟩, h7⟩, h8⟩, h9⟩ := h
  exact ⟨⟨h1, h2, h3, h4, h5, h8, h9⟩, h6, h7⟩

/-- The checks of Solo, as one test. -/
def soloB (s : State) : Bool :=
  let x := s.slotAt s.core s.slot
  s.grp == {} && s.late == false && x.st == .running && x.pend == [] && s.bad == []
    && decide ((x.comp 0).length ≤ 15) && decide ((x.comp 1).length ≤ 15)

theorem solo_of_test (s : State) (h : soloB s = true) : Solo s := by
  simp only [soloB, Bool.and_eq_true, beq_iff_eq, decide_eq_true_eq] at h
  obtain ⟨⟨⟨⟨⟨⟨h1, h2⟩, h3⟩, h4⟩, h5⟩, h6⟩, h7⟩ := h
  exact ⟨h1, h2, h3, h4, h5, h6, h7⟩

end Sys2Proof.Tests
end

