-- ==== Sys2Proof/Tests/Slice0.lean ====
section
/-! SUPPORT. Tests of the model on fixed values, each from the spec's own encodings, worked examples and rules. -/

namespace Sys2Proof.Tests

open Sys2Proof Sys2Proof.Machine

set_option Elab.async false

/-- Words of scalar registers laid out bit by bit from the encodings of the spec decode to the instructions they stand for. -/
theorem test_decode_scalar_registers : ([
  (0x828B1400, .add 8 22 5), (0x82F62401, .sub 15 12 9), (0x83613402, .mul 22 2 13), (0x83DBC403, .mulh 29 23 17), (0x8276D404, .mulhu 7 13 21),
  (0x82E1E405, .div 14 3 25), (0x835C7406, .divu 21 24 29), (0x83C70807, .rem 28 14 2), (0x82621808, .remu 6 4 6), (0x82DCA809, .and 13 25 10),
  (0x8347B80A, .andn 20 15 14), (0x83B2C80B, .or 27 5 18), (0x825D580C, .orn 5 26 22), (0x82C8680D, .xor 12 16 26), (0x8333780E, .shl 19 6 30),
  (0x83AD8C0F, .shr 26 27 3), (0x82489C10, .sar 4 17 7), (0x82B3AC11, .rotl 11 7 11), (0x832E3C12, .min 18 28 15), (0x83994C13, .max 25 18 19),
  (0x82345C14, .minu 3 8 23), (0x82AEEC15, .maxu 10 29 27), (0x8319FC16, .seq 17 19 31), (0x83849017, .sne 24 9 4), (0x822F2018, .slt 2 30 8),
  (0x829A3019, .sltu 9 20 12)
] : List (Nat × Instr)).all (fun p => decodeTableWord 32 p.1 == some p.2) = true := by decide +kernel

/-- Words of scalar immediates laid out bit by bit from the encodings of the spec decode to the instructions they stand for. -/
theorem test_decode_scalar_immediates : ([
  (0x85DF7E20, .sel 29 30 31 17), (0x863E4000, .addi 3 28 16384), (0x884DBFFF, .andi 4 27 16383), (0x8A5D7FFF, .ori 5 26 32767), (0x8C6CFFFE, .xori 6 25 32766),
  (0x929B4001, .muli 9 22 16385), (0x8E44803D, .shli 4 9 61), (0x8E55103E, .shri 5 10 62), (0x8E65A03F, .sari 6 11 63), (0x90448800, .slti 4 9 2048),
  (0x905517FF, .sltiu 5 10 2047), (0x95C80000, .li 28 0x80000), (0x9637FFFF, .lsi 3 0x7ffff), (0x99050000, .clz 16 10), (0x997F8001, .ctz 23 31),
  (0x981A8002, .popc 1 21), (0x98858003, .bswap 8 11), (0x98F08404, .lea 15 1 1 0), (0x996B1405, .lea 22 22 5 1), (0x99D62406, .lea 29 12 9 2),
  (0x98713407, .lea 7 2 13 3), (0x98718008, .crd 7 3), (0x9A537E00, .bext 5 6 63 0), (0x9A5301F9, .bins 5 6 0 63)
] : List (Nat × Instr)).all (fun p => decodeTableWord 32 p.1 == some p.2) = true := by decide +kernel

/-- Words of branches and local laid out bit by bit from the encodings of the spec decode to the instructions they stand for. -/
theorem test_decode_branches_and_local : ([
  (0xA00FC000, .bZ 31 16384), (0xA01F4001, .bNz 30 16385), (0xA02EC002, .bLz 29 16386), (0xA03E4003, .bGez 28 16387), (0xA04DC004, .bGz 27 16388),
  (0xA05D4005, .bLez 26 16389), (0xA2080000, .j 0x80000), (0xA417FFFF, .jal 1 0x7ffff), (0xA62FFFFC, .jalr 2 31 0x7ffc), (0xA8048000, .btag 0 9),
  (0xA8050001, .btag 1 10), (0xB01A0800, .ldl 0 1 20 2048), (0xB02A9801, .ldl 1 2 21 2049), (0xB03B2802, .ldl 2 3 22 2050), (0xB04BB803, .ldl 3 4 23 2051),
  (0xB05C4804, .ldl 4 5 24 2052), (0xB06CD805, .ldl 5 6 25 2053), (0xB07D6806, .ldl 6 7 26 2054), (0xB3F087FF, .stl 0 31 1 2047), (0xB3E117FE, .stl 1 30 2 2046),
  (0xB3D1A7FD, .stl 2 29 3 2045), (0xB3C237FC, .stl 3 28 4 2044), (0xB242B000, .stl 3 4 5 0), (0xFA000100, .pfx 0x000100), (0xF8105E00, .csrr 1 0x217),
  (0xF82F12C1, .csrw 2 0x2c4 30), (0xF83EBCC2, .csrs 3 0xcf 29), (0xF84E2A43, .csrc 4 0x24a 28)
] : List (Nat × Instr)).all (fun p => decodeTableWord 32 p.1 == some p.2) = true := by decide +kernel

/-- Words of vector laid out bit by bit from the encodings of the spec decode to the instructions they stand for. -/
theorem test_decode_vector : ([
  (0xE07F8000, .vldl 7 31 0), (0xE0128001, .vstl 1 5 0), (0xE07F8020, .vldl 7 31 2), (0xE0128021, .vstl 1 5 2), (0xE07F83F0, .vldl 7 31 63),
  (0xE01283F1, .vstl 1 5 63), (0xE06E8002, .vbcast 6 29), (0xE1D3FC03, .vext 29 7 31), (0xE07F7C04, .vins 7 30 31), (0xE0718005, .vmov 7 3),
  (0xE2121C00, .vaddF 1 4 7), (0xE2429801, .vsubF 4 5 6), (0xE2731402, .vmulF 7 6 5), (0xE2239003, .vfmaF 2 7 4), (0xE2500C04, .vminF 5 0 3),
  (0xE2008805, .vmaxF 0 1 2), (0xE2310006, .vabsF 3 2), (0xE2618007, .vnegF 6 3), (0xE4121C00, .vaddI 1 4 7), (0xE4429801, .vsubI 4 5 6),
  (0xE4731402, .vmulI 7 6 5), (0xE4239003, .vminI 2 7 4), (0xE4500C04, .vmaxI 5 0 3), (0xE4008805, .vand 0 1 2), (0xE4310406, .vor 3 2 1),
  (0xE4618007, .vxor 6 3 0), (0xE4121C08, .vshl 1 4 7), (0xE4429809, .vshr 4 5 6), (0xE473140A, .vsar 7 6 5), (0xE6239000, .vcmpF 0 2 7 4),
  (0xE6500C01, .vcmpF 1 5 0 3), (0xE6008802, .vcmpF 2 0 1 2), (0xE6310403, .vcmpF 3 3 2 1), (0xE6618004, .vcmpF 4 6 3 0), (0xE6121C05, .vcmpF 5 1 4 7),
  (0xE6429806, .vcmpF 6 4 5 6), (0xE6731408, .vsel 7 6 5), (0xE6629C09, .vcvt 6 5 7), (0xE8238000, .vrcp 2 7), (0xE8500001, .vrsqrt 5 0),
  (0xE8008002, .vexp2 0 1), (0xE8310003, .vlog2 3 2), (0xEB410000, .vredAdd 20 2), (0xEB518001, .vredMax 21 3), (0xEB620002, .vredMin 22 4),
  (0xEA618003, .vscanAdd 6 3), (0xEA121C04, .vcompact 1 4 7), (0xEBD08005, .vargmax 29 1), (0xEBC10006, .vargmin 28 2), (0xEA429807, .vtopk 4 5 6),
  (0xEA730008, .vsort 7 6), (0xEA239009, .vperm 2 7 4), (0xEA20FC0A, .vrevd 2 1 31), (0xEA20900A, .vrevd 2 1 4), (0xEC008000, .awclr 1),
  (0xEC010C01, .awin 2 3), (0xEC429802, .awinm 5 6 4), (0xEC029C03, .vawin 5 7), (0xEC042404, .awadd 8 9), (0xECA58005, .awrd 10 11)
] : List (Nat × Instr)).all (fun p => decodeTableWord 32 p.1 == some p.2) = true := by decide +kernel

/-- Words of global and atomic laid out bit by bit from the encodings of the spec decode to the instructions they stand for. -/
theorem test_decode_global_and_atomic : ([
  (0xC01F0400, .ldg 0 0 1 30 1024), (0xC02F1C01, .ldg 1 1 2 30 1025), (0xC03F2402, .ldg 2 0 3 30 1026), (0xC04F3C03, .ldg 3 1 4 30 1027), (0xC05F4404, .ldg 4 0 5 30 1028),
  (0xC06F5C05, .ldg 5 1 6 30 1029), (0xC07F6406, .ldg 6 0 7 30 1030), (0xC071FBFF, .vldg 1 7 3 1023), (0xC3F00000, .stg 0 0 31 0 0), (0xC3F09801, .stg 1 1 31 1 1),
  (0xC3F12002, .stg 2 0 31 2 2), (0xC3F1B803, .stg 3 1 31 3 3), (0xC261C7FF, .vstg 0 6 3 0x7ff), (0xC4530000, .ldr 0 5 6 0), (0xC4740800, .ldrMig 0 7 8 0),
  (0xC49FC7FF, .str 0 9 31 2047), (0xC4531001, .ldr 1 5 6 1), (0xC4741801, .ldrMig 1 7 8 1), (0xC49FD7FE, .str 1 9 31 2046), (0xC4532002, .ldr 2 5 6 2),
  (0xC4742802, .ldrMig 2 7 8 2), (0xC49FE7FD, .str 2 9 31 2045), (0xC4533003, .ldr 3 5 6 3), (0xC4743803, .ldrMig 3 7 8 3), (0xC49FF7FC, .str 3 9 31 2044),
  (0xC7429890, .amoAdd 1 2 0 20 5 6), (0xC6729980, .amoAdd 0 2 1 7 5 6), (0xC74298D1, .amoAnd 1 3 0 20 5 6), (0xC6729981, .amoAnd 0 2 1 7 5 6), (0xC7429892, .amoOr 1 2 0 20 5 6),
  (0xC6729982, .amoOr 0 2 1 7 5 6), (0xC74298D3, .amoXor 1 3 0 20 5 6), (0xC6729983, .amoXor 0 2 1 7 5 6), (0xC7429894, .amoMin 1 2 0 20 5 6), (0xC6729984, .amoMin 0 2 1 7 5 6),
  (0xC74298D5, .amoMax 1 3 0 20 5 6), (0xC6729985, .amoMax 0 2 1 7 5 6), (0xC7429896, .amoMinu 1 2 0 20 5 6), (0xC6729986, .amoMinu 0 2 1 7 5 6), (0xC74298D7, .amoMaxu 1 3 0 20 5 6),
  (0xC6729987, .amoMaxu 0 2 1 7 5 6), (0xC7429898, .amoSwap 1 2 0 20 5 6), (0xC74298D9, .amoCas 1 3 0 20 5 6), (0xC742989A, .amoIncb 1 2 0 20 5 6), (0xC74298CB, .amoFadd 0 3 0 20 5 6),
  (0xC672998B, .amoFadd 0 2 1 7 5 6), (0xC622E829, .amoCas 2 0 0 2 5 26), (0xC6609010, .amoAdd 1 0 0 6 1 4), (0xC6194116, .amoMinu 1 0 1 1 18 16), (0xC8000000, .fence 0),
  (0xC8000001, .fence 1), (0xC8000002, .fence 2), (0xC8000003, .fence 3), (0xC8000004, .fence 4), (0xC8000005, .fence 5),
  (0xC8000006, .fenceI), (0xC87F8007, .pf 7 31), (0xCA320000, .tlook 3 4), (0xCA321401, .tfill 3 4 5), (0xCA320002, .tinv 3 4)
] : List (Nat × Instr)).all (fun p => decodeTableWord 32 p.1 == some p.2) = true := by decide +kernel

/-- Words of parallel laid out bit by bit from the encodings of the spec decode to the instructions they stand for. -/
theorem test_decode_parallel : ([
  (0xD0000001, .send 1), (0xD0000000, .send 0), (0xD0049C02, .sendv 0 9 7), (0xD0049C03, .sendv 1 9 7), (0xD3D00000, .tset 29 0),
  (0xD3D08001, .tclr 29 1), (0xD3D10002, .tpend 29 2), (0xD4320000, .tcreate 3 4), (0xD4721401, .tdec 7 4 5), (0xD4000002, .texit),
  (0xD4000003, .yield), (0xD6320000, .launch 3 4), (0xD6320001, .join 3 4), (0xD6320002, .bar 3 4), (0xD6511003, .waitw 5 2 4),
  (0xD8EA3400, .enq 14 20 13), (0xD8EA3401, .deq 14 20 13), (0xDA320000, .spawna 3 4), (0xDA000001, .baton), (0xDA720002, .scwait 7 4),
  (0xDC021400, .mbxIns 4 5), (0xDC320001, .mbxRd 3 4), (0xDC021402, .mbxClr 4 5)
] : List (Nat × Instr)).all (fun p => decodeTableWord 32 p.1 == some p.2) = true := by decide +kernel

/-- Words of system and jobs laid out bit by bit from the encodings of the spec decode to the instructions they stand for. -/
theorem test_decode_system_and_jobs : ([
  (0xF0531C00, .job 0 5 6 7), (0xF0531C01, .jobNb 0 5 6 7), (0xF0531C10, .job 1 5 6 7), (0xF0531C11, .jobNb 1 5 6 7), (0xF0531C20, .job 2 5 6 7),
  (0xF0531C21, .jobNb 2 5 6 7), (0xF0531C30, .job 3 5 6 7), (0xF0531C31, .jobNb 3 5 6 7), (0xF0531C40, .job 4 5 6 7), (0xF0531C41, .jobNb 4 5 6 7),
  (0xF0531C10, .job 1 5 6 7), (0xF0828002, .jwait 8 5), (0xF092A803, .jpoll 9 5 10), (0xF0320004, .jcancel 3 4), (0xF8321404, .swp 3 4 5),
  (0xF8321405, .resume 3 4 5), (0xF8007FE6, .trap 1023), (0xF8000406, .trap 1), (0xF8000007, .brk), (0xF8000008, .rft),
  (0xF80B0009, .park 22), (0xFC000000, .qsync), (0xFC500001, .qstat 5)
] : List (Nat × Instr)).all (fun p => decodeTableWord 32 p.1 == some p.2) = true := by decide +kernel

/-- Words of engine words laid out bit by bit from the encodings of the spec decode to the instructions they stand for. -/
theorem test_decode_engine_words : ([
  (0x0001, .engNop), (0x0002, .end_), (0x0003, .dup), (0x0004, .drop), (0x0005, .engSwap),
  (0x0006, .engOver), (0x0007, .rot), (0x0008, .engAdd), (0x0009, .engSub), (0x000A, .engMul),
  (0x000B, .engShl), (0x000C, .engShr), (0x000D, .engAnd), (0x000E, .engOr), (0x000F, .ldp),
  (0x0010, .stp), (0x0011, .sig), (0x0012, .skz), (0x0400, .mmFmt), (0x0401, .mmScale),
  (0x0402, .mmGeo), (0x0403, .mmA), (0x0404, .mmB), (0x0405, .mmAcc), (0x0406, .mmRound),
  (0x0407, .mmDrain), (0x0408, .mmDrainla), (0x0409, .mmDrainmb), (0x040A, .mmRun), (0x040B, .mmRing),
  (0x040C, .mmGmm), (0x0800, .bfLen), (0x0801, .bfSched), (0x0802, .bfLoad), (0x0803, .bfStage),
  (0x0804, .bfPass), (0x0805, .bfTwid), (0x0806, .bfCmul), (0x0807, .bfStore), (0x0C00, .cpDim),
  (0x0C01, .cpGo), (0x0C02, .cpFill), (0x0C03, .cpGath), (0x0C04, .cpScat), (0x0C05, .cpCvt),
  (0x0C06, .cpClr), (0x1000, .rtCfg), (0x1001, .rtBind), (0x1002, .rtCap), (0x1003, .rtRun),
  (0x1004, .rtEmit), (0x1005, .rtStat), (0x1400, .clGrp), (0x1401, .clRs), (0x1402, .clAg),
  (0x1403, .clChain), (0x1404, .clGo), (0x1800, .lgGate), (0x1801, .lgRun), (0x1802, .lgPf),
  (0x1C00, .exSet), (0x1C01, .exPin), (0x1C02, .exEvict), (0x1C03, .exRep), (0x8000, .lit 0),
  (0xFFFF, .lit 0x7fff), (0x4000, .ext 0), (0x7FFF, .ext 0x3fff)
] : List (Nat × Instr)).all (fun p => decodeTableWord 16 p.1 == some p.2) = true := by decide +kernel

/-- For every check of an instruction's fields a term that breaks it alone: the check refuses it (R26, R28, R29, R78, R80, R197). -/
theorem test_ill_formed : ([
  .add 30 1 1, .sub 30 1 1, .mul 30 1 1, .mulh 30 1 1, .mulhu 30 1 1, .div 30 1 1, .divu 30 1 1,
  .rem 30 1 1, .remu 30 1 1, .and 30 1 1, .andn 30 1 1, .or 30 1 1, .orn 30 1 1, .xor 30 1 1,
  .shl 30 1 1, .shr 30 1 1, .sar 30 1 1, .rotl 30 1 1, .min 30 1 1, .max 30 1 1, .minu 30 1 1,
  .maxu 30 1 1, .seq 30 1 1, .sne 30 1 1, .slt 30 1 1, .sltu 30 1 1, .sel 30 1 1 1, .addi 30 1 0,
  .andi 30 1 0, .ori 30 1 0, .xori 30 1 0, .muli 30 1 0, .shli 30 1 0, .shri 30 1 0, .sari 30 1 0,
  .slti 30 1 0, .sltiu 30 1 0, .li 30 0, .lsi 30 0, .clz 30 1, .ctz 30 1, .popc 30 1,
  .bswap 30 1, .lea 30 1 1 0, .crd 30 0, .crd 1 4, .bext 30 1 0 0, .bext 1 1 63 1, .bins 30 1 0 0,
  .bins 1 1 63 1, .jal 30 0, .jalr 30 1 0, .ldl 0 30 1 0, .ldl 7 1 1 0, .stl 4 1 1 0, .pfx 0x1,
  .pfx 0xC00, .pfx 0x300, .pfx 0x380, .pfx 0x60, .pfx 0xC00000, .pfx 0xC0000, .pfx 0xC000,
  .csrr 30 0, .csrr 1 0x26, .csrw 30 0 1, .csrw 1 0x26 1, .csrs 30 0 1, .csrs 1 0x26 1, .csrc 30 0 1,
  .csrc 1 0x26 1, .registerWrite 16384 0 0, .registerWrite 0 0x26 0, .vldl 8 1 0, .vstl 8 1 0, .vbcast 8 1, .vext 30 1 1,
  .vext 1 8 1, .vins 8 1 1, .vmov 8 1, .vmov 1 8, .vaddF 8 1 1, .vaddF 1 8 1, .vaddF 1 1 8,
  .vsubF 8 1 1, .vsubF 1 8 1, .vsubF 1 1 8, .vmulF 8 1 1, .vmulF 1 8 1, .vmulF 1 1 8, .vfmaF 8 1 1,
  .vfmaF 1 8 1, .vfmaF 1 1 8, .vminF 8 1 1, .vminF 1 8 1, .vminF 1 1 8, .vmaxF 8 1 1, .vmaxF 1 8 1,
  .vmaxF 1 1 8, .vabsF 8 1, .vabsF 1 8, .vnegF 8 1, .vnegF 1 8, .vaddI 8 1 1, .vaddI 1 8 1,
  .vaddI 1 1 8, .vsubI 8 1 1, .vsubI 1 8 1, .vsubI 1 1 8, .vmulI 8 1 1, .vmulI 1 8 1, .vmulI 1 1 8,
  .vminI 8 1 1, .vminI 1 8 1, .vminI 1 1 8, .vmaxI 8 1 1, .vmaxI 1 8 1, .vmaxI 1 1 8, .vand 8 1 1,
  .vand 1 8 1, .vand 1 1 8, .vor 8 1 1, .vor 1 8 1, .vor 1 1 8, .vxor 8 1 1, .vxor 1 8 1,
  .vxor 1 1 8, .vshl 8 1 1, .vshl 1 8 1, .vshl 1 1 8, .vshr 8 1 1, .vshr 1 8 1, .vshr 1 1 8,
  .vsar 8 1 1, .vsar 1 8 1, .vsar 1 1 8, .vcmpF 0 8 1 1, .vcmpF 0 1 8 1, .vcmpF 0 1 1 8, .vcmpF 7 1 1 1,
  .vsel 8 1 1, .vsel 1 8 1, .vsel 1 1 8, .vcvt 8 1 0, .vcvt 1 8 0, .vcvt 1 1 8, .vrcp 8 1,
  .vrcp 1 8, .vrsqrt 8 1, .vrsqrt 1 8, .vexp2 8 1, .vexp2 1 8, .vlog2 8 1, .vlog2 1 8,
  .vredAdd 30 1, .vredAdd 1 8, .vscanAdd 8 1, .vscanAdd 1 8, .vredMax 30 1, .vredMax 1 8, .vredMin 30 1,
  .vredMin 1 8, .vargmax 30 1, .vargmax 1 8, .vargmin 30 1, .vargmin 1 8, .vsort 8 1, .vsort 1 8,
  .vcompact 8 1 1, .vcompact 1 8 1, .vcompact 1 1 8, .vtopk 8 1 1, .vtopk 1 8 1, .vtopk 1 1 8, .vperm 8 1 1,
  .vperm 1 8 1, .vperm 1 1 8, .vrevd 8 1 1, .vrevd 1 8 1, .vawin 1 8, .awrd 30 1, .sendv 0 1 8,
  .tset 30 1, .tclr 30 1, .tpend 30 1, .tcreate 30 1, .tdec 8 1 1, .launch 30 1, .join 30 1,
  .bar 30 1, .waitw 30 1 1, .enq 30 1 1, .deq 30 1 1, .spawna 30 1, .scwait 8 1, .mbxRd 30 1,
  .ldg 0 0 30 1 0, .ldg 7 0 1 1 0, .vldg 0 8 1 0, .vstg 0 8 1 0, .ldr 0 30 1 0, .ldrMig 0 30 1 0, .amoAdd 3 0 0 2 1 2,
  .amoAdd 0 0 0 30 1 2, .amoAdd 2 0 0 2 1 2, .amoAdd 0 0 1 8 1 2, .amoAdd 0 1 1 7 1 2, .amoAdd 0 3 1 7 1 2, .amoAnd 3 0 0 2 1 2, .amoAnd 0 0 0 30 1 2,
  .amoAnd 2 0 0 2 1 2, .amoAnd 0 0 1 8 1 2, .amoAnd 0 1 1 7 1 2, .amoAnd 0 3 1 7 1 2, .amoOr 3 0 0 2 1 2, .amoOr 0 0 0 30 1 2, .amoOr 2 0 0 2 1 2,
  .amoOr 0 0 1 8 1 2, .amoOr 0 1 1 7 1 2, .amoOr 0 3 1 7 1 2, .amoXor 3 0 0 2 1 2, .amoXor 0 0 0 30 1 2, .amoXor 2 0 0 2 1 2, .amoXor 0 0 1 8 1 2,
  .amoXor 0 1 1 7 1 2, .amoXor 0 3 1 7 1 2, .amoMin 3 0 0 2 1 2, .amoMin 0 0 0 30 1 2, .amoMin 2 0 0 2 1 2, .amoMin 0 0 1 8 1 2, .amoMin 0 1 1 7 1 2,
  .amoMin 0 3 1 7 1 2, .amoMax 3 0 0 2 1 2, .amoMax 0 0 0 30 1 2, .amoMax 2 0 0 2 1 2, .amoMax 0 0 1 8 1 2, .amoMax 0 1 1 7 1 2, .amoMax 0 3 1 7 1 2,
  .amoMinu 3 0 0 2 1 2, .amoMinu 0 0 0 30 1 2, .amoMinu 2 0 0 2 1 2, .amoMinu 0 0 1 8 1 2, .amoMinu 0 1 1 7 1 2, .amoMinu 0 3 1 7 1 2, .amoMaxu 3 0 0 2 1 2,
  .amoMaxu 0 0 0 30 1 2, .amoMaxu 2 0 0 2 1 2, .amoMaxu 0 0 1 8 1 2, .amoMaxu 0 1 1 7 1 2, .amoMaxu 0 3 1 7 1 2, .amoSwap 3 0 0 2 1 2, .amoSwap 0 0 0 30 1 2,
  .amoSwap 2 0 0 2 1 2, .amoSwap 0 0 1 1 1 2, .amoCas 3 0 0 2 1 2, .amoCas 0 0 0 30 1 2, .amoCas 2 0 0 3 1 2, .amoCas 2 0 0 0 1 2, .amoCas 2 0 0 28 1 2,
  .amoCas 2 0 0 2 1 3, .amoCas 2 0 0 2 1 0, .amoCas 2 0 0 2 1 28, .amoCas 0 0 1 1 1 2, .amoIncb 3 0 0 2 1 2, .amoIncb 0 0 0 30 1 2, .amoIncb 2 0 0 2 1 2,
  .amoIncb 0 0 1 1 1 2, .amoFadd 3 0 0 2 1 2, .amoFadd 0 0 0 30 1 2, .amoFadd 2 0 0 2 1 2, .amoFadd 1 0 0 2 1 2, .amoFadd 0 0 1 8 1 2, .amoFadd 0 1 1 7 1 2,
  .amoFadd 0 3 1 7 1 2, .fence 6, .pf 8 1, .tlook 30 1, .tfill 30 1 1, .tinv 30 1, .job 0 30 1 1,
  .job 5 1 1 1, .jobNb 0 30 1 1, .jobNb 5 1 1 1, .jwait 30 1, .jpoll 30 1 1, .jcancel 30 1, .qstat 30,
  .swp 30 1 1, .resume 30 1 1, .taskStart 4096 0, .taskStart 0 4, .taskAging 4096 0, .budgetExpiry 4096 0, .budgetExpiry 0 4,
  .heldMessageDispatch 4096, .guestReturn 4096 0, .guestReturn 0 4, .readyListInsert 4096, .launchPlacement 4, .jobStart 772 0, .jobStart 0 5,
  .translationWalk 256 0 0, .shootdownInvalidation 256, .remoteTranslationRequest 128 0 0 0, .sccfgWrite 4096 0, .mbcfgWrite 4096 0, .optportWrite 16 0, .peerClear 128,
  .droopLoop 256 true, .opticalEqualisation 16, .hbmRecalibration 12, .lookaheadThreshold 4, .frameMark 16 0, .frameMark 0 8, .marksMissed 16,
  .frameTransmit 16, .frameReceive 16 true 0 [], .portLost 16, .sequenceAck 128 0, .sequenceAck 0 2, .retransmitTimeout 128 0 0, .retransmitTimeout 0 2 0,
  .helloSend 128, .helloReceive 128 0 0, .peerTimeout 128, .hostRead 0 128, .hostRead 64 256, .hostRead 0xC000000000 64, .hostWrite 32 0 0,
  .hostWrite 0xC000000000 0 0, .hostAtomic 4 0 0 0 0, .hostAtomic 0 2 0 0 0, .hostAtomic 0 1 4 0 0, .hostAtomic 0 0 0xC000000000 0 0, .hostEnqueue 32 0 0, .hostEnqueue 0xC000000000 0 0,
  .hostEnqueue 0 65536 0, .hostCsrrd 16384 0, .hostCsrrd 0 0x26, .hostCsrwr 16384 0 0, .hostCsrwr 0 0x26 0, .resultCompletion 4096 0, .resultCompletion 0 4] : List Instr).all (fun i => i.wf == false) = true := by decide +kernel

/-- Every checked field at its highest legal value is well formed. -/
theorem test_well_formed : ([
  .add 29 1 1, .sub 29 1 1, .mul 29 1 1, .mulh 29 1 1, .mulhu 29 1 1, .div 29 1 1, .divu 29 1 1,
  .rem 29 1 1, .remu 29 1 1, .and 29 1 1, .andn 29 1 1, .or 29 1 1, .orn 29 1 1, .xor 29 1 1,
  .shl 29 1 1, .shr 29 1 1, .sar 29 1 1, .rotl 29 1 1, .min 29 1 1, .max 29 1 1, .minu 29 1 1,
  .maxu 29 1 1, .seq 29 1 1, .sne 29 1 1, .slt 29 1 1, .sltu 29 1 1, .sel 29 1 1 1, .addi 29 1 0,
  .andi 29 1 0, .ori 29 1 0, .xori 29 1 0, .muli 29 1 0, .shli 29 1 0, .shri 29 1 0, .sari 29 1 0,
  .slti 29 1 0, .sltiu 29 1 0, .li 29 0, .lsi 29 0, .clz 29 1, .ctz 29 1, .popc 29 1,
  .bswap 29 1, .lea 29 1 1 0, .crd 29 3, .bext 29 1 63 0, .bins 29 1 63 0, .jal 29 0, .jalr 29 1 0,
  .ldl 6 29 1 0, .stl 3 1 1 0, .pfx 0xBBB940, .csrr 29 0x2C4, .csrw 29 0x2C4 1, .csrs 29 0x2C4 1, .csrc 29 0x2C4 1,
  .registerWrite 16383 0x2C4 0, .vldl 7 1 0, .vstl 7 1 0, .vbcast 7 1, .vext 29 7 1, .vins 7 1 1, .vmov 7 7,
  .vaddF 7 7 7, .vsubF 7 7 7, .vmulF 7 7 7, .vfmaF 7 7 7, .vminF 7 7 7, .vmaxF 7 7 7, .vabsF 7 7,
  .vnegF 7 7, .vaddI 7 7 7, .vsubI 7 7 7, .vmulI 7 7 7, .vminI 7 7 7, .vmaxI 7 7 7, .vand 7 7 7,
  .vor 7 7 7, .vxor 7 7 7, .vshl 7 7 7, .vshr 7 7 7, .vsar 7 7 7, .vcmpF 6 7 7 7, .vsel 7 7 7,
  .vcvt 7 7 7, .vrcp 7 7, .vrsqrt 7 7, .vexp2 7 7, .vlog2 7 7, .vredAdd 29 7, .vscanAdd 7 7,
  .vredMax 29 7, .vredMin 29 7, .vargmax 29 7, .vargmin 29 7, .vsort 7 7, .vcompact 7 7 7, .vtopk 7 7 7,
  .vperm 7 7 7, .vrevd 7 7 1, .vawin 1 7, .awrd 29 1, .sendv 0 1 7, .tset 29 1, .tclr 29 1,
  .tpend 29 1, .tcreate 29 1, .tdec 7 1 1, .launch 29 1, .join 29 1, .bar 29 1, .waitw 29 1 1,
  .enq 29 1 1, .deq 29 1 1, .spawna 29 1, .scwait 7 1, .mbxRd 29 1, .ldg 6 0 29 1 0, .vldg 0 7 1 0,
  .vstg 0 7 1 0, .ldr 0 29 1 0, .ldrMig 0 29 1 0, .amoAdd 0 2 1 7 1 2, .amoAdd 0 3 0 29 1 31, .amoAnd 0 2 1 7 1 2, .amoAnd 0 3 0 29 1 31,
  .amoOr 0 2 1 7 1 2, .amoOr 0 3 0 29 1 31, .amoXor 0 2 1 7 1 2, .amoXor 0 3 0 29 1 31, .amoMin 0 2 1 7 1 2, .amoMin 0 3 0 29 1 31, .amoMax 0 2 1 7 1 2,
  .amoMax 0 3 0 29 1 31, .amoMinu 0 2 1 7 1 2, .amoMinu 0 3 0 29 1 31, .amoMaxu 0 2 1 7 1 2, .amoMaxu 0 3 0 29 1 31, .amoSwap 0 3 0 29 1 31, .amoCas 2 0 0 2 1 26,
  .amoCas 0 3 0 29 1 31, .amoIncb 0 3 0 29 1 31, .amoFadd 0 2 1 7 1 2, .amoFadd 0 3 0 29 1 31, .fence 5, .pf 7 1, .tlook 29 1,
  .tfill 29 1 1, .tinv 29 1, .job 4 29 1 1, .jobNb 4 29 1 1, .jwait 29 1, .jpoll 29 1 1, .jcancel 29 1,
  .qstat 29, .swp 29 1 1, .resume 29 1 1, .taskStart 4095 3, .taskAging 4095 0, .budgetExpiry 4095 3, .heldMessageDispatch 4095,
  .guestReturn 4095 3, .readyListInsert 4095, .launchPlacement 3, .jobStart 771 4, .translationWalk 255 0 0, .shootdownInvalidation 255, .remoteTranslationRequest 127 0 0 0,
  .sccfgWrite 4095 0, .mbcfgWrite 4095 0, .optportWrite 15 0, .peerClear 127, .droopLoop 255 true, .opticalEqualisation 15, .hbmRecalibration 11,
  .lookaheadThreshold 3, .frameMark 15 7, .marksMissed 15, .frameTransmit 15, .frameReceive 15 true 0 [], .portLost 15, .sequenceAck 127 1,
  .retransmitTimeout 127 1 0, .helloSend 127, .helloReceive 127 0 0, .peerTimeout 127, .hostRead 0xBFFFFFFFC0 64, .hostWrite 64 0 0, .hostAtomic 9 1 8 0 0,
  .hostEnqueue 0 65535 0, .hostCsrrd 16383 0x2C4, .hostCsrwr 16383 0x2C4 0, .resultCompletion 4095 3] : List Instr).all (fun i => i.wf == true) = true := by decide +kernel

/-- Register r of the test thread after one instruction on a small state. -/
def regAfter (i : Instr) (s : State) (r : Nat) : Option Word :=
  match exec i s with
  | .next t => some ((t.coreAt 0).reg 0 r)
  | _ => none

/-- Vector register r of the test thread after one instruction. -/
def vregAfter (i : Instr) (s : State) (r : Nat) : Option Vec :=
  match exec i s with
  | .next t => some ((t.coreAt 0).vreg 0 r)
  | _ => none

/-- PC of the test thread after one instruction. -/
def pcAfter (i : Instr) (s : State) : Option Word :=
  match exec i s with
  | .next t => some (t.thAt 0 0).pc
  | _ => none

/-- The cause that a trap records in the system workspace after one instruction: code, access and number of R348. -/
def causeAfter (i : Instr) (s : State) : Option Word :=
  match exec i s with
  | .next t => some ((t.coreAt 0).word (1024 + 800))
  | _ => none

/-! ### The examples of 04 -/

/-- div of −7 by 2 gives −3 and rem −1; divu of 7 by 0 gives all ones and remu 7 (R63). -/
theorem test_division : regAfter (.div 5 1 2) (mk false (regs3 (2 ^ 64 - 7) 2 0)) 5 = some (-3)
    ∧ regAfter (.rem 5 1 2) (mk false (regs3 (2 ^ 64 - 7) 2 0)) 5 = some (-1)
    ∧ regAfter (.divu 5 1 2) (mk false (regs3 7 0 0)) 5 = some 0xFFFFFFFFFFFFFFFF ∧ regAfter (.remu 5 1 2) (mk false (regs3 7 0 0)) 5 = some 7 := by
  and_intros <;> decide +kernel

/-- sel tests every bit of C (R64); min and max take the signed order (R62); a source that is also the destination. -/
theorem test_select : regAfter (.sel 1 1 2 3) (mk false (regs3 5 6 (2 ^ 63))) 1 = some 5 ∧ regAfter (.sel 5 1 2 3) (mk false (regs3 5 6 0)) 5 = some 6
    ∧ regAfter (.min 5 1 2) (mk false (regs3 (2 ^ 63) 1 0)) 5 = some 0x8000000000000000 ∧ regAfter (.maxu 2 1 2) (mk false (regs3 (2 ^ 63) 1 0)) 2 = some 0x8000000000000000 := by
  and_intros <;> decide +kernel

/-- Sums wrap (R62), mulh keeps the sign, sar shifts in the sign with B mod 64. -/
theorem test_wrap : regAfter (.add 5 1 2) (mk false (regs3 (2 ^ 64 - 1) 2 0)) 5 = some 1 ∧ regAfter (.mulh 5 1 2) (mk false (regs3 (2 ^ 64 - 1) 2 0)) 5 = some (-1)
    ∧ regAfter (.mulhu 5 1 2) (mk false (regs3 (2 ^ 64 - 1) 2 0)) 5 = some 1 ∧ regAfter (.sar 5 1 2) (mk false (regs3 (2 ^ 63) 64 0)) 5 = some 0x8000000000000000 := by
  and_intros <;> decide +kernel

/-- The two ends of the loop of 04: `b.nz w1, -2` at 0x1000 with w1 = 1 goes to 0xFF8, with w1 = 0 to 0x1004 (R72). -/
theorem test_branch : pcAfter (.bNz 1 (-2)) (mk false (regs3 1 0 0)) = some 0xFF8 ∧ pcAfter (.bNz 1 (-2)) (mk false []) = some 0x1004
    ∧ regAfter (.jal 5 16) (mk false []) 5 = some 0x1004 ∧ pcAfter (.jal 5 16) (mk false []) = some 0x1040 := by
  and_intros <;> decide +kernel

/-- A jump to 2^55 takes the address trap, code 4, and to an odd address the align trap, code 5; the trap enters system mode in the
slot's system workspace (R75, R346, R348). -/
theorem test_jump_traps : (causeAfter (.jalr 5 1 0) (mk false (regs3 (2 ^ 55) 0 0))).map (fun w => bits w 5 0) = some 4
    ∧ (causeAfter (.jalr 5 1 1) (mk false (regs3 0x2000 0 0))).map (fun w => bits w 5 0) = some 5
    ∧ (match exec (.jalr 5 1 1) (mk false (regs3 0x2000 0 0)) with
      | .next t => (t.thAt 0 0).wp == 1 && (t.thAt 0 0).sys && (t.coreAt 0).word (1024 + 784) == 0x1000 && (t.coreAt 0).reg 0 5 == 0
      | _ => false) = true := by
  and_intros <;> decide +kernel

/-- li sign-extends 20 bits; lsi shifts them in: li w5, -1 and lsi w5, 0x6789A (R66). -/
theorem test_immediates : regAfter (.li 5 0x80000) (mk false []) 5 = some 0xFFFFFFFFFFF80000
    ∧ regAfter (.lsi 1 0x6789A) (mk false (regs3 0x12345 0 0)) 1 = some 0x123456789A ∧ regAfter (.bext 5 1 37 5) (mk false (regs3 0x7E000000000 0 0)) 5 = some 0x3F
    ∧ regAfter (.bswap 5 1) (mk false (regs3 0x0102030405060708 0 0)) 5 = some 0x0807060504030201 := by
  and_intros <;> decide +kernel

/-- Little-endian loads with sign (R8, R76); a store past the last byte takes the align or address trap and stores nothing. -/
theorem test_local : regAfter (.ldl 2 5 1 6) (mk false [(4096, 8, 0x1122334485667788), (8, 8, 4096)]) 5 = some 0x1122
    ∧ regAfter (.ldl 1 5 1 3) (mk false [(4096, 8, 0x1122334485667788), (8, 8, 4096)]) 5 = some 0xFFFFFFFFFFFFFF85
    ∧ (causeAfter (.stl 3 2 1 0) (mk false (regs3 131072 5 0))).map (fun w => bits w 5 0) = some 4
    ∧ (causeAfter (.stl 3 2 1 0) (mk false (regs3 131065 5 0))).map (fun w => bits w 5 0) = some 4 := by
  and_intros <;> decide +kernel

/-! ### The examples of 05 -/

/-- 2^100 into an empty accumulator sets word 6 to 2^36, the bit 420 (R105). -/
theorem test_awin : (match exec (.awin 1 2) (mk false (regs3 0x3000 0x71800000 0)) with
    | .next t => (t.coreAt 0).word 0x3030 == 0x1000000000 && (t.coreAt 0).word 0x3028 == 0
    | _ => false) = true := by decide +kernel

/-- An accumulator that holds 1 reads as 1.0 without a flag (R105). -/
theorem test_awrd : (match exec (.awrd 5 1) (mk false ((0x3028, 8, 1) :: regs3 0x3000 0 0)) with
    | .next t => (t.coreAt 0).reg 0 5 == 0x3F800000 && (t.thAt 0 0).sw == 0
    | _ => false) = true := by decide +kernel

/-- A vector register of sixteen 32-bit lanes. -/
def lanes16 (l : List Nat) : Nat := l.zipIdx.foldl (fun n x => n + x.1 * 2 ^ (32 * x.2)) 0

/-- The sixteen INT32 lanes 0..15 with w4 = 0xCA: 0, 2, 4, ..., 14, 1, 3, ..., 15 (R103). -/
theorem test_vrevd : vregAfter (.vrevd 2 1 4) (mk false [(320, 64, lanes16 (List.range 16)), (32, 8, 0xCA)]) 2
    = some (BitVec.ofNat 512 (lanes16 [0, 2, 4, 6, 8, 10, 12, 14, 1, 3, 5, 7, 9, 11, 13, 15])) := by decide +kernel

/-- 1.0 + 1.0 in every FP32 lane is 2.0; 2^100 + 1 is 2^100 and sets nx (R89, 05). -/
theorem test_vadd : vregAfter (.vaddF 2 1 1) (mk false [(320, 64, lanes16 (List.replicate 16 0x3F800000))]) 2 = some (BitVec.ofNat 512 (lanes16 (List.replicate 16 0x40000000)))
    ∧ (match exec (.vaddF 2 1 3) (mk false [(320, 4, 0x71800000), (448, 4, 0x3F800000)]) with
      | .next t => (t.coreAt 0).vreg 0 2 == 0x71800000 && (t.thAt 0 0).sw != 0
      | _ => false) = true := by
  and_intros <;> decide +kernel

/-! ### Traps, control registers and engine words -/

/-- trap 5 from user mode: code 16 with the number as info, TPC past it, system mode (R346-R348). -/
theorem test_trap : (causeAfter (.trap 5) (mk false [])).map (fun w => bits w 5 0) = some 16
    ∧ (match exec (.trap 5) (mk false []) with
      | .next t => (t.thAt 0 0).sys && (t.coreAt 0).word (1024 + 784) == 0x1004
      | _ => false) = true := by
  and_intros <;> decide +kernel

/-- rft in user mode takes the privilege trap, code 3 (R353). -/
theorem test_rft_user : (causeAfter .rft (mk false [])).map (fun w => bits w 5 0) = some 3 := by decide +kernel

/-- A running job with two operands whose word comes next. -/
def jobState (stack : List Word) : State := { mk false [] with jobs := [{ id := 65537, order := 5, st := .running, stack := stack }], job := 5 }

/-- `lit 0`, `lit 5`, `sub` forms −5 (R258); rot brings the third word to the top; a word that finds too few operands is fault 6. -/
theorem test_engine_words : (match exec .engSub (jobState [5, 0]) with | .next t => (t.jobNo 5).map (fun j => j.stack) | _ => none) = some [-5]
    ∧ (match exec .rot (jobState [3, 2, 1]) with | .next t => (t.jobNo 5).map (fun j => j.stack) | _ => none) = some [1, 3, 2]
    ∧ (match exec .engAdd (jobState [1]) with | .next t => (t.jobNo 5).map (fun j => (j.code, j.finished)) | _ => none) = some (6, true) := by
  and_intros <;> decide +kernel

end Sys2Proof.Tests
end

