-- ==== Sys2Proof/Tests/WitnessCore.lean ====
section
/-! SUPPORT. Witnesses for the statements about instructions of a core that stay within it: for each statement a concrete
state and operands that meet all its hypotheses together, at the edges of their ranges. -/

namespace Sys2Proof.Tests

open Sys2Proof Sys2Proof.Machine

set_option Elab.async false

/-- ScalarResults, ScalarRegisterFile: a general destination, w0, and a port that is read and one that is written. -/
theorem wit_scalar : aloneB (mk false (regs3 7 9 0)) = true
    ∧ (Instr.add 27 1 2).wf = true ∧ scalarRule (mk false (regs3 7 9 0)) (.add 27 1 2) = some ([1, 2], 27, 16) ∧ (mk false (regs3 7 9 0)).fed [1, 2]
    ∧ (Instr.sub 0 1 2).wf = true ∧ scalarRule (mk false (regs3 7 9 0)) (.sub 0 1 2) = some ([1, 2], 0, -2)
    ∧ (Instr.add 29 30 31).wf = true ∧ scalarRule (mk false (regs3 7 9 0)) (.add 29 30 31) = some ([30, 31], 29, 0xFF)
    ∧ (mk false (regs3 7 9 0)).fed [30, 31]
    ∧ Leaves (exec (.add 27 1 2) (mk false (regs3 7 9 0))) (fun _ => True) := by
  refine ⟨?_, ?_, ?_, ?_, ?_, ?_, ?_, ?_, ?_, ⟨_, rfl, trivial⟩⟩ <;> decide +kernel

/-- DivisionLaw: a zero divisor, and the most negative number over −1. -/
theorem wit_division : aloneB (mk false (regs3 (2 ^ 63) (2 ^ 64 - 1) 0)) = true ∧ (Instr.div 0 1 2).wf = true
    ∧ (Instr.div 29 30 0).wf = true ∧ (mk false (regs3 (2 ^ 63) (2 ^ 64 - 1) 0)).fed [1, 2]
    ∧ (mk false (regs3 (2 ^ 63) (2 ^ 64 - 1) 0)).fed [30, 0]
    ∧ (∃ a b : Word, b ≠ 0 ∧ ¬(a = BitVec.intMin 64 ∧ b = -1)) := by
  refine ⟨?_, ?_, ?_, ?_, ?_, 0x8000000000000000, 1, ?_, ?_⟩ <;> decide +kernel

/-- BitOperations: the word zero, one bit at each end, the whole word as a field and a field of one bit. -/
theorem wit_bits : (∃ x : Word, x = 0) ∧ (∃ x : Word, x ≠ 0) ∧ (∃ pos len : Nat, pos + len < 64 ∧ len = 63) ∧ ∃ pos len : Nat, pos + len < 64 ∧ pos = 63 :=
  ⟨⟨0, rfl⟩, ⟨1, by decide⟩, ⟨0, 63, by decide⟩, ⟨63, 0, by decide⟩⟩

/-- BranchResults: a taken branch to the lowest address, one not taken, and jalr through a port. -/
theorem wit_branch : aloneB (mk false (regs3 0 5 0)) = true
    ∧ branchRule (mk false (regs3 0 5 0)) (.bZ 1 (-0x400)) = some ([1], none, some 0) ∧ targetOk 0 ∧ (mk false (regs3 0 5 0)).fed [1]
    ∧ branchRule (mk false (regs3 0 5 0)) (.bZ 2 (-0x400)) = some ([2], none, none)
    ∧ (Instr.jalr 29 30 1).wf = true ∧ branchRule (mk false (regs3 0 5 0)) (.jalr 29 30 1) = some ([30], some (29, 0x1004), some 0x78) ∧ targetOk 0x78
    ∧ (mk false (regs3 0 5 0)).fed [30] := by
  and_intros <;> decide +kernel

/-- BranchTraps: a target below zero, one that is not canonical and one that is not aligned. -/
theorem wit_branch_trap : aloneB (mk false (regs3 (2 ^ 55 - 2) 0x1002 0)) = true
    ∧ branchRule (mk false (regs3 0 0 0)) (.j 0x80000) = some ([], none, some (-0x1FF000)) ∧ ¬targetOk (-0x1FF000)
    ∧ branchRule (mk false (regs3 (2 ^ 55 - 2) 0 0)) (.jalr 0 1 2) = some ([1], some (0, 0x1004), some (2 ^ 55)) ∧ ¬targetOk (2 ^ 55)
    ∧ branchRule (mk false (regs3 0 0x1002 0)) (.jalr 0 2 0) = some ([2], some (0, 0x1004), some 0x1002) ∧ ¬targetOk 0x1002
    ∧ (mk false (regs3 0 0 0)).fed [1] := by
  and_intros <;> decide +kernel

/-- A message of tag 63 for any reader in the input queue of port 0. -/
def withMsg (s : State) : State := s.modCore 0 (fun c => { c with rx0 := [{ id := 3, hdr := fld 37 63, words := [fld 37 63, 5], owner := .direct }] })

/-- BtagResult: a message waits and the jump target is legal. -/
theorem wit_btag : aloneB (withMsg (mk false (regs3 0x2000 0 0))) = true ∧ (withMsg (mk false (regs3 0x2000 0 0))).fed [1]
    ∧ rxPick ((withMsg (mk false (regs3 0x2000 0 0))).cor.rx 0) 1 0 = some { id := 3, hdr := fld 37 63, words := [fld 37 63, 5], owner := .direct }
    ∧ targetOk (((withMsg (mk false (regs3 0x2000 0 0))).val 1).toNat + 4 * (bits (fld 37 63) 42 37 : Int)) := by
  and_intros <;> decide +kernel

/-- LocalLoads, LocalStores: the last byte and the last 64 bytes of local memory, the first word of a workspace, and the
refused words reached from system mode only. -/
theorem wit_local : aloneB (mk false (regs3 131008 131071 0)) = true ∧ aloneB (mk true (regs3 768 0 0)) = true
    ∧ (mk false (regs3 131008 131071 0)).th.buf = [] ∧ (mk false (regs3 131008 131071 0)).chains = []
    ∧ (Instr.ldl 1 0 2 0).wf = true ∧ (mk false (regs3 131008 131071 0)).fed [2]
    ∧ localOkAt (effAddr ((mk false (regs3 131008 131071 0)).val 2) (0 : BitVec 12) 1) 1 1
    ∧ (mk false (regs3 131008 131071 0)).claimedL 0 131071 1 = false
    ∧ (Instr.vldl 7 1 0).wf = true ∧ localOkAt (effAddr ((mk false (regs3 131008 131071 0)).val 1) (0 : BitVec 6) 64) 64 64
    ∧ (Instr.vstl 7 1 0).wf = true ∧ (mk false (regs3 131008 131071 0)).lockedL 0 131008 64 = false
    ∧ (mk false (regs3 131008 131071 0)).storable 131008 64
    ∧ (Instr.stl 3 30 0 8).wf = true ∧ (mk false (regs3 131008 131071 0)).fed [0, 30] ∧ (mk false (regs3 131008 131071 0)).storable 8 8
    ∧ (mk true (regs3 768 0 0)).storable 768 8 ∧ ¬(mk false (regs3 768 0 0)).storable 768 8 := by
  and_intros <;> decide +kernel

/-- LocalTraps: below zero, past the end, and misaligned in range, for each of the four instructions. -/
theorem wit_local_trap : aloneB (mk false (regs3 0 131071 0)) = true ∧ (mk false (regs3 0 131071 0)).fed [1]
    ∧ (Instr.ldl 6 3 1 (-1)).wf = true ∧ ¬localOkAt (effAddr ((mk false (regs3 0 131071 0)).val 1) (-1 : BitVec 12) 1) 8 8
    ∧ (Instr.stl 1 3 2 0).wf = true ∧ ¬localOkAt (effAddr ((mk false (regs3 0 131071 0)).val 2) (0 : BitVec 12) 1) 2 2
    ∧ (Instr.stl 3 3 1 4).wf = true ∧ ¬localOkAt (effAddr ((mk false (regs3 0 131071 0)).val 1) (4 : BitVec 12) 1) 8 8
    ∧ (Instr.vldl 7 1 (-1)).wf = true ∧ ¬localOkAt (effAddr ((mk false (regs3 0 131071 0)).val 1) (-1 : BitVec 6) 64) 64 64
    ∧ (mk false (regs3 0 131071 0)).fed [2, 3] := by
  and_intros <;> decide +kernel

/-- PrefixPends: the legal prefix of the highest codes. -/
theorem wit_prefix : aloneB (mk false []) = true ∧ (Instr.pfx 0xBBBAD0).wf = true ∧ (Instr.pfx 0).wf = true := by
  and_intros <;> decide +kernel

/-- CsrReadResult and CsrWriteResults: a register of user mode, one of system mode, writes of a unit's and of the package's
registers; CsrPrivilege: the same from user mode. -/
theorem wit_csr : aloneB (mk false []) = true ∧ aloneB (mk true (regs3 0x1234 0 0)) = true
    ∧ (Instr.csrr 3 1).wf = true ∧ csrUserRead 1 = true ∧ (Instr.csrr 3 0x210).wf = true ∧ (mk true []).th.sys = true
    ∧ (Instr.csrw 0 0x2C3 1).wf = true ∧ (∃ v, csrWriteRule (mk true (regs3 0x1234 0 0)) (.csrw 0 0x2C3 1) = some (0, 0x2C3, 1, v))
    ∧ csrHolds 0x2C3 = some 0xFFFFFFFFFFFFFFFF ∧ (mk true (regs3 0x1234 0 0)).csrBusy 0x2C3 = false ∧ (mk true (regs3 0x1234 0 0)).fed [1]
    ∧ (Instr.csrs 3 0x40 1).wf = true ∧ (∃ v, csrWriteRule (mk true (regs3 0x1234 0 0)) (.csrs 3 0x40 1) = some (3, 0x40, 1, v))
    ∧ csrHolds 0x40 = some 0xFFFFFFFFFFFFFFFF ∧ (mk true (regs3 0x1234 0 0)).csrBusy 0x40 = false
    ∧ (∃ v, csrWriteRule (mk true (regs3 0x1234 0 0)) (.csrc 3 0x27 1) = some (3, 0x27, 1, v)) ∧ csrHolds 0x27 = some 0xFFFFFFFF
    ∧ (mk false []).th.sys = false ∧ csrUserRead 0x210 = false ∧ (Instr.csrw 0 0x210 30).wf = true ∧ (mk false []).fed [30] := by
  refine ⟨?_, ?_, ?_, ?_, ?_, ?_, ?_, ⟨_, rfl⟩, ?_, ?_, ?_, ?_, ⟨_, rfl⟩, ?_, ?_, ⟨_, rfl⟩, ?_, ?_, ?_, ?_, ?_⟩ <;> decide +kernel

/-- CsrWriteResults: SW from user mode; WP, SWP and a mailbox register from system mode; a register that is busy. -/
theorem wit_csr_special : aloneB (mk false (regs3 4 0 0)) = true ∧ (Instr.csrw 3 0 1).wf = true ∧ (mk false (regs3 4 0 0)).fed [1]
    ∧ (∃ v, csrWriteRule (mk false (regs3 4 0 0)) (.csrw 3 0 1) = some (3, 0, 1, v))
    ∧ aloneB (mk true (regs3 0x8400 0 0)) = true ∧ (Instr.csrw 0 1 1).wf = true ∧ (∃ v, csrWriteRule (mk true (regs3 0x8400 0 0)) (.csrw 0 1 1) = some (0, 1, 1, v))
    ∧ (Instr.csrs 0 2 1).wf = true ∧ (∃ v, csrWriteRule (mk true (regs3 0x8400 0 0)) (.csrs 0 2 1) = some (0, 2, 1, v))
    ∧ (Instr.csrw 29 0x29 1).wf = true ∧ csrKnown 0x29 = true ∧ (mk true (regs3 0x8400 0 0)).csrBusy 0x29 = false ∧ (1 : Reg).toNat < 28
    ∧ (∃ r, exec (.registerWrite 0 0x29 0x8400) (mk true (regs3 0x8400 0 0)) = .next r)
    ∧ (let s : State := { mk true (regs3 5 0 0) with pkg := { (mk true []).pkg with attbusy := true } }
      aloneB s = true ∧ csrKnown 0x2C0 = true ∧ s.csrBusy 0x2C0 = true ∧ (Instr.csrw 0 0x2C0 1).wf = true) := by
  refine ⟨?_, ?_, ?_, ⟨_, rfl⟩, ?_, ?_, ⟨_, rfl⟩, ?_, ⟨_, rfl⟩, ?_, ?_, ?_, ?_, ⟨_, rfl⟩, ?_⟩ <;> decide +kernel

/-- OtherAccessTraps: ldr and str below zero, misaligned and to a package that is no peer; atomics of an unmapped address and of
an operation that the path to host memory does not carry; a word and a vector that reach byte 768 of the bound workspace. -/
theorem wit_access_traps : aloneB (mk false (regs3 0x40000040 1 0)) = true ∧ (mk false (regs3 0x40000040 1 0)).fed [1] ∧ (mk false (regs3 0x40000040 1 0)).fed [2]
    ∧ (Instr.ldr 3 29 3 (-1)).wf = true ∧ ¬localOkAt ((bits (0 : Word) 16 0 : Int) + (-1 : BitVec 11).toInt) 8 8
    ∧ (Instr.ldrMig 1 29 2 0).wf = true ∧ ¬localOkAt ((bits (1 : Word) 16 0 : Int) + (0 : BitVec 11).toInt) 2 2
    ∧ (Instr.str 3 2 1 0).wf = true ∧ localOkAt ((bits (0x40000040 : Word) 16 0 : Int) + (0 : BitVec 11).toInt) 8 8
    ∧ (mk false (regs3 0x40000040 1 0)).reachable (bits (0x40000040 : Word) 35 29) = false
    ∧ (Instr.amoMax 0 0 0 29 1 2).wf = true ∧ (mk false (regs3 (2 ^ 37) 1 0)).fed (amoSources 5 0 29 1 2)
    ∧ (mk false (regs3 (2 ^ 37) 1 0)).global ((mk false (regs3 (2 ^ 37) 1 0)).val 1).toNat 4 3 = .trap { code := 6, acc := 3, addr := 0x2000000000 }
    ∧ (let s := (mk false (regs3 0x40 1 0)).modHedge 0 (fun h => { h with tlb := [{ leaf with pol := 3, frame := 2 ^ 47 }] })
      aloneB s = true ∧ s.global (s.val 1).toNat 4 3 = .ok (.host (2 ^ 47 + 0x40)) [{ leaf with pol := 3, frame := 2 ^ 47 }] ∧ ¬pathCarries (.host (2 ^ 47 + 0x40)) 5 0)
    ∧ (Instr.stl ((3 : BitVec 2).zeroExtend 3) 2 3 768).wf = true ∧ localOkAt (effAddr ((mk false []).val 3) (768 : BitVec 12) 1) 8 8
    ∧ inBound ((mk false []).bound 0) 768 864 (768 + 0) = true ∧ (mk false []).lockedL 0 768 8 = false
    ∧ (Instr.vstl 7 3 13).wf = true ∧ localOkAt (effAddr ((mk false []).val 3) (13 : BitVec 6) 64) 64 64 ∧ inBound ((mk false []).bound 0) 768 864 (832 + 31) = true := by
  refine ⟨?_, ?_, ?_, ?_, ?_, ?_, ?_, ?_, ?_, ?_, ?_, ?_, ?_, ?_, ?_, ?_, ?_, ?_, ?_, ?_, ?_⟩ <;> decide +kernel

/-- OtherAccessTraps: accumulators past the end, misaligned, second, and over byte 768 of the bound workspace; task descriptors
past the end and misaligned. -/
theorem wit_accumulator_traps : aloneB (mk false (regs3 130993 8 752)) = true ∧ (mk false (regs3 130993 8 752)).fed [1, 2] ∧ (mk false (regs3 130993 8 752)).fed [3]
    ∧ (∃ w r, laRule (mk false (regs3 130993 8 752)) (.awin 1 2) = some ([1, 2], w, 130993, r, none)) ∧ ¬localOkAt (130993 : Nat) 80 16
    ∧ (∃ w r, laRule (mk false (regs3 130993 8 752)) (.awclr 2) = some ([2], w, 8, r, none)) ∧ ¬localOkAt (8 : Nat) 80 16
    ∧ (∃ w r, laRule (mk false (regs3 130993 8 752)) (.awadd 3 2) = some ([3, 2], w, 752, r, some 8)) ∧ localOkAt (752 : Nat) 80 16
    ∧ (mk false (regs3 130993 8 752)).th.sys = false ∧ inBound ((mk false []).bound 0) 768 864 (752 + 79) = true
    ∧ (Instr.awrd 29 1).wf = true ∧ (mk false (regs3 131041 8 752)).fed [1] ∧ (Instr.tcreate 29 1).wf = true ∧ ¬localOkAt (131041 : Nat) 32 32
    ∧ ¬localOkAt (8 : Nat) 32 32 := by
  refine ⟨?_, ?_, ?_, ⟨_, _, rfl⟩, ?_, ⟨_, _, rfl⟩, ?_, ⟨_, _, rfl⟩, ?_, ?_, ?_, ?_, ?_, ?_, ?_, ?_⟩ <;> decide +kernel

/-- RoundingLaw: zero, the least normal value and the largest finite one with values beyond them, in each mode. -/
theorem wit_rounding : Fmt.decode .fp4 0 = .fin false 0 (-1) ∧ Fmt.decode .fp16 0x400 = .fin false 1024 (-24) ∧ (0x400 : Nat) ≤ Fmt.maxCode .fp16
    ∧ Fmt.decode .e4m3 0x7E = .fin false 14 5 ∧ Fmt.decode .fp32 0x7F7FFFFF = .fin false 16777215 104
    ∧ (0 * 4 < 3 ∧ 3 < (0 + 1) * 4) ∧ roundsUp { rm := 0 } false 0 (3 - 0 * 4) 4 ∧ ¬roundsUp { rm := 1 } false 0 (3 - 0 * 4) 4
    ∧ roundsUp { rm := 0 } false 1025 1 2 ∧ ¬roundsUp { rm := 0 } false 1024 1 2 ∧ roundsUp { rm := 2 } false 14 1 9 ∧ roundsUp { rm := 3 } true 14 1 9
    ∧ ¬roundsUp { rm := 2 } true 14 1 9 ∧ (∃ seed, roundsUp { rm := 4, seed := seed } false 14 8 9) ∧ (∃ seed, ¬roundsUp { rm := 4, seed := seed } false 14 1 9)
    ∧ (∃ x y : Int, x ≠ 0 ∧ y = 0) := by
  refine ⟨?_, ?_, ?_, ?_, ?_, ?_, ?_, ?_, ?_, ?_, ?_, ?_, ?_, ⟨0, ?_⟩, ⟨0, ?_⟩, ⟨1, 0, ?_⟩⟩ <;> decide +kernel

/-- RegisterWriteResult: a register that holds its value, and one that is busy. -/
theorem wit_register_write : (Instr.registerWrite 16383 0x20 5).wf = true ∧ csrHolds 0x20 = some 0xFFFFFFFFFFFFFFFE ∧ (mk false []).csrBusy 0x20 = false
    ∧ (Instr.registerWrite 0 0x2C0 5).wf = true ∧ (csrHolds 0x2C0).isSome = true
    ∧ ({ mk false [] with pkg := { (mk false []).pkg with attbusy := true } } : State).csrBusy 0x2C0 = true := by
  and_intros <;> decide +kernel

/-- Two lanes of v0 and v1 beside zeros. -/
def vregs : List (Nat × Nat × Nat) := [(256, 4, 0x3F800000), (260, 4, 0x40000000), (320, 4, 0x3F800000), (384, 4, 1), (8, 8, 1), (16, 8, 0)]

/-- VectorLaneResults: one instruction of each shape has a rule. -/
theorem wit_vector_lane : aloneB (mk false vregs) = true ∧ (Instr.vfmaF 7 0 1).wf = true ∧ (∃ x d a b f, laneRule (mk false vregs) (.vfmaF 7 0 1) = some (x, d, a, b, f))
    ∧ (Instr.vcmpF 6 7 0 1).wf = true ∧ (∃ x d a b f, laneRule (mk false vregs) (.vcmpF 6 7 0 1) = some (x, d, a, b, f))
    ∧ (Instr.vshl 0 0 0).wf = true ∧ (∃ x d a b f, laneRule (mk false vregs) (.vshl 0 0 0) = some (x, d, a, b, f))
    ∧ (Instr.vlog2 7 7).wf = true ∧ (∃ x d a b f, laneRule (mk false vregs) (.vlog2 7 7) = some (x, d, a, b, f)) := by
  refine ⟨?_, ?_, ⟨_, _, _, _, _, rfl⟩, ?_, ⟨_, _, _, _, _, rfl⟩, ?_, ⟨_, _, _, _, _, rfl⟩, ?_, ⟨_, _, _, _, _, rfl⟩⟩ <;> decide +kernel

/-- VectorWholeResults, VectorMoveResults, VectorExtractResult, VectorDigitReversal. -/
theorem wit_vector_move : aloneB (mk false vregs) = true ∧ (Instr.vmov 7 0).wf = true ∧ (∃ d v, wholeRule (mk false vregs) (.vmov 7 0) = some (d, v))
    ∧ (Instr.vsel 7 0 1).wf = true ∧ (∃ d v, wholeRule (mk false vregs) (.vsel 7 0 1) = some (d, v))
    ∧ (Instr.vins 7 30 31).wf = true ∧ (∃ d f, moveRule (mk false vregs) (.vins 7 30 31) = some ([30, 31], d, f)) ∧ (mk false vregs).fed [30, 31]
    ∧ (Instr.vcompact 7 0 1).wf = true ∧ (∃ d f, moveRule (mk false vregs) (.vcompact 7 0 1) = some ([], d, f)) ∧ (mk false vregs).fed []
    ∧ (Instr.vext 29 7 31).wf = true ∧ (mk false vregs).fed [31] ∧ (Instr.vrevd 7 0 1).wf = true ∧ (mk false vregs).fed [1] := by
  refine ⟨?_, ?_, ⟨_, _, rfl⟩, ?_, ⟨_, _, rfl⟩, ?_, ⟨_, _, rfl⟩, ?_, ?_, ⟨_, _, rfl⟩, ?_, ?_, ?_, ?_, ?_⟩ <;> decide +kernel

/-- A state whose pending prefix names FP16 as fd and FP32 as fa, and the other way round. -/
def withPfx (p : BitVec 24) (s : State) : State := s.modTh 0 0 (fun t => { t with sw := swPend t.sw (some p) })

/-- VectorConvertResult: the last part of a conversion down and of one up. -/
theorem wit_vector_convert : aloneB (withPfx 0xA07000 (mk false vregs)) = true ∧ (Instr.vcvt 7 0 1).wf = true
    ∧ (1 : BitVec 5).toNat < cvtRatio ((withPfx 0xA07000 (mk false vregs)).lanes specCvt)
    ∧ aloneB (withPfx 0x70A000 (mk false vregs)) = true ∧ (1 : BitVec 5).toNat < cvtRatio ((withPfx 0x70A000 (mk false vregs)).lanes specCvt) := by
  and_intros <;> decide +kernel

/-- VectorSelections, VectorSums, VectorSorting. -/
theorem wit_vector_rank : aloneB (mk false vregs) = true ∧ (Instr.vredMax 29 7).wf = true ∧ (Instr.vredAdd 0 7).wf = true ∧ (Instr.vscanAdd 7 7).wf = true
    ∧ (Instr.vsort 7 0).wf = true ∧ (Instr.vtopk 7 0 0).wf = true := by
  and_intros <;> decide +kernel

/-- AccumulatorUpdates and AccumulatorRead: the last accumulator of local memory, awadd of an accumulator and itself. -/
theorem wit_accumulators : aloneB (mk false (regs3 130992 0x3F800000 130992)) = true ∧ (mk false (regs3 130992 0x3F800000 130992)).th.buf = []
    ∧ (mk false (regs3 130992 0x3F800000 130992)).chains = [] ∧ (Instr.vawin 1 7).wf = true
    ∧ (∃ w r, laRule (mk false (regs3 130992 0x3F800000 130992)) (.awadd 1 3) = some ([1, 3], w, 130992, r, some 130992))
    ∧ (∃ w r, laRule (mk false (regs3 130992 0x3F800000 130992)) (.awin 1 2) = some ([1, 2], w, 130992, r, none))
    ∧ (mk false (regs3 130992 0x3F800000 130992)).fed [1, 3] ∧ localOkAt (130992 : Nat) 80 16 ∧ (mk false (regs3 130992 0x3F800000 130992)).storable 130992 80
    ∧ (mk false (regs3 130992 0x3F800000 130992)).lockedL 0 130992 80 = false ∧ (mk false (regs3 130992 0x3F800000 130992)).claimedL 0 130992 80 = false
    ∧ (Instr.awrd 29 1).wf = true := by
  refine ⟨?_, ?_, ?_, ?_, ⟨_, _, rfl⟩, ⟨_, _, rfl⟩, ?_, ?_, ?_, ?_, ?_, ?_⟩ <;> decide +kernel

end Sys2Proof.Tests
end

