-- ==== Sys2Proof/Tests/WitnessEngine.lean ====
section
/-! SUPPORT. Witnesses for the statements about engine words: for each statement a concrete job, state and operands that meet
all its hypotheses together, at boundary values. -/

namespace Sys2Proof.Tests

open Sys2Proof Sys2Proof.Machine

set_option Elab.async false

/-- The checks of Working, as one test. -/
def workingB (s : State) (j : Job) (cls : Nat) (ops rest : List Word) (pushes : Nat := 0) : Bool :=
  s.jobNo s.job == some j && j.live && serves j.kind cls && j.stack == ops.reverse ++ rest && decide (rest.length + pushes ≤ 8)

theorem working_of_test (s : State) (j : Job) (cls : Nat) (ops rest : List Word) (pushes : Nat)
    (h : workingB s j cls ops rest pushes = true) : Working s j cls ops rest pushes := by
  simp only [workingB, Bool.and_eq_true, beq_iff_eq, decide_eq_true_eq] at h
  obtain ⟨⟨⟨⟨h1, h2⟩, h3⟩, h4⟩, h5⟩ := h
  exact ⟨h1, h2, h3, h4, h5⟩

/-- A running job of core 0 whose stack holds the operands of a word, as its comment writes them. -/
def jb (kind : Nat) (ops : List Word) : Job := {
  id := 65537
  kind
  order := 5
  uid := 1
  st := .running
  stack := ops.reverse }

/-- The state of the tests with one job, which is the one in progress, and bytes in device memory. -/
def stJ (j : Job) (mem : List (Nat × Nat × Nat) := []) : State := { mk false [] with jobs := [j], job := 5, hbm := memOf mem }

/-- The same with a write of the job unacknowledged. -/
def busyJ (j : Job) : State := { stJ j with replies := [{ id := 3, src := { job := 65537 }, posted := true }] }

/-- A sector of device memory that the unit in progress has read, with its words. -/
def sec (a : Nat) (ws : List Nat) : Nat × Nat × Vec := (2, a, BitVec.ofNat 512 (ofBytes (ws.flatMap (toBytes 8))))

/-- An operand of all ones. -/
def ones : Word := 0xFFFFFFFFFFFFFFFF

/-- Every word of stackRule with operands, on a stack of eight words where it pops, of eight less its results where it pushes. -/
def stackCases : List (Instr × List Word × Nat) := [
  (.lit 0x7FFF, [], 7), (.ext 0x3FFF, [ones], 7), (.engNop, [], 8), (.dup, [ones], 6), (.drop, [0], 7), (.engSwap, [1, 2], 6),
  (.engOver, [1, 2], 5), (.rot, [1, 2, 3], 5), (.engAdd, [ones, 1], 6), (.engSub, [0, 1], 6), (.engMul, [ones, ones], 6), (.engShl, [1, 64], 6),
  (.engShr, [ones, 63], 6), (.engAnd, [5, 6], 6), (.engOr, [5, 6], 6)]

/-- EngineStackWords: every stack word at its limit; ldp, stp and skz. -/
theorem wit_stack_words : (stackCases.all (fun c => match stackRule c.1 c.2.1 with
      | some out => workingB (stJ { jb 4 c.2.1 with stack := c.2.1.reverse ++ List.replicate c.2.2 7 }) { jb 4 c.2.1 with stack := c.2.1.reverse ++ List.replicate c.2.2 7 }
          0 c.2.1 (List.replicate c.2.2 7) out.length
      | none => false)) = true
    ∧ workingB (stJ (jb 0 [15])) (jb 0 [15]) 0 [15] [] 1 = true ∧ workingB (stJ (jb 0 [9, 8])) (jb 0 [9, 8]) 0 [9, 8] [] = true
    ∧ workingB (stJ (jb 3 [0])) (jb 3 [0]) 0 [0] [] = true := by
  and_intros <;> decide +kernel

/-- EngineSignalAndEnd: an unacknowledged write; none; no open row; an open row. -/
theorem wit_signal : workingB (busyJ (jb 0 [ones])) (jb 0 [ones]) 0 [ones] [] = true ∧ (busyJ (jb 0 [ones])).jobTraffic (jb 0 [ones]) = true
    ∧ workingB (stJ (jb 0 [ones])) (jb 0 [ones]) 0 [ones] [] = true ∧ (stJ (jb 0 [ones])).jobTraffic (jb 0 [ones]) = false
    ∧ (stJ (jb 0 [ones])).ords = [] ∧ (stJ (jb 0 [ones])).notices = [] ∧ ((stJ (jb 0 [ones])).coreAt 0).rx2.length < 128
    ∧ workingB (stJ (jb 2 [])) (jb 2 []) 0 [] [] = true ∧ (jb 2 []).rt.opens = []
    ∧ workingB (stJ { jb 2 [] with rt := { opens := [{}] } }) { jb 2 [] with rt := { opens := [{}] } } 0 [] [] = true := by
  and_intros <;> decide +kernel

/-- EngineWordFaults: a class that a copy job does not serve; too few operands; one word too many. -/
theorem wit_word_faults : engineShape .mmRun = some (1, 0, 0) ∧ (stJ (jb 1 [])).jobNo 5 = some (jb 1 []) ∧ (jb 1 []).live = true ∧ serves 1 1 = false
    ∧ engineShape .rot = some (0, 3, 3) ∧ (jb 1 [1, 2]).stack.length < 3 ∧ serves 1 0 = true
    ∧ engineShape .engOver = some (0, 2, 3) ∧ 8 < (jb 1 [1, 2, 3, 4, 5, 6, 7, 8]).stack.length - 2 + 3 := by
  and_intros <;> decide +kernel

/-- A job that has a group of one member in its list. -/
def jGrp (ops : List Word) : Job := { jb 3 ops with cl := { lists := [{ hasGrp := true, g := 4, grp := List.replicate 16 0 }] } }

/-- Every word of wordRule with operands at the ends of their limits. -/
def wordCases : List (Instr × List Word × Job) := [
  (.mmFmt, [0x322], jb 0 [0x322]), (.mmScale, [2, 131071, 131071, 0, 0xFFFFFFFF], jb 0 [2, 131071, 131071, 0, 0xFFFFFFFF]),
  (.mmGeo, [1048576, 65536, 1048576], jb 0 [1048576, 65536, 1048576]), (.mmA, [131008, 131008], jb 0 [131008, 131008]),
  (.mmB, [0x0003FFC000000005, 64, 0], jb 0 [0x0003FFC000000005, 64, 0]), (.mmAcc, [3], jb 0 [3]), (.mmRound, [0xE5, ones], jb 0 [0xE5, ones]),
  (.mmDrain, [0xFFFFFFFC0, 131072, 127], jb 0 [0xFFFFFFFC0, 131072, 127]), (.mmDrainla, [0, 0, 255], jb 0 [0, 0, 255]),
  (.mmDrainmb, [0xFFFFE0040, 0xFFFFFFFF, 65534, 8], jb 0 [0xFFFFE0040, 0xFFFFFFFF, 65534, 8]), (.bfLen, [0x1000000001], jb 0 [0x1000000001]),
  (.bfSched, [0x1FFFFFF], jb 0 [0x1FFFFFF]), (.cpDim, [0x100000000, ones, 1], jb 1 [0x100000000, ones, 1]), (.cpCvt, [0xFFFFFFFF00000EBB], jb 1 [0xFFFFFFFF00000EBB]),
  (.cpClr, [], jb 1 []), (.rtCfg, [0x8F, 0xFFFF], jb 2 [0x8F, 0xFFFF]), (.rtBind, [64, 65535], jb 2 [64, 65535]),
  (.clRs, [4, 8, 1048576, 1], jGrp [4, 8, 1048576, 1]), (.clAg, [4, 8, 16, 0], jGrp [4, 8, 16, 0]), (.clChain, [], jGrp []),
  (.lgGate, [2, ones - 1, 4096, 16384], jb 4 [2, ones - 1, 4096, 16384])]

/-- A member of a group of one on die 0, its table at 0x2000. -/
def jClGrp : Job := { jb 3 [0x2000, 0, 0, 65535] with fetched := [sec 0x2000 []] }

/-- EngineRegisterWords: every register word; cl.grp over a group of one. -/
theorem wit_register_words : (wordCases.all (fun c => match wordRule c.2.2 c.1 c.2.1 with
      | some x => workingB (stJ c.2.2) c.2.2 x.1 c.2.1 []
      | none => false)) = true
    ∧ workingB (stJ jClGrp) jClGrp 5 [0x2000, 0, 0, 65535] [] = true ∧ jClGrp.cl.went = false ∧ jClGrp.cl.cur.hasGrp = false
    ∧ ((stJ jClGrp).eRead jClGrp 0x2000 2).toOption = some [0, 0] ∧ (stJ jClGrp).reachable (0 % 128) = true ∧ distinct [0] = true
    ∧ [0].getD 0 512 = (stJ jClGrp).pkgNo + 128 * dieOf jClGrp.lin := by
  and_intros <;> decide +kernel

/-- A job with the plan of one stage of radix 2. -/
def jTile (ops : List Word) (ph : Phase := .start) : Job := { jb 0 ops with plan := some 1, ph }

/-- Every word of tileRule on a plan of two points; the points of bf.load have been read. -/
def tileCases : List (Instr × List Word) := [(.bfStage, [7, 1]), (.bfPass, [7]), (.bfTwid, [7, 0x1000000, 0xFFFFFF]), (.bfCmul, [0, 1, 7, 31]),
  (.bfLoad, [7, 0x2000, 8, 0xFFFF0008])]

/-- The job of a tile word. -/
def jTileRead (ops : List Word) : Job := { jTile ops .active with fetched := [sec 0x2000 [1, 2]] }

/-- TileWords: each word of the family. TileLoadBegins: bf.load at its start. -/
theorem wit_tile_words :
    (tileCases.all (fun c => let j := jTileRead c.2
      (tileRule (stJ j) j 1 c.1 c.2).isSome && workingB (stJ j) j 2 c.2 [])) = true
    ∧ (let j := jTile [7, 0x2000, 8, 0xFFFF0008]
      workingB (stJ j) j 2 [7, 0x2000, 8, 0xFFFF0008] [] = true ∧ j.ph = .start ∧ moveOk 7 0x2000 8 0xFFFF0008 = true
      ∧ pointFmt (bits (0xFFFF0008 : Word) 2 0) = some (.int 32 false, 4, 2) ∧ bits (0xFFFF0008 : Word) 15 7 = 0 ∧ bits (0xFFFF0008 : Word) 63 32 = 0
      ∧ spanBad 0x2000 8 (planLen 1) (4 * 2) = false) := by
  and_intros <;> decide +kernel

/-- bf.store of two points to device memory. -/
def opsStore : List Word := [7, 0x2000, 8, 0xFFFFFFFF00000069]

/-- A write of eight bytes of device memory that ends a claim. -/
def aWrite : OutPiece := .bytes (.va 0x4038) (toBytes 8 7) (some 1) none (some { pkg := 0, loc := false, lin := 0, sector := 0x100, core := 0 })

/-- A job with writes to make, then unit 2. -/
def withOut (j : Job) (ps : List OutPiece) : Job := { j with out := some (2, ps) }

/-- A write goes through in a state. -/
def writesB (s : State) (j : Job) : Bool :=
  match j.out with
  | some (_, .bytes dest bs .. :: _) => (match s.writeTo j dest bs with
    | .ok _ => true
    | .error _ => false)
  | _ => false

/-- TileStore: its claims, its points, a write, the last write made, its end. -/
theorem wit_tile_store : workingB (stJ (jTile opsStore)) (jTile opsStore) 2 opsStore [] = true
    ∧ pointFmt (bits (0xFFFFFFFF00000069 : Word) 2 0) = some (.flt .fp32, 4, 2) ∧ moveOk 7 0x2000 8 0xFFFFFFFF00000069 = true ∧ bits (0xFFFFFFFF00000069 : Word) 31 7 = 0
    ∧ bits (0xFFFFFFFF00000069 : Word) 5 4 ≠ 3 ∧ spanBad 0x2000 8 (planLen 1) (4 * 2) = false
    ∧ workingB (stJ (jTile opsStore .active)) (jTile opsStore .active) 2 opsStore [] = true
    ∧ (let j := withOut (jTile opsStore .active) [aWrite]
      workingB (stJ j) j 2 opsStore [] = true ∧ writesB (stJ j) j = true)
    ∧ (let j := withOut (jTile opsStore .active) []
      workingB (stJ j) j 2 opsStore [] = true)
    ∧ workingB (stJ (jTile opsStore .draining)) (jTile opsStore .draining) 2 opsStore [] = true
    ∧ (stJ (jTile opsStore .draining)).jobTraffic (jTile opsStore .draining) = false := by
  and_intros <;> decide +kernel

/-- EngineWrites: each launch word with a write to make. -/
theorem wit_engine_writes :
    ([(Instr.mmRun, 0, 0), (.mmRing, 0, 0), (.mmGmm, 0, 1), (.cpGo, 1, 3), (.cpFill, 1, 3), (.cpGath, 1, 4), (.cpScat, 1, 4), (.rtCap, 2, 3), (.rtRun, 2, 3),
      (.rtEmit, 2, 3), (.rtStat, 2, 1), (.clGo, 3, 0), (.lgRun, 4, 5)].all (fun c =>
        let ops := List.replicate c.2.2 0
        let j := withOut (jb c.2.1 ops) [aWrite]
        launchWord c.1 && (match engineShape c.1 with
          | some (k, p, _) => p == c.2.2 && workingB (stJ j) j k ops []
          | none => false) && writesB (stJ j) j)) = true := by
  decide +kernel

/-- A copy job over two elements, the second index skipped where the word is indexed, and device memory with the index list. -/
def jCopy (ops : List Word) (ph : Phase := .start) : Job := { jb 1 ops with
  dims := [{ ext := 2, sstr := 8, dstr := 16 }]
  idxs := [1, 0xFFFFFFFF]
  fetched := [sec 0x2000 [0x1122334455667788], sec 0x3000 [0xFFFFFFFF00000001]]
  ph }
/-- The state of a copy job. -/
def stCopy (j : Job) : State := stJ j [(0x3000, 4, 1), (0x3004, 4, 0xFFFFFFFF), (0x2000, 8, 0x1122334455667788)]

/-- The launch words of the tests. -/
def copyCases : List (Instr × List Word) := [(.cpGo, [0x2000, 0x4000, 8]), (.cpFill, [0x4000, ones, 8]), (.cpGath, [0x2000, 0x4000, 8, 0x3000]),
  (.cpScat, [0x2000, 0x4000, 8, 0x3000])]

/-- CopyLaunches: the start of each launch word, a chunk, its writes made, the end. -/
theorem wit_copy : (copyCases.all (fun c => match copyRule c.1 c.2 with
      | none => false
      | some a =>
        let j0 := jCopy c.2
        let j1 := jCopy c.2 .active
        let j2 := withOut j1 []
        let j3 := { j1 with unitIdx := 2 }
        let eo := if a.kind = .gath ∨ a.kind = .scat then 2 else 0
        workingB (stCopy j0) j0 3 c.2 [] && j0.cpCheck a == none
          && (match (stCopy j0).eRead j0 a.idx (4 * eo) with
            | .ok b => j0.cpBoundsOk a ((List.range eo).map (fun k => ofBytes ((b.drop (4 * k)).take 4)))
            | .error _ => false)
          && workingB (stCopy j1) j1 3 c.2 [] && decide (j1.unitIdx < cpTotal j1.dims) && min (4096 / max 1 a.esz) (cpTotal j1.dims - j1.unitIdx) == 2
          && (match (j1.cpElts a 0 2).mapM ((stCopy j1).cpValue j1 a) with
            | .ok _ => true
            | .error _ => false)
          && workingB (stCopy j2) j2 3 c.2 [] && workingB (stCopy j3) j3 3 c.2 [] && decide (cpTotal j3.dims ≤ j3.unitIdx))) = true := by
  decide +kernel

/-- A matrix job of one row, one column and K = 2 that drains to the own local memory at 0x8000. -/
def jMm (ph : Phase := .start) (gIdx unitIdx : Nat := 0) (begun : Bool := true) : Job := { jb 0 [] with
  mm := { begun, m := 1, n := 1, k := 2, bb := 0x2000, drain := 1, dst := 0x8000, astr := 64, aoff := 0x4000 }
  ph
  gIdx
  unitIdx }

/-- A matrix job of 32 rows and 8 columns whose sums stay held, no K. -/
def jMmHeld : Job := { jb 0 [] with
  mm := { begun := true, m := 32, n := 8, k := 0, bb := 0x2000, bstr := 64, accOut := true, accIn := true, astr := 64, aoff := 0x4000 }
  ph := .active }

/-- A matrix job at its last block step but two or its last, of 36 rows and 10 columns: its accumulators keep some rows and drain others. -/
def jMmSome (u : Nat) : Job := { jb 0 [] with
  mm := { begun := true, m := 36, n := 10, k := 0, bb := 0x2000, bstr := 64, drain := 1, dst := 0x8000, accOut := true, accIn := true, astr := 64, aoff := 0x4000 }
  ph := .active
  unitIdx := u }

/-- MatrixLaunches, the block step in general: in block step 1 some rows of round 0 stay and others drain, in step 3, of two
columns, all stay. -/
theorem wit_matrix_steps : (((36 + 7) / 8 + 3) / 4) * ((10 + 7) / 8) = 4
    ∧ (∀ u ∈ [1, 3], workingB (stJ (jMmSome u)) (jMmSome u) 1 [] [] = true ∧ (jMmSome u).out = none ∧ (jMmSome u).mm.keep = false
      ∧ (jMmSome u).gIdx = 0 ∧ mmFmts (jMmSome u).mm.fmt = some (.flt .bf16, .flt .bf16)
      ∧ (∀ c, c < min 8 (10 - 8 * (u % 2)) → ((stJ (jMmSome u)).mmColumn (jMmSome u) .run { arow := 0, rows := 36, crow := 0, path := 0, bb := 0x2000 } (8 * (u % 2) + c)).toOption = some []
        ∧ ((stJ (jMmSome u)).mmColScales (jMmSome u) 0 (8 * (u % 2) + c)).toOption = some [])
      ∧ (∀ x, x < 36 → ((stJ (jMmSome u)).sliceRead (jMmSome u) (x % 8) ((jMmSome u).mm.aAddr x) (rowBytes 0 16)).toOption = some []
        ∧ ((stJ (jMmSome u)).sliceRead (jMmSome u) (x % 8) ((jMmSome u).mm.sa + x / 8 * (jMmSome u).mm.sas) ((jMmSome u).mm.scaleBytes 0)).toOption = some []))
    ∧ ¬(36 ≤ 32 * (0 + 1) + 3 % 8) ∧ 36 ≤ 32 * (0 + 1) + 4 % 8 ∧ (∀ x, 32 ≤ x → x < 36 → 36 ≤ 32 * (1 + 1) + x % 8) := by
  and_intros <;> first | decide +kernel | omega

/-- DrainRows: mm.drain in a format, mm.drainla with and without addition, mm.drainmb. -/
theorem wit_drain_rows : jMm.mm.drain = 1 ∧ mmOut jMm.mm.rm = some (.flt .fp32) ∧ (mmOut 0x8B).isSome = true
    ∧ (∀ d ∈ [2, 3], ({ jMm.mm with drain := d, mode := 255, mbK := 8 } : MmRegs).drain = d) := by
  and_intros <;> decide +kernel

/-- MatrixLaunches: start of both words, a group's start, a held block step, its writes made, the group's end, the word's end. -/
theorem wit_matrix : workingB (stJ (jMm)) (jMm) 1 [] [] = true ∧ (stJ (jMm)).mmCheck (jMm) .run = none
    ∧ (stJ { jMm with mm := { jMm.mm with k := 256 } }).mmCheck { jMm with mm := { jMm.mm with k := 256 } } .ring = none
    ∧ workingB (stJ jMmHeld) jMmHeld 1 [] [] = true ∧ mmFmts jMmHeld.mm.fmt = some (.flt .bf16, .flt .bf16)
    ∧ (∀ c, c < 8 → ((stJ jMmHeld).mmColumn jMmHeld .run { arow := 0, rows := 32, crow := 0, path := 0, bb := 0x2000 } c).toOption = some []
      ∧ ((stJ jMmHeld).mmColScales jMmHeld 0 c).toOption = some [])
    ∧ (∀ x, x < 32 → ((stJ jMmHeld).sliceRead jMmHeld (x % 8) (jMmHeld.mm.aAddr x) (rowBytes 0 16)).toOption = some []
      ∧ ((stJ jMmHeld).sliceRead jMmHeld (x % 8) 0 0).toOption = some [])
    ∧ workingB (stJ (jMm .active 0 0 false)) (jMm .active 0 0 false) 1 [] [] = true
    ∧ workingB (stJ (withOut jMmHeld [])) (withOut jMmHeld []) 1 [] [] = true ∧ (((jMmHeld.mm.m + 7) / 8 + 3) / 4) * ((jMmHeld.mm.n + 7) / 8) = 1
    ∧ workingB (stJ (jMm .active 0 1)) (jMm .active 0 1) 1 [] [] = true ∧ workingB (stJ (jMm .active 1 0)) (jMm .active 1 0) 1 [] [] = true := by
  and_intros <;> decide +kernel

/-- A grouped job over one group, and its record at 0x1000. -/
def jGmm (ph : Phase := .start) (gIdx : Nat := 0) (stopped : Bool := false) : Job := { jb 0 [0x1000] with
  mm := { n := 1, bb := 0x2000, drain := 1, dst := 0x8000, astr := 64, aoff := 0x4000 }
  ph
  gIdx
  stopped
  fetched := [sec 0x1000 [2 ^ 33 + 1, 0, 0, 0, 2 ^ 32, 0, 0x2000, 0xFFFFF]]
  idxs := [2 ^ 33 + 1, 0, 0, 0, 2 ^ 32, 0, 0x2000, 0xFFFFF] }
/-- Its state. -/
def stGmm (j : Job) : State := stJ j [(0x1000, 8, 2 ^ 33 + 1), (0x1020, 8, 2 ^ 32), (0x1030, 8, 0x2000), (0x1038, 8, 0xFFFFF)]

/-- GroupedLaunch: the start, a group that follows a late one, one that does not, the end. -/
theorem wit_grouped : workingB (stGmm (jGmm)) (jGmm) 1 [0x1000] [] = true ∧ (stGmm jGmm).mmCheck { jGmm with idxs := [] } .gmm = none
    ∧ ((stGmm jGmm).readShape jGmm 0x1000).toOption = some jGmm.idxs ∧ shapeBad jGmm.idxs = false ∧ (stGmm jGmm).mmCheck jGmm .gmm = none
    ∧ workingB (stGmm (jGmm .active 0 true)) (jGmm .active 0 true) 1 [0x1000] [] = true
    ∧ (((jGmm .active 0 true).mmGroups .gmm)[0]?).map (fun g => (g.rows, g.budget)) = some (1, 0xFFFFF)
    ∧ (jGmm .active 0 true).stopped = true ∧ (jGmm .active 0).stopped = false ∧ (jGmm .active 0).mm.begun = false
    ∧ workingB (stGmm (jGmm .active 0)) (jGmm .active 0) 1 [0x1000] [] = true
    ∧ workingB (stGmm { jGmm .active 1 with mm := { jGmm.mm with drain := 3 } }) { jGmm .active 1 with mm := { jGmm.mm with drain := 3 } } 1 [0x1000] [] = true
    ∧ ((jGmm .active 1).mmGroups .gmm)[1]? = none := by
  and_intros <;> decide +kernel

/-- A router job with a table of 1 expert at 0x2000, all words zero. -/
def jRt (ops : List Word) (ph : Phase := .start) (rt : RtRun := {}) (unitIdx : Nat := 0) : Job := { jb 2 ops with
  rt := { rt with cfg := true, pol := 16, bound := true, tab := 0x2000, nexp := 1 }
  fetched := [sec 0x2000 []]
  ph
  unitIdx }

/-- RouterWords, rt.cap: a header to write, its writes made, and none left. -/
theorem wit_router_cap : workingB (stJ (jRt [0, 1, 0xFFFFFFFF])) (jRt [0, 1, 0xFFFFFFFF]) 4 [0, 1, 0xFFFFFFFF] [] = true
    ∧ (jRt [0, 1, 0xFFFFFFFF]).rtCheck true = none
    ∧ (match (stJ (jRt [0, 1, 0xFFFFFFFF])).rtDesc (jRt [0, 1, 0xFFFFFFFF]) 0 with
      | .ok _ => true
      | .error _ => false) = true
    ∧ workingB (stJ (withOut (jRt [0, 1, 0]) [])) (withOut (jRt [0, 1, 0]) []) 4 [0, 1, 0] [] = true
    ∧ workingB (stJ (jRt [0, 1, 0] .start {} 1)) (jRt [0, 1, 0] .start {} 1) 4 [0, 1, 0] [] = true
    ∧ (stJ (jRt [0, 1, 0] .start {} 1)).jobTraffic (jRt [0, 1, 0] .start {} 1) = false := by
  and_intros <;> decide +kernel

/-- A router job whose walk has one thread with the row 1,023. -/
def jRun (ph : Phase) (ts os : List RtThread) (at_ : Nat := 0) : Job := jRt [1023, 1, 3] ph { threads := ts, opens := os, notifyAt := at_ }

/-- An open row with one choice deferred, one that goes on after a refusal, and one with nothing left. -/
def rowOpen : RtThread := { row := some 3, entries := [0], defer := [(0, [0])] }
/-- An open row whose deferred choice has been refused and has no other candidate. -/
def rowAgain : RtThread := { row := some 3, entries := [0], defer := [(0, [rtAgain])] }
/-- An open row that can be settled. -/
def rowDone : RtThread := { row := some 3 }

/-- RouterWords, rt.run: its start, a step, the end with rows open, the end of the walk, the end of the pass. -/
theorem wit_router_run : workingB (stJ (jRun .start [] [])) (jRun .start [] []) 4 [1023, 1, 3] [] = true ∧ (jRun .start [] []).rtCheck true = none
    ∧ workingB (stJ (jRun .active [{ rows := [1023] }] [])) (jRun .active [{ rows := [1023] }] []) 4 [1023, 1, 3] [] = true
    ∧ (stJ (jRun .active [{ rows := [1023] }] [])).stopLin 0 0 = false
    ∧ (((stJ (jRun .active [{ rows := [1023] }] [])).dropChoice.rtThreadStep (jRun .active [{ rows := [1023] }] []) { rows := [1023] }).err == none) = true
    ∧ workingB (stJ (jRun .active [] [rowOpen])) (jRun .active [] [rowOpen]) 4 [1023, 1, 3] [] = true
    ∧ workingB (stJ (jRun .active [] [])) (jRun .active [] []) 4 [1023, 1, 3] [] = true
    ∧ workingB (stJ (jRun .draining [] [] 1)) (jRun .draining [] [] 1) 4 [1023, 1, 3] [] = true ∧ (jRun .draining [] [] 1).rt.nexp ≤ (jRun .draining [] [] 1).rt.notifyAt
    ∧ (stJ (jRun .draining [] [] 1)).jobTraffic (jRun .draining [] [] 1) = false := by
  and_intros <;> decide +kernel

/-- A descriptor without a list, on this package or another, with one replica. -/
def descOf (far : Bool) (rep : Nat) : List Word := [0, 0, 0, BitVec.ofNat 64 (0xFFFFFFFFFFFF0000 + rep), 0, if far then fld 39 1 else 0, 0, 0]

/-- A router job that tries further entries and replicas, with the descriptors of experts 0 and 1 and an old header word at hand. -/
def jCh (res old : Nat) (far : Bool) : Job := { jb 2 [1023, 1, 3] with
  rt := { cfg := true, pol := 0x13, res, bound := true, tab := 0x2000, nexp := 65535, descs := [(0x2000, descOf far 1), (0x2040, descOf far 1)], mode := 1 }
  fetched := [(1, 0x2000, BitVec.ofNat 512 old), (1, 0x2040, BitVec.ofNat 512 old)]
  ph := .active }

/-- The last hedge row with one entry behind a sentinel, of which some choices are made. -/
def rowCh (e cand need : Nat) : RtThread := { row := some 1023, entries := [mkEntry 0xFF800000 0xFFFF 0 0 0, mkEntry 0x3F800000 e 0 0 0], need, cand }

/-- A state whose row 63 of the hedge has a status word, with mailboxes on or off. -/
def stRow (on : Bool) (w : Word) : State := (stJ (jCh 0xFFFF 0 false)).modCore 0 (fun c => { c with mben := on, mbbase := 4, mbdepth := 1, rows := [(63, w)] })

/-- RouterChoices: the three rows that a thread may find; a bad expert, no candidate left, one on another package, one admitted
with the last unit and one that is full; a row without residual expert, and one granted and refused a unit of it; weights of
finite scores, of none, of a NaN, and with a sum of zero. -/
theorem wit_router_choices : (∀ p ∈ [(false, 0), (true, 0x200000000), (true, 0x200000001), (true, 0)],
      let w : Word := BitVec.ofNat 64 p.2
      let s := stRow p.1 w
      let c := s.coreAt ((jCh 0 0 false).rtCore 63)
      (jCh 0 0 false).rtCore 63 = 0 ∧ c.mben = p.1 ∧ c.rows.get 0 63 = w ∧ s.isBad 0 0 (c.entryAt 63 0) (16 * c.mbdepth) = false)
    ∧ (let goes := fun (t : RtThread) => t.row = some 1023 ∧ t.again = none ∧ 0 < t.need
        ∧ t.i < (t.entries.filter (fun e => entExpert e != 0xFFFF)).length ∧ (0x13 % 2 = 1)
      let at1 := fun (t : RtThread) (e : Nat) => (t.entries[1]?).map entExpert = some e
        ∧ ((t.entries.take 1).filter (fun e => entExpert e != 0xFFFF)).length = t.i
      (∀ e ∈ [65534, 0, 1], goes (rowCh e 0 1) ∧ at1 (rowCh e 0 1) e)
      ∧ (∀ far ∈ [true, false], (((stJ (jCh 65534 1 far)).rtDesc (jCh 65534 1 far) 0).toOption) = some (descOf far 1, jCh 65534 1 far))
      ∧ goes (rowCh 0 2 1) ∧ ((descOf false 1).getD 3 0) = 0xFFFFFFFFFFFF0001
      ∧ (∀ old ∈ [0x100000000, 0x100000001], ((stJ (jCh 65534 old false)).rtIncb (jCh 65534 old false) none 0x2000 1).toOption = some old)
      ∧ (0x100000000 % 0x100000000 < 0x100000000 / 0x100000000) ∧ ¬(0x100000001 % 0x100000000 < 0x100000001 / 0x100000000))
    ∧ (let t : RtThread := { rowCh 0 0 1 with i := 1 }
      t.row = some 1023 ∧ t.again = none ∧ t.defer = [] ∧ 0 < t.need ∧ t.cand = 0 ∧ ¬(t.i < (t.entries.filter (fun e => entExpert e != 0xFFFF)).length)
      ∧ (∀ old ∈ [0x100000000, 0x100000001], ((stJ (jCh 1 old false)).rtDesc (jCh 1 old false) 1).toOption = some (descOf false 1, jCh 1 old false)
        ∧ ((stJ (jCh 1 old false)).rtIncb (jCh 1 old false) none 0x2040 1).toOption = some old))
    ∧ ([0x3F800000, 0xBF800000, 0x40000000].all (fun x => match Fmt.decode .fp32 x with
      | .fin .. => true
      | _ => false)) = true
    ∧ rtWeights true [0x40000000, 0x40000000] = ([0x3F000000, 0x3F000000], {})
    ∧ rtWeights true [0x7FC00000] = ([0x7FC00000], { nv := true }) ∧ rtWeights true [0x3F800000, 0xBF800000] = ([0x7FC00000, 0x7FC00000], { nv := true })
    ∧ rtWeights true [] = ([], {}) := by
  and_intros <;> decide +kernel

/-- A router job at rt.emit. -/
def jEmit (ph : Phase) (os : List RtThread) (at_ : Nat := 0) : Job := jRt [0x4000, 64, 65536] ph { opens := os, notifyAt := at_ }

/-- RouterWords, rt.emit: no row open, one open, a row that goes on, one to settle, the end. RouterCounters: both phases of rt.stat. -/
theorem wit_router_emit : workingB (stJ (jEmit .start [])) (jEmit .start []) 4 [0x4000, 64, 65536] [] = true
    ∧ workingB (stJ (jEmit .start [rowOpen])) (jEmit .start [rowOpen]) 4 [0x4000, 64, 65536] [] = true
    ∧ workingB (stJ (jEmit .active [rowDone])) (jEmit .active [rowDone]) 4 [0x4000, 64, 65536] [] = true ∧ (jEmit .active [rowDone]).rt.busyOpen = none
    ∧ (jEmit .active [rowDone]).rt.target 0 = none ∧ (jEmit .active [rowDone]).rt.target 5 = none
    ∧ workingB (stJ (jEmit .active [rowAgain])) (jEmit .active [rowAgain]) 4 [0x4000, 64, 65536] [] = true ∧ (jEmit .active [rowAgain]).rt.busyOpen = some 0
    ∧ (((stJ (jEmit .active [rowAgain])).rtThreadStep (jEmit .active [rowAgain]) rowAgain).err == none) = true
    ∧ (((stJ (jEmit .active [rowDone])).rtThreadStep (jEmit .active [rowDone]) rowDone).err == none) = true
    ∧ workingB (stJ (jEmit .draining [] 1)) (jEmit .draining [] 1) 4 [0x4000, 64, 65536] [] = true ∧ (jEmit .draining [] 1).rt.nexp ≤ (jEmit .draining [] 1).rt.notifyAt
    ∧ workingB (stJ (jRt [0x4000])) (jRt [0x4000]) 4 [0x4000] [] = true
    ∧ workingB (stJ (withOut (jRt [0x4000]) [])) (withOut (jRt [0x4000]) []) 4 [0x4000] [] = true
    ∧ (stJ (withOut (jRt [0x4000]) [])).jobTraffic (withOut (jRt [0x4000]) []) = false := by
  and_intros <;> decide +kernel

/-- A collective job of two members, dies 0 and 1 of this package, with a reduce-scatter of four elements from 0x2000 to 0x4000. -/
def jGo (ph : Phase) (rs : Bool := true) (unitIdx : Nat := 0) (sent ready : Bool := false) : Job := { jb 3 [] with
  cl := { lists := [{ grp := [0, 128], g := 1, me := 0, gid := 7, hasGrp := true, steps := [(rs, 0x2000, 0x4000, 4, 0, 0)] }]
          hi := 4
          part := [1, 2, 3, 4]
          sent
          ready
          went := ph != .start }
  ph
  unitIdx }

/-- CollectiveGo: the start, the signal, the data of both operations, the end. -/
theorem wit_collective : workingB (stJ (jGo .start)) (jGo .start) 5 [] [] = true ∧ (jGo .start).cl.went = false ∧ (stJ (jGo .start)).clBusy (jGo .start) = false
    ∧ workingB (stJ (jGo .active true 1)) (jGo .active true 1) 5 [] [] = true ∧ (jGo .active true 1).cl.op.isSome = true ∧ (jGo .active true 1).cl.opDone = false
    ∧ (stJ (jGo .active true 1)).jobTraffic (jGo .active true 1) = false
    ∧ workingB (stJ (jGo .active false 1 true true)) (jGo .active false 1 true true) 5 [] [] = true ∧ (jGo .active false 1 true true).cl.opDone = false
    ∧ (jGo .active false 1 true true).cl.waited = 0
    ∧ workingB (stJ (jGo .draining)) (jGo .draining) 5 [] [] = true ∧ (stJ (jGo .draining)).jobTraffic (jGo .draining) = false
    ∧ (jGo .draining).cl.lists.length ≤ (jGo .draining).cl.list + 1 := by
  and_intros <;> decide +kernel

/-- A look-ahead job with a gate of two experts of one dimension. -/
def jLg (ops : List Word) (ph : Phase := .start) (unitIdx : Nat := 0) (idxs : List Nat := []) : Job := { jb 4 ops with
  gate := some (0x2000, 2, 2, 1)
  fetched := [sec 0x2000 [], sec 0x3000 [], sec 0x4000 []]
  ph
  unitIdx
  idxs }

/-- The operands of lg.run in the tests: one token. -/
def opsLg : List Word := [0x3000, 2, 1, 2, 0x4000]

/-- LookAheadWords: the four phases of lg.run; lg.pf at the least and the greatest threshold. -/
theorem wit_look_ahead : workingB (stJ (jLg opsLg)) (jLg opsLg) 6 opsLg [] = true ∧ canonical (0x4000 : Word) = true ∧ bits (0x4000 : Word) 1 0 = 0
    ∧ workingB (stJ (jLg opsLg .active 0 [0, 0])) (jLg opsLg .active 0 [0, 0]) 6 opsLg [] = true
    ∧ ((stJ (jLg opsLg .active 0 [0, 0])).eRead (jLg opsLg .active 0 [0, 0]) 0x3000 2).toOption = some [0, 0]
    ∧ ((List.range 2).mapM (fun e => (stJ (jLg opsLg .active 0 [0, 0])).eRead (jLg opsLg .active 0 [0, 0]) ((0x2000 + e * 2 : Nat) : Int) (2 * 1))).toOption = some [[0, 0], [0, 0]]
    ∧ workingB (stJ (jLg opsLg .active 1 [1, 1])) (jLg opsLg .active 1 [1, 1]) 6 opsLg [] = true
    ∧ workingB (stJ (withOut (jLg opsLg .active 1 [1, 1]) [])) (withOut (jLg opsLg .active 1 [1, 1]) []) 6 opsLg [] = true
    ∧ workingB (stJ (jLg [0x4000, 1])) (jLg [0x4000, 1]) 6 [0x4000, 1] [] = true ∧ ((stJ (jLg [0x4000, 1])).eRead (jLg [0x4000, 1]) 0x4000 8).toOption = some (List.replicate 8 0)
    ∧ (0xFFFFFFFF : Word).toNat < 2 ^ 32 := by
  and_intros <;> decide +kernel

/-- A job with region words, with or without system rights; and a state whose region 4,095 is live. -/
def jEx (sys : Bool) (ops : List Word) : Job := { jb 4 ops with sys }
/-- Its state. -/
def stEx (j : Job) : State := { stJ j with regions := [(4095, { base := 0x10000, size := 1, pol := 1, state := 1, pins := 65534 }), (7, { base := 0x10000, size := 1, state := 1 })] }

/-- RegionWords: ex.set of a new region, of no region, without rights; ex.rep and ex.evict on a region, on none, without rights;
ex.pin on a region, on another context's number. -/
theorem wit_regions : workingB (stEx (jEx true [0, 0x10000, 1048576, 2])) (jEx true [0, 0x10000, 1048576, 2]) 7 [0, 0x10000, 1048576, 2] [] = true
    ∧ ((stEx (jEx true [])).regions.get {} 0).pins = 0 ∧ canonical (0x10000 : Word) = true ∧ bits (0x10000 : Word) 15 0 = 0
    ∧ workingB (stEx (jEx true [7, 0, 0, 0])) (jEx true [7, 0, 0, 0]) 7 [7, 0, 0, 0] [] = true
    ∧ workingB (stEx (jEx false [7, 0, 0, 0])) (jEx false [7, 0, 0, 0]) 7 [7, 0, 0, 0] [] = true
    ∧ workingB (stEx (jEx true [4095, 3, 0x10000])) (jEx true [4095, 3, 0x10000]) 7 [4095, 3, 0x10000] [] = true
    ∧ workingB (stEx (jEx true [4096, 3, 0])) (jEx true [4096, 3, 0]) 7 [4096, 3, 0] [] = true
    ∧ ((stEx (jEx true [])).regions.get {} 4095).state ≠ 0 ∧ ((stEx (jEx true [])).regions.get {} 4095).pins < 65535
    ∧ workingB (stEx (jEx false [4095])) (jEx false [4095]) 7 [4095] [] 2 = true ∧ workingB (stEx (jEx true [4096])) (jEx true [4096]) 7 [4096] [] 2 = true
    ∧ ((stEx (jEx true [])).regions.get {} 4095).ctx = (jEx false [4095]).ctx ∧ ((stEx (jEx true [])).regions.get {} 4095).pred = false := by
  and_intros <;> decide +kernel

end Sys2Proof.Tests
end

