-- ==== Sys2Proof/Tests/WitnessParallel.lean ====
section
/-! SUPPORT. Witnesses for the statements about instructions that reach beyond the core, create and end tasks, or enter
and leave the system: for each statement a concrete state and operands that meet all its hypotheses together. -/

namespace Sys2Proof.Tests

open Sys2Proof Sys2Proof.Machine

set_option Elab.async false

/-- w1 names device memory, w2 holds a number, w3 names the own local memory at 64 through the aperture. -/
def stG : State := mk false (regs3 0x40000 0x1234 0x1000000040)

/-- The same with one posted store of the thread in flight. -/
def stGopen : State := { stG with net := [{ id := 9, src := { uid := 1 }, home := .slice 0, space := .dev, kind := .store 0 0, sc := some 0 }] }

/-- LoadsRequest: device memory, a local memory through the aperture, another package, ldr, and waitw. -/
theorem wit_loads : aloneB stG = true ∧ stG.fed [1] ∧ (Instr.ldg 6 1 29 1 0).wf = true
    ∧ stG.global (globalAddr (stG.val 1) 0) 8 1 = .ok (.dev 0x40000 0) [leaf]
    ∧ (Instr.vldg 0 7 3 0).wf = true ∧ stG.global (globalAddr (stG.val 3) 0) 64 1 = .ok (.loc (some 0) 64) []
    ∧ (mk false (regs3 (2 ^ 51 + 2 ^ 44) 0 0)).global (globalAddr ((mk false (regs3 (2 ^ 51 + 2 ^ 44) 0 0)).val 1) 0) 8 1 = .ok (.remote 1 false) []
    ∧ (Instr.ldr 3 29 2 0).wf = true ∧ (mk false (regs3 0 64 0)).coord ((mk false (regs3 0 64 0)).val 2) 0 8 1 = .ok (.loc (some 0) 64) []
    ∧ (Instr.waitw 0 3 2).wf = true ∧ stG.fed [2] ∧ stG.global (stG.val 3).toNat 8 1 = .ok (.loc (some 0) 64) [] := by
  and_intros <;> decide +kernel

/-- StoresPost: a word, a vector, and str to the last word of a local memory; stg.rel with nothing open. -/
theorem wit_stores : aloneB stG = true ∧ stG.scFull 0 = false ∧ stG.fenceOpen 5 = false ∧ stG.fed [1] ∧ stG.fed [2]
    ∧ stG.global (globalAddr (stG.val 1) 8) (2 ^ (3 : BitVec 2).toNat) 2 = .ok (.dev 0x40008 0) [leaf]
    ∧ (Instr.vstg 1 7 1 0).wf = true ∧ stG.global (globalAddr (stG.val 1) 0) 64 2 = .ok (.dev 0x40000 0) [leaf]
    ∧ (mk false (regs3 0 131064 0)).coord ((mk false (regs3 0 131064 0)).val 2) 0 8 2 = .ok (.loc (some 0) 131064) [] := by
  and_intros <;> decide +kernel

/-- GlobalAccessTraps: an unmapped address, one not aligned, one that is not canonical. -/
theorem wit_global_trap : aloneB stG = true ∧ stG.fed [1] ∧ stG.fed [2] ∧ (Instr.ldg 6 0 3 1 1).wf = true
    ∧ stG.global (globalAddr (stG.val 1) 1) 8 1 = .trap { code := 5, acc := 1, addr := 0x40001 }
    ∧ (mk false (regs3 (2 ^ 37) 0 0)).global (globalAddr ((mk false (regs3 (2 ^ 37) 0 0)).val 1) 0) 8 2 = .trap { code := 6, acc := 2, addr := 0x2000000000 }
    ∧ (Instr.vldg 0 7 1 0).wf = true ∧ (Instr.vstg 0 7 1 0).wf = true
    ∧ (mk false (regs3 (2 ^ 55) 0 0)).global (globalAddr ((mk false (regs3 (2 ^ 55) 0 0)).val 1) 0) 64 1 = .trap { code := 4, acc := 1, addr := 0x80000000000000 } := by
  and_intros <;> decide +kernel

/-- AtomicsRequest: a word, a double word with release, a quad word compare. AtomicsPost: on counters 0 and 7. -/
theorem wit_atomics : aloneB stG = true ∧ (Instr.amoMax 0 1 0 29 1 31).wf = true ∧ amoRule (.amoMax 0 1 0 29 1 31) = some (5, 0, 1, 0, 29, 1, 31)
    ∧ stG.fed (amoSources 5 0 29 1 31) ∧ stG.global (stG.val 1).toNat 4 3 = .ok (.dev 0x40000 0) [leaf] ∧ pathCarries (.dev 0x40000 0) 5 0
    ∧ (Instr.amoIncb 1 3 0 0 1 2).wf = true ∧ amoRule (.amoIncb 1 3 0 0 1 2) = some (10, 1, 3, 0, 0, 1, 2) ∧ stG.fed (amoSources 10 1 0 1 2)
    ∧ stG.global (stG.val 1).toNat 8 3 = .ok (.dev 0x40000 0) [leaf] ∧ pathCarries (.dev 0x40000 0) 10 1 ∧ stG.fenceOpen 5 = false
    ∧ (Instr.amoCas 2 0 0 2 1 26).wf = true ∧ amoRule (.amoCas 2 0 0 2 1 26) = some (9, 2, 0, 0, 2, 1, 26) ∧ stG.fed (amoSources 9 2 2 1 26)
    ∧ stG.global (stG.val 1).toNat 16 3 = .ok (.dev 0x40000 0) [leaf] ∧ pathCarries (.dev 0x40000 0) 9 2
    ∧ (Instr.amoFadd 0 2 1 7 1 2).wf = true ∧ amoRule (.amoFadd 0 2 1 7 1 2) = some (11, 0, 2, 1, 7, 1, 2) ∧ stG.fed (amoSources 11 0 7 1 2)
    ∧ stG.scFull 7 = false ∧ pathCarries (.dev 0x40000 0) 11 0 := by
  and_intros <;> first | trivial | decide +kernel

/-- AtomicArithmetic: the largest operands of both sizes, and an incb whose count stands at its cap. -/
theorem wit_atomic_arithmetic : (2 ^ 32 - 1 < 256 ^ 4 ∧ 2 ^ 64 - 1 < 256 ^ 8) ∧ (let m := 256 ^ 4 * 5 + 5; m % 256 ^ 4 ≤ m / 256 ^ 4 ∧ m < 256 ^ 8) := by decide

/-- MigratingLoad: a thread that migrates to core 1, and one that stays in system mode, by its register, and by its target. -/
theorem wit_migrate : aloneB (mk false (regs3 0x20040 0 64)) = true ∧ (mk false (regs3 0x20040 0 64)).fed [1] ∧ (Instr.ldrMig 3 15 1 0).wf = true
    ∧ (mk false (regs3 0x20040 0 64)).coord ((mk false (regs3 0x20040 0 64)).val 1) 0 8 1 = .ok (.loc (some 1) 64) []
    ∧ ¬((mk false (regs3 0x20040 0 64)).th.sys = true ∨ 15 < (15 : Reg).toNat ∨ 15 < (1 : Reg).toNat ∨ ∀ m x, Place.loc (some 1) 64 = .loc (some m) x → m = 0)
    ∧ (mk false (regs3 0x20040 0 64)).migRefused = false ∧ (mk false (regs3 0x20040 0 64)).unacked 1 0 5 = false
    ∧ (mk true (regs3 0x20040 0 64)).th.sys = true ∧ 15 < (16 : Reg).toNat
    ∧ (mk false (regs3 0x20040 0 64)).coord ((mk false (regs3 0x20040 0 64)).val 3) 0 8 1 = .ok (.loc (some 0) 64) [] := by
  refine ⟨?_, ?_, ?_, ?_, ?_, ?_, ?_, ?_, ?_, ?_⟩
  case refine_5 =>
    rintro (h | h | h | h)
    · revert h; decide +kernel
    · revert h; decide
    · revert h; decide
    · exact absurd (h 1 64 rfl) (by decide)
  all_goals decide +kernel

/-- FenceResults: nothing open, and a posted store in flight. -/
theorem wit_fence : aloneB stG = true ∧ (Instr.fence 5).wf = true ∧ (Instr.fence 0).wf = true ∧ stG.th.deferred = none ∧ stG.fenceOpen 5 = false
    ∧ stG.fenceOpen 0 = false ∧ aloneB stGopen = true ∧ stGopen.th.deferred = none ∧ stGopen.fenceOpen 5 = true := by
  and_intros <;> decide +kernel

/-- PrefetchResult: device memory, another package, the own local memory, an unmapped address. -/
theorem wit_prefetch : aloneB stG = true ∧ (Instr.pf 7 1).wf = true ∧ stG.fed [1] ∧ stG.scFull 7 = false
    ∧ stG.global (stG.val 1).toNat 1 1 = .ok (.dev 0x40000 0) [leaf]
    ∧ (mk false (regs3 (2 ^ 51 + 2 ^ 44) 0 0)).global ((mk false (regs3 (2 ^ 51 + 2 ^ 44) 0 0)).val 1).toNat 1 1 = .ok (.remote 1 false) []
    ∧ stG.global (stG.val 3).toNat 1 1 = .ok (.loc (some 0) 64) []
    ∧ (mk false (regs3 (2 ^ 37) 0 0)).global ((mk false (regs3 (2 ^ 37) 0 0)).val 1).toNat 1 1 = .trap { code := 6, acc := 1, addr := 0x2000000000 } := by
  and_intros <;> decide +kernel

/-- A core with a tag table of two slots: slot 1 holds tag 5, slot 0 is free. -/
def stTags (n : Nat) (a b : Nat) : State := (mk false (regs3 a b 0)).modCore 0 (fun c => { c with nslot := n, tags := [(1, 0x580)] })

/-- Two valid entries, referenced as said, with the pointer at 1. -/
def stTagsFull (r0 r1 : Nat) : State :=
  (mk false (regs3 0x600 1 0)).modCore 0 (fun c => { c with nslot := 2, scptr := 1, tags := [(0, BitVec.ofNat 64 (0x780 + r0)), (1, BitVec.ofNat 64 (0x580 + r1))] })

/-- SoftwareCache: no slots, a hit, a miss with an entry free, with none free and one or both referenced, a fill in range and
outside, an invalidation of one, of none, of all. -/
theorem wit_tags : aloneB (stTags 2 0x500 1) = true ∧ (Instr.tlook 29 1).wf = true ∧ (stTags 2 0x500 1).fed [1] ∧ (stTags 0 0x500 1).cor.nslot = 0
    ∧ tagV ((stTags 2 0x500 1).cor.tags.get 0 1) = true ∧ bits ((stTags 2 0x500 1).cor.tags.get 0 1) 63 8 = bits ((stTags 2 0x500 1).val 1) 63 8
    ∧ (∀ j, j < 1 → ¬(tagV ((stTags 2 0x500 1).cor.tags.get 0 j) = true ∧ bits ((stTags 2 0x500 1).cor.tags.get 0 j) 63 8 = 5))
    ∧ tagV ((stTags 2 0x600 1).cor.tags.get 0 0) = false
    ∧ aloneB (stTagsFull 0 0x40) = true ∧ (∀ j, j < 2 → tagV ((stTagsFull 0 0x40).cor.tags.get 0 j) = true)
    ∧ ((stTagsFull 0 0x40).cor.tags.get 0 ((1 + 1) % 2)).getLsbD 6 = false
    ∧ (∀ j, j < 2 → tagV ((stTagsFull 0x40 0x40).cor.tags.get 0 j) = true ∧ ((stTagsFull 0x40 0x40).cor.tags.get 0 j).getLsbD 6 = true)
    ∧ (Instr.tfill 29 1 2).wf = true ∧ (Instr.tinv 29 1).wf = true ∧ (stTags 2 0x500 1).fed [1, 2] ∧ (∀ j, j < 2 → ¬(tagV ((stTags 2 0x600 1).cor.tags.get 0 j) = true ∧ bits ((stTags 2 0x600 1).cor.tags.get 0 j) 63 8 = 6))
    ∧ (stTags 2 0x500 1).fed [2] ∧ bits ((stTags 2 0x500 1).val 2) 7 0 < 2 ∧ 2 ≤ bits ((stTags 2 0x500 2).val 2) 7 0
    ∧ ((stTags 2 0x200 1).val 1).getLsbD 9 = true ∧ ((stTags 2 0x501 1).val 1).getLsbD 9 = false ∧ bits ((stTags 2 0x501 1).val 1) 7 0 < 2
    ∧ 2 ≤ bits ((stTags 2 0x402 1).val 1) 7 0 := by
  and_intros <;> decide +kernel

/-- The thread with two words composed for port 0. -/
def stSend (c : List Word) : State := (mk false (regs3 (2 ^ 5) 0 0)).modSlot 0 0 (fun x => { x with th := { x.th with comp0 := c } })

/-- SendResults: nothing composed, a header for the own core with a word, and sendv. -/
theorem wit_send : aloneB (stSend []) = true ∧ aloneB (stSend [fld 5 1, 7]) = true ∧ (stSend [fld 5 1, 7]).outgoing 0 0 < 32
    ∧ ((stSend []).slotAt 0 0).comp 0 = [] ∧ ((stSend [fld 5 1, 7]).slotAt 0 0).comp 0 = fld 5 1 :: [7]
    ∧ (stSend []).headerOk 0 (stSend []).th (fld 5 1) = true ∧ (fld 5 1).getLsbD 11 = false ∧ bits (fld 5 1) 63 57 = (stSend []).pkgNo
    ∧ (stSend []).place 0 0 (linOf (bits (fld 5 1) 50 45) (bits (fld 5 1) 56 51)) = some 0
    ∧ (Instr.sendv 1 1 7).wf = true ∧ (stSend []).fed [1] ∧ (stSend []).val 1 = fld 5 1 ∧ (stSend []).outgoing 0 1 < 32 := by
  and_intros <;> decide +kernel

/-- TagEnables; MailboxInstructions with the region in force and without. -/
theorem wit_tags_mailbox : aloneB stG = true ∧ (Instr.tset 29 1).wf = true ∧ stG.fed [1] ∧ (Instr.mbxRd 29 1).wf = true ∧ stG.fed [1, 2]
    ∧ (stG.modCore 0 (fun c => { c with mben := true })).cor.mben = true ∧ aloneB (stG.modCore 0 (fun c => { c with mben := true })) = true
    ∧ stG.cor.mben = false := by
  and_intros <;> decide +kernel

/-- RowInsertion: the last row of a core with the greatest depth and one with depth 1, in which a second score arrives, the last
that its row expects: the better of the two stays, by lower expert where they are equal, and one is dropped. -/
theorem wit_row : (∀ dep ∈ [1, 16], (({ mk false [] with cores := [(0, { coreOf false [] with mben := true, mbbase := 7, mbdepth := dep })] } : State).coreAt 0).mbdepth ≤ 16)
    ∧ (let s : State := { mk false [] with cores := [(0, { coreOf false [(16384 * 7 + 256 * 63, 16, (mkEntry 0x3F800000 5 0 8 0).toNat)] with mben := true, mbbase := 7, mbdepth := 1, rows := [(63, fld 48 1 ||| fld 32 2 ||| fld 8 1)] })] }
      let t := s.rowInsert 0 63 [mkEntry 0x3F800000 4 0 9 0]
      ((t.coreAt 0).rowEntries 63).map entExpert = [4] ∧ bits ((t.coreAt 0).rows.get 0 63) 31 24 = 1 ∧ ((t.coreAt 0).rows.get 0 63).getLsbD 0 = true) := by
  and_intros <;> decide +kernel

/-- A task descriptor in the last 32 bytes of local memory: entry 0x2000, argument 5. -/
def stTask : State := mk false ([(131040, 8, 0x2000), (131048, 8, 5), (131056, 8, 0xFFFFF80000000000)] ++ regs3 131040 1 0x20000000)

/-- TaskCreateResult. -/
theorem wit_tcreate : aloneB stTask = true ∧ (Instr.tcreate 29 1).wf = true ∧ stTask.fed [1] ∧ stTask.th.buf = []
    ∧ localOkAt ((stTask.val 1).toNat : Int) 32 32 ∧ stTask.claimedL 0 (stTask.val 1).toNat 32 = false ∧ stTask.rqRoom 0 = true := by
  and_intros <;> decide +kernel

/-- DependenceDecrement: a record of the own package, one of a known peer, one misaligned, one of an unknown package. -/
theorem wit_tdec : aloneB (mk false (regs3 64 1 0x20000040)) = true ∧ (Instr.tdec 7 1 2).wf = true ∧ (mk false (regs3 64 1 0x20000040)).fed [1, 2]
    ∧ bits ((mk false (regs3 64 1 0x20000040)).val 1) 5 0 = 0 ∧ (mk false []).reachable (bits (64 : Word) 35 29) = true ∧ (mk false []).scFull 7 = false
    ∧ (mk false []).reachable (bits (0x20000040 : Word) 35 29) = true
    ∧ bits ((mk false (regs3 65 1 0)).val 1) 5 0 ≠ 0 ∧ bits ((mk false (regs3 0x40000040 1 0)).val 1) 5 0 = 0
    ∧ (mk false []).reachable (bits ((mk false (regs3 0x40000040 1 0)).val 1) 35 29) = false := by
  and_intros <;> decide +kernel

/-- A launch of one thread on core 0, and the thread of the tests as its thread. -/
def theLaunch : Launch := { die := 0, entry := 1, pc := 0x3000, wx := 1, wy := 1, thr := 1, counter := 1 }

/-- The thread of the tests belongs to launch 7. -/
def inLaunch (s : State) : State := { s.modTh 0 0 (fun t => { t with launch := some 7 }) with launches := [(7, theLaunch)] }

/-- A handler of the own workspace over a task whose home workspace is 2, and the same with an open counter there. -/
def stHandler (sc : Nat) : State :=
  (inLaunch (mk true [(1024 + 824, 8, 2 * 1024), (2048 + 846, 2, sc)])).modTh 0 0 (fun t => { t with wp := 1, homeWp := 2, home := 0 })

/-- The thread of the tests as a guest of core 0 in workspace 4, from workspace 2 of core 1. -/
def stVisitor : State :=
  (inLaunch (mk false [])).modSlot 0 0 (fun x => { x with st := .guest, th := { x.th with wp := 4, home := 1, homeWp := 2 } })

/-- A thread of an ordered launch that has spawned its next iteration, at 0x2000, whose number goes to w3. -/
def stRespawn : State := { (inLaunch (mk false [])).modTh 0 0 (fun t => { t with sw := fld 62 1, respawn := some (3, 0x2000) }) with
  ords := [(7, { tasks := [{ ordinal := 0, uid := 1, core := 0, st := .running }] })] }

/-- TaskExit: the counters are zero, in a launch, and the holder of a chain's baton; one counter is open; a handler over a task;
a guest; a spawned iteration of an ordered launch. YieldResult: a run queue with room, and a full one. -/
theorem wit_exit : aloneB (inLaunch stG) = true ∧ (inLaunch stG).th.sys = false ∧ (inLaunch stG).th.respawn = none ∧ (inLaunch stG).th.home = 0
    ∧ (let s : State := { stG.modTh 0 0 (fun t => { t with chain := some 5 }) with chains := [(5, { iters := [1, 2] })] }
      aloneB s = true ∧ s.th.chain = some 5 ∧ s.th.respawn = none)
    ∧ aloneB (stHandler 0) = true ∧ (stHandler 0).th.sys = true ∧ (stHandler 0).th.home = 0
    ∧ ((stHandler 0).coreAt 0).anySc (bits (((stHandler 0).coreAt 0).word (wsBase 1 + 824)) 16 10) = false
    ∧ aloneB (stHandler 1) = true ∧ ((stHandler 1).coreAt 0).anySc (bits (((stHandler 1).coreAt 0).word (wsBase 1 + 824)) 16 10) = true
    ∧ stVisitor.th.respawn = none ∧ (stVisitor.coreAt 1).anySc 2 = false ∧ stVisitor.th.deferred = none
    ∧ stRespawn.th.respawn = some (3, 0x2000)
    ∧ ((inLaunch stG).coreAt 0).anySc 0 = false ∧ (inLaunch stG).th.deferred = none ∧ (inLaunch stG).th.homeWp < 128
    ∧ ((mk false [(846, 2, 1)]).coreAt 0).anySc 0 = true ∧ aloneB (mk false [(846, 2, 1)]) = true
    ∧ stG.cor.rqFree = true ∧ (stG.modCore 0 (fun c => { c with rq := List.replicate 64 { th := {} } })).cor.rqFree = false
    ∧ aloneB (stG.modCore 0 (fun c => { c with rq := List.replicate 64 { th := {} } })) = true := by
  and_intros <;> decide +kernel

theorem wit_guest : Visits stVisitor := ⟨by decide +kernel, by decide +kernel, by decide +kernel, by decide +kernel, by decide +kernel,
  by decide +kernel, by decide +kernel, by decide +kernel, by decide +kernel⟩

theorem wit_respawn : InQuantum stRespawn 7 { ordinal := 0, uid := 1, core := 0, st := .running } :=
  ⟨solo_of_test _ (by decide +kernel), by decide +kernel, by decide +kernel, by decide +kernel, by decide +kernel, rfl⟩

/-- A launch descriptor at 2048: entry 0x3000, a rectangle of one core at (0, 0), 1 thread. -/
def stLaunch (sys : Bool) (w2 w3 : Nat) : State := mk sys ([(2048, 8, 0x3000), (2056, 8, 9), (2064, 8, w2), (2072, 8, w3)] ++ regs3 2048 7 0)

/-- A rectangle word of one core at (0, 0). -/
def oneCore : Nat := (fld 45 1 ||| fld 38 1).toNat

/-- The descriptor that a state of stLaunch holds. -/
def ldOf (s : State) : LaunchDesc :=
  let w := fun (i : Nat) => (BitVec.ofNat 64 (leNum s.seen (2048 + 8 * i) 8) : Word)
  LaunchDesc.of [w 0, w 1, w 2, w 3] s.th.ctx (!s.th.sys)

/-- LaunchStarts: an ordinary launch, an ordered one, one while a persistent launch of the context is in force; descriptors past
the end and misaligned, a context from user mode, an empty rectangle, a table without room. -/
theorem wit_launch : aloneB (stLaunch false 0 oneCore) = true ∧ (Instr.launch 29 1).wf = true ∧ (stLaunch false 0 oneCore).fed [1]
    ∧ (stLaunch false 0 oneCore).th.buf = [] ∧ localOkAt (((stLaunch false 0 oneCore).val 1).toNat : Int) 32 32
    ∧ (stLaunch false 0 oneCore).claimedL 0 2048 32 = false ∧ bits (BitVec.ofNat 64 oneCore) 15 0 = 0
    ∧ (ldOf (stLaunch false 0 oneCore)).rectOk = true
    ∧ (stLaunch false 0 oneCore).mapOk 0 0 0 0 1 1 = true ∧ (stLaunch false 0 oneCore).launchWaits 0 (ldOf (stLaunch false 0 oneCore)) = false
    ∧ (ldOf (stLaunch false 0 oneCore)).pers = false
    ∧ (ldOf (stLaunch false (2 ^ 41) oneCore)).ord = true ∧ (stLaunch false (2 ^ 41) oneCore).launchWaits 0 (ldOf (stLaunch false (2 ^ 41) oneCore)) = false
    ∧ (let s : State := { stLaunch false (2 ^ 40) oneCore with launches := [(7, { theLaunch with pers := true })] }
      aloneB s = true ∧ (ldOf s).pers = true ∧ s.persInForce (ldOf s).ctx = true ∧ s.launchWaits 0 (ldOf s) = false)
    ∧ (stLaunch true 0 (oneCore + 5)).th.sys = true
    ∧ 131072 < ((mk false (regs3 131041 0 0)).val 1).toNat + 32 ∧ ((mk false (regs3 131040 0 0)).val 1).toNat + 32 ≤ 131072
    ∧ ((mk false (regs3 2049 0 0)).val 1).toNat % 32 ≠ 0 ∧ bits (BitVec.ofNat 64 (oneCore + 5)) 15 0 ≠ 0
    ∧ (ldOf (stLaunch false 0 5)).rectOk = false
    ∧ (let s : State := { stLaunch false 0 oneCore with launches := (List.range 16).map (fun i => (i + 1, { theLaunch with entry := i })) }
      aloneB s = true ∧ s.launchWaits 0 (ldOf s) = true) := by
  and_intros <;> decide +kernel

/-- w1 holds the identifier of launch 7. -/
def stJoin (cnt : Nat) : State := { mk false (regs3 7 0 0) with launches := [(7, { theLaunch with counter := cnt, kill := 1 })] }

/-- JoinResult: no launch, one that has completed, one that has not. -/
theorem wit_join : aloneB (stJoin 0) = true ∧ (Instr.join 29 1).wf = true ∧ (stJoin 0).fed [1] ∧ ((mk false (regs3 7 0 0)).launches.find? (fun l => l.1 == 7)) = none
    ∧ (stJoin 0).launches.find? (fun l => l.1 == 7) = some (7, { theLaunch with counter := 0, kill := 1 })
    ∧ (∀ c ∈ (stJoin 0).cores, ∀ x ∈ c.2.slots, x.2.hold = none) ∧ aloneB (stJoin 1) = true
    ∧ (stJoin 1).launches.find? (fun l => l.1 == 7) = some (7, { theLaunch with counter := 1, kill := 1 }) := by
  and_intros <;> decide +kernel

/-- The thread of the tests in a launch of one core and n threads, at a barrier of the subgroup in w1. -/
def stBar (n x : Nat) (ended : List (Nat × Nat)) : State :=
  { (mk false (regs3 x 0 0)).modTh 0 0 (fun t => { t with launch := some 7 }) with launches := [(7, { theLaunch with thr := n, counter := n, ended := ended })] }

/-- BarrierArrival: outside a launch, an illegal subgroup, alone at the barrier, every other member ended, one missing. -/
theorem wit_bar : aloneB (stBar 1 0 []) = true ∧ (Instr.bar 29 1).wf = true ∧ (stBar 1 0 []).fed [1] ∧ (mk false []).launchOf (mk false []).th = none
    ∧ (stBar 1 0 []).th.launch = some 7 ∧ (stBar 1 0 []).launches.find? (fun y => y.1 == 7) = some (7, theLaunch)
    ∧ theLaunch.legal 1 0 0 0 = false ∧ theLaunch.legal 0 0 0 0 = true ∧ (stBar 1 0 []).barFull 0 theLaunch { id := 0, launch := 7, rx := 0, ry := 0, lw := 0, lh := 0 } = false
    ∧ (stBar 1 0 []).barriers = [] ∧ (∀ c ∈ (stBar 1 0 []).cores, ∀ x ∈ c.2.slots, x.2.hold = none)
    ∧ (theLaunch.members { id := 0, launch := 7, rx := 0, ry := 0, lw := 0, lh := 0 }).filter (fun m => m != (0, 0)) = []
    ∧ ({ theLaunch with thr := 2 } : Launch).members { id := 0, launch := 7, rx := 0, ry := 0, lw := 0, lh := 0 } = [(0, 0), (0, 1)] := by
  and_intros <;> decide +kernel

/-- QueueRequests: a queue in device memory, the block in the last line of local memory. -/
theorem wit_queue : aloneB (mk false (regs3 0x40000 131008 0)) = true ∧ (Instr.enq 29 1 2).wf = true ∧ (mk false (regs3 0x40000 131008 0)).fed [1, 2]
    ∧ (mk false (regs3 0x40000 131008 0)).th.buf = [] ∧ (mk false (regs3 0x40000 131008 0)).global ((mk false (regs3 0x40000 131008 0)).val 1).toNat 64 2 = .ok (.dev 0x40000 0) [leaf]
    ∧ localOkAt (((mk false (regs3 0x40000 131008 0)).val 2).toNat : Int) 64 64 ∧ (mk false (regs3 0x40000 131008 0)).claimedL 0 131008 64 = false
    ∧ (mk false (regs3 0x40000 131008 0)).lockedL 0 131008 64 = false ∧ (mk false (regs3 0x40000 131008 0)).storable 131008 64 := by
  and_intros <;> decide +kernel

/-- SpawnAhead: the first spawn of a chain, a spawn in a chain of seven, a second one in the same iteration, and one of an
iteration that itself runs ahead. -/
theorem wit_spawna : aloneB stG = true ∧ stG.cor.lmem.wf = true
    ∧ (let s : State := { stG.modTh 0 0 (fun t => { t with sw := fld 61 1, chain := some 5, iter := 1 }) with chains := [(5, { iters := [9, 1] })] }
      soloB s = true ∧ swOrd s.th.sw = false ∧ swRa s.th.sw = true ∧ s.th.sys = false ∧ (27 : Reg).toNat < 28 ∧ (Instr.spawna 27 1).wf = true ∧ s.fed [1]
      ∧ s.cor.lmem.wf = true ∧ s.th.spawned = false ∧ s.rqRoom 1 = true ∧ (s.chains.get {} 5).iters.length < 8) ∧ (Instr.spawna 29 1).wf = true ∧ stG.fed [1] ∧ stG.core < 4096 ∧ stG.th.spawned = false ∧ stG.rqRoom 1 = true
    ∧ coreOfSlice (thicketOf 0) ((sliceOf 0 + 1) % 8) = 1 ∧ stG.th.chain = none
    ∧ aloneB (stG.modTh 0 0 (fun t => { t with spawned := true })) = true ∧ (stG.modTh 0 0 (fun t => { t with spawned := true })).th.spawned = true
    ∧ (let s : State := { stG.modTh 0 0 (fun t => { t with chain := some 5 }) with chains := [(5, { iters := [1, 2, 3, 4, 5, 6, 7] })] }
      aloneB s = true ∧ s.th.chain = some 5 ∧ (s.chains.get {} 5).iters.length < 8) := by
  and_intros <;> decide +kernel

/-- The thread with counter 7 at 2 and w1 = n, with or without a deferred record. -/
def stCount (n : Nat) (d : Option Deferred) : State := (mk false ((846, 2, 2) :: regs3 n 0 0)).modTh 0 0 (fun t => { t with deferred := d })

/-- BatonAndCounterWait: the counter at the bound, above it, and at the bound with a deferred record; a running-ahead thread. -/
theorem wit_scwait : aloneB (stCount 2 none) = true ∧ (Instr.scwait 7 1).wf = true ∧ (stCount 2 none).fed [1] ∧ (stCount 2 none).th.deferred = none
    ∧ ((stCount 2 none).coreAt 0).sc 0 7 ≤ ((stCount 2 none).val 1).toNat ∧ ((stCount 1 none).val 1).toNat < ((stCount 1 none).coreAt 0).sc 0 7
    ∧ aloneB (stCount 2 (some { code := 8, acc := 2, addr := 64 })) = true
    ∧ (stCount 2 (some { code := 8, acc := 2, addr := 64 })).th.deferred = some { code := 8, acc := 2, addr := 64 }
    ∧ (let s := stG.modTh 0 0 (fun t => { t with sw := fld 61 1 })
      soloB s = true ∧ s.th.sys = false ∧ swRa s.th.sw = true) := by
  and_intros <;> decide +kernel

/-- A program `lit 5, end` at 4096 and a node of 128 bytes at 130944. -/
def stJob : State := mk false ([(4096, 2, 0x8005), (4098, 2, 2)] ++ regs3 4096 0 130944)

/-- stJob with the queue of kind 0 full. -/
def stJobFull : State := { stJob with jobs := List.replicate 64 { pq := queueAt 0 0, kind := 0 } }

/-- JobSubmission: without a node, with one in the last bytes, a program in the last word, and a full queue. -/
theorem wit_job : aloneB stJob = true ∧ (Instr.job 0 29 1 0).wf = true ∧ (Instr.job 4 29 1 3).wf = true ∧ stJob.fed [1, 0] ∧ stJob.fed [1, 3] ∧ stJob.th.buf = []
    ∧ bits (stJob.val 1) 0 0 = 0 ∧ (stJob.val 1).toNat ≤ 131070 ∧ stJob.val 0 = 0 ∧ bits (stJob.val 3) 5 0 = 0 ∧ (stJob.val 3).toNat + 128 = 131072 ∧ stJob.jobs = []
    ∧ stJob.queueFull (queueAt 0 0) = false ∧ stJob.queueFull (queueAt 4 0) = false ∧ (stJob.readProg 4096 256).2 = true
    ∧ aloneB stJobFull = true ∧ stJobFull.queueFull (queueAt 0 0) = true ∧ (∀ j ∈ stJobFull.jobs, j.claims = [])
    ∧ localOkAt (131070 : Nat) 2 2 := by
  and_intros <;> decide +kernel

/-- A job of the thread's context named by w1, in a state. -/
def stQuery (x : JobSt) (rep : Bool) : State := { mk false (regs3 0x10001 8 9) with jobs := [{ id := 0x10001, st := x, rep := rep, order := 1 }] }

/-- JobQueries: no job, one in its queue, one done, one at fault not yet reported and reported. -/
theorem wit_queries : aloneB (stQuery .queued false) = true ∧ (Instr.jwait 29 1).wf = true ∧ (stQuery .queued false).fed [1] ∧ (stQuery .queued false).fed [2]
    ∧ (mk false (regs3 0x10001 8 9)).jobOf 0x10001 0 = none
    ∧ (stQuery .queued false).jobOf 0x10001 0 = some { id := 0x10001, st := .queued, order := 1 } ∧ ({ st := .queued } : Job).holds = true
    ∧ (stQuery .done false).jobOf 0x10001 0 = some { id := 0x10001, st := .done, order := 1 } ∧ ({ st := .done } : Job).holds = false
    ∧ (stQuery .fault false).jobOf 0x10001 0 = some { id := 0x10001, st := .fault, order := 1 } ∧ ({ st := .fault } : Job).holds = false
    ∧ (stQuery .error true).jobOf 0x10001 0 = some { id := 0x10001, st := .error, rep := true, order := 1 } ∧ ({ st := .error } : Job).holds = false := by
  and_intros <;> decide +kernel

/-- The thread of the tests as thread 65,535 of an ordered launch in round 65,535 with 65,535 squashes. -/
def stOrd : State :=
  { stG.modTh 0 0 (fun t => { t with sw := fld 62 1, launch := some 7 }) with
    launches := [(7, { theLaunch with ord := true })]
    ords := [(7, { round := 65535, tasks := [{ ordinal := 65535, uid := 1, core := 0, st := .running, squashes := 65536 }] })] }

/-- OrderedModeQueries: in a quantum. -/
theorem wit_quantum : InQuantum stOrd 7 { ordinal := 65535, uid := 1, core := 0, st := .running, squashes := 65536 } :=
  ⟨solo_of_test _ (by decide +kernel), by decide +kernel, by decide +kernel, by decide +kernel, by decide +kernel, rfl⟩

/-- OrderedModeQueries: outside ordered mode and in it. -/
theorem wit_ordered : aloneB stG = true ∧ (Instr.qstat 29).wf = true
    ∧ stOrd.ordOf stOrd.th.uid = some (7, { ordinal := 65535, uid := 1, core := 0, st := .running, squashes := 65536 }) := by
  and_intros <;> decide +kernel

/-- TrapEntry: from user mode, and from system mode in another workspace. DoubleTrap: from system mode in the system
workspace. -/
theorem wit_trap : stG.bad = [] ∧ ¬(swMode (0 : Word) = true ∧ (stG.slotAt 0 0).th.wp = (stG.slotAt 0 0).swp)
    ∧ ¬(swMode (0x8000000000000000 : Word) = true ∧ (stG.slotAt 0 0).th.wp = (stG.slotAt 0 0).swp)
    ∧ swMode (0x8000000000000000 : Word) = true
    ∧ ((inLaunch stG).modSlot 0 0 (fun x => { x with swp := 0 })).slotAt 0 0 = { (inLaunch stG).slotAt 0 0 with swp := 0 }
    ∧ (((inLaunch stG).modSlot 0 0 (fun x => { x with swp := 0 })).slotAt 0 0).th.wp = 0 := by
  and_intros <;> decide +kernel

/-- A handler in workspace 1 whose frame returns to address pc with status sw and workspace 127. -/
def stFrame (pc sw : Nat) : State :=
  (mk true ([(1024 + 784, 8, pc), (1024 + 792, 8, sw), (1024 + 824, 8, 127 * 1024), (1024 + 8, 8, 5), (1024 + 16, 8, 1)])).modTh 0 0
    (fun t => { t with wp := 1 })

/-- ServiceAndBreakpoint; ReturnFromTrap to user mode, to system mode, at the highest address; SwapWorkspaces. -/
theorem wit_return : aloneB stG = true ∧ aloneB (stFrame 0x2000 0) = true ∧ (stFrame 0x2000 0).th.sys = true ∧ targetOk ((stFrame 0x2000 0).wsWord 784).toNat
    ∧ aloneB (stFrame (2 ^ 64 - 4) (2 ^ 63)) = true ∧ targetOk ((stFrame (2 ^ 64 - 4) (2 ^ 63)).wsWord 784).toNat ∧ swMode ((stFrame 0 (2 ^ 63)).wsWord 792) = true
    ∧ (Instr.swp 29 1 2).wf = true ∧ (stFrame 0 0).fed [1, 2] ∧ ((stFrame 0 0).val 1).getLsbD 0 = true := by
  and_intros <;> decide +kernel

/-- The handler's core with two parked threads of key 5, in workspaces 3 and 2. -/
def stParked : State := (stFrame 0x2000 0).modCore 0 (fun c => { c with
  park := [{ key := 5, th := { uid := 2, homeWp := 3, wp := 3 } }, { key := 5, th := { uid := 4, homeWp := 2, wp := 2 } }] })

/-- ParkAndResume: a handler over a user frame and over a system frame; no parked thread of the key, and two; a full run queue. -/
theorem wit_park : aloneB (stFrame 0x2000 0) = true ∧ (Instr.resume 29 1 2).wf = true ∧ (Instr.park 1).wf = true ∧ (stFrame 0x2000 0).th.sys = true
    ∧ (stFrame 0x2000 0).fed [1, 2] ∧ (stFrame 0x2000 0).fed [1]
    ∧ swMode ((stFrame 0x2000 0).wsWord 792) = false ∧ swMode ((stFrame 0 (2 ^ 63)).wsWord 792) = true ∧ (stFrame 0x2000 0).cor.park = []
    ∧ aloneB stParked = true ∧ (stParked.val 1).extractLsb' 0 32 = 5
    ∧ (∃ x ∈ stParked.cor.park, x.key = 5 ∧ ∀ y ∈ stParked.cor.park, y.key = 5 → y ≠ x → x.th.homeWp < y.th.homeWp)
    ∧ (stParked.val 2).getLsbD 0 = true ∧ (stParked.val 0).getLsbD 0 = false ∧ stParked.rqRoom 0 = true
    ∧ (let s := stParked.modCore 0 (fun c => { c with rq := List.replicate 64 { th := {} } })
      aloneB s = true ∧ s.rqRoom 0 = false) := by
  and_intros <;> decide +kernel

/-- SystemOnly: user mode. -/
theorem wit_system_only : aloneB stG = true ∧ stG.th.sys = false ∧ stG.fed [1, 2] ∧ stG.fed [1] := by and_intros <;> decide +kernel

end Sys2Proof.Tests
end

