-- ==== Sys2Proof/Tests/WitnessEvent.lean ====
section
/-! SUPPORT. Witnesses for the statements about events of tasks, messages, homes, launches, rounds and jobs: for each
statement a concrete state and operands that meet all its hypotheses together, at boundary values. -/

namespace Sys2Proof.Tests

open Sys2Proof Sys2Proof.Machine

set_option Elab.async false

/-- An entry for slot 3: a fresh task of the highest priority with argument 7, or one that goes on in workspace 5. -/
def anEntry (fresh : Bool) : RqEntry := { th := { uid := 2, pc := 0x2000, homeWp := 5, wp := 5 }, fresh := fresh, sb := some 3, budget := 0xFFFFE, arg := 7 }

/-- Core 0 with one free workspace, the last, and one entry in its run queue. -/
def stEntry (fresh : Bool) : State := (mk false []).modCore 0 (fun c => { c with wsfree1 := 0x8000000000000000, rq := [anEntry fresh] })

/-- A running-ahead child with its spawner's registers, and a task that a remote read brought home with its value. -/
def anAhead : RqEntry := { anEntry true with ahead := true, regs := some [(8, 5), (767, 6)] }
def aReturned : RqEntry := { anEntry false with held := some ({ dst := .reg 1 64 false, sylls := 1 }, 5) }

/-- TaskEvents: a fresh task in the last workspace and slot, one with registers of its own, one that goes on, and one whose value
a remote read brought home; a pending write of the last register. -/
theorem wit_task_start : (∀ e ∈ [anAhead, aReturned], let s := (mk false []).modCore 0 (fun c => { c with wsfree1 := 0x8000000000000000, rq := [e] })
      (s.slotAt 0 3).st = .free ∧ (s.hedge (hedgeOf 0)).drained = false ∧ (s.coreAt 0).lowFree = some 127
      ∧ rqChoose ((s.coreAt 0).risen.rq.filter (fun e => !s.thStopped 0 e.th)) 3 true = some e)
    ∧ anAhead.fresh = true ∧ anAhead.held = none ∧ anAhead.regs = some [(8, 5), (767, 6)] ∧ Memory.wf [(8, 5), (767, 6)] = true
    ∧ aReturned.fresh = false ∧ aReturned.held = some ({ dst := .reg 1 64 false, sylls := 1 }, 5)
    ∧ (∀ b ∈ [true, false], ((stEntry b).slotAt 0 3).st = .free ∧ ((stEntry b).hedge (hedgeOf 0)).drained = false)
    ∧ (((mk false []).modSlot 0 0 (fun x => { x with pend := [.w 0 27 5] })).slotAt 0 0).pend = [.w 0 27 5]
    ∧ ((stEntry true).coreAt 0).lowFree = some 127 ∧ ((stEntry false).coreAt 0).lowFree = some 127
    ∧ rqChoose (((stEntry true).coreAt 0).risen.rq.filter (fun e => !(stEntry true).thStopped 0 e.th)) 3 true = some (anEntry true)
    ∧ rqChoose (((stEntry false).coreAt 0).risen.rq.filter (fun e => !(stEntry false).thStopped 0 e.th)) 3 true = some (anEntry false)
    ∧ (anEntry true).fresh = true ∧ (anEntry false).fresh = false ∧ (anEntry true).regs = none := by
  and_intros <;> decide +kernel

/-- A fired record in the last bytes of local memory, and launch 7 with one task left to place behind a younger launch. -/
def stCreate : State :=
  { (mk false [(131048, 8, 0x2000), (131056, 8, 5), (131040, 8, 0xA000000000000000)]).modCore 0 (fun c => { c with ready := [⟨131040, 0, true⟩] }) with
    launches := [(8, theLaunch), (7, { theLaunch with todo := [(0, 0)] })] }

/-- A task of core 0's run queue whose budget is spent. -/
def spent : RqEntry := { th := { uid := 2 } }

/-- CreationEvents: a budget that is zero, in a slot and in the run queue; the record; the launch on a core without a fired
record. -/
theorem wit_creation : (let s := (mk false []).modCore 0 (fun c => { c with rq := [spent] })
      (s.coreAt 0).rq.find? (fun e => e.th.uid + 4 == 6 && !e.th.budgetDone && e.budget == 0) = some spent
        ∧ (s.hedge (hedgeOf 0)).latecfg.getLsbD 2 = false)
    ∧ ((mk false []).slotAt 0 0).st ≠ .free ∧ ((mk false []).thAt 0 0).budgetDone = false ∧ ((mk false []).coreAt 0).budget 0 = 0
    ∧ ((mk false []).slotAt 0 0).hold = none ∧ ((mk false []).hedge (hedgeOf 0)).latecfg.getLsbD 2 = false
    ∧ (stCreate.coreAt 0).ready = [⟨131040, 0, true⟩] ∧ (stCreate.coreAt 0).rqFree = true ∧ stCreate.stoppedAt 0 0 = false
    ∧ (let s := stCreate.modCore 0 (fun c => { c with ready := [] })
      s.place 0 0 0 = some 0 ∧ dieOf 0 = 0 ∧ s.stopLin 0 0 = false ∧ (s.coreAt 0).rqFree = true ∧ (s.coreAt 0).ready = []
        ∧ s.launches = [(8, theLaunch)] ++ [(7, { theLaunch with todo := [(0, 0)] })]) := by
  and_intros <;> decide +kernel

/-- A message with payload for core 0. -/
def theMsg (cls : Nat) (h : Word) (pay : List Word) : Packet :=
  { id := 9, cls := cls, src := { pkg := 1, lin := 4095, uid := 8 }, home := .core 0, space := .core 0, kind := .msg (h :: pay) }

/-- The message is on its way. -/
def stMsg (cls : Nat) (h : Word) (pay : List Word) (q0 q1 : List RxMsg) : State :=
  { (mk false []).modCore 0 (fun c => { c with rx0 := q0, rx1 := q1 }) with
    net := [theMsg cls h pay] }

/-- Messages that fill queue 0 and queue 1. -/
def stMsg0 : State := stMsg 0 (fld 17 0xFFFF) [1, 2, 3] [{ id := 3, hdr := 0, words := List.replicate 508 0, owner := .direct }] []
def stMsg1 : State := stMsg 1 (fld 17 1) [] [] [{ id := 3, hdr := 0, words := List.replicate 255 0, owner := .direct }]

/-- A message of one tag that waits. -/
def heldMsg : RxMsg := { id := 3, hdr := fld 37 63 ||| fld 17 5, words := [fld 37 63 ||| fld 17 5] }

/-- Page tables of context 0 in device memory that map the first 64 GiB to themselves with every right. -/
def tables : List (Nat × Nat × Nat) := [(0x1000, 8, 0x10001), (0x10000, 8, 0x12001), (0x12000, 8, 0x73)]

/-- CTXBASE names the descriptor of tables. -/
def tabled (s : State) : State := s.modPkg (fun p => { p with ctxbase := 0x1000000001000 })

/-- Core 0 with the held message of tag 63, whose table entry is valid and enabled. -/
def stHeld : State := (mk false []).modCore 0 (fun c => { c with rx0 := [heldMsg], tagattr := [(63, 0x8000000000000000)], tagpc := [(63, 0x2000)], tagen := 0x8000000000000000 })

/-- A core with 127 notices read from port 2 and 3 and two more on the way. -/
def stNotice : State := { (mk false []).modCore 0 (fun c => { c with rx2 := List.replicate 127 0, rx3 := List.replicate 127 0 }) with notices := [(0, 3, 5), (0, 2, 6)] }

/-- MessageEvents: a message that fills queue 0, one that fills queue 1, each whole; a held message; the last free place
of ports 2 and 3. -/
theorem wit_messages :
    stMsg0.net.find? (fun x => x.id == 9) = some (theMsg 0 (fld 17 0xFFFF) [1, 2, 3]) ∧ stMsg0.behind (theMsg 0 (fld 17 0xFFFF) [1, 2, 3]) = false
    ∧ stMsg0.noCore 0 = false ∧ bits (fld 17 0xFFFF) 42 37 = 0 ∧ bits (fld 17 0xFFFF) 32 17 ≠ 0 ∧ stMsg0.rxUsed 0 0 + 1 + 3 ≤ 512
    ∧ (∀ x ∈ (stMsg0.coreAt 0).rx 0, x.id ≠ stMsg0.nextId)
    ∧ stMsg1.net.find? (fun x => x.id == 9) = some (theMsg 1 (fld 17 1) []) ∧ stMsg1.behind (theMsg 1 (fld 17 1) []) = false
    ∧ stMsg1.rxUsed 0 1 + 1 + 0 ≤ 256 ∧ (∀ x ∈ (stMsg1.coreAt 0).rx 1, x.id ≠ stMsg1.nextId)
    ∧ (stHeld.coreAt 0).rx0 = [heldMsg] ∧ (stHeld.coreAt 0).rx1 = [] ∧ heldMsg.owner = .held ∧ stHeld.dispatch 0 heldMsg = .create
    ∧ stNotice.notices[1]? = some (0, 2, 6) ∧ (∀ x ∈ stNotice.notices.take 1, ¬(x.1 = 0 ∧ x.2.1 = 2)) ∧ stNotice.rxUsed 0 2 < 128
    ∧ stNotice.notices[0]? = some (0, 3, 5) ∧ stNotice.rxUsed 0 3 < 128 := by
  and_intros <;> decide +kernel

/-- An access to the last line of core 0's local memory, from system mode or from user mode without a window. -/
def accessTo (sys : Bool) (loc : Nat) (k : PKind) : Packet := { id := 9, src := { core := 1, uid := 8, sys := sys }, home := .core 0, space := .core 0, loc := loc, kind := k }

/-- The access is the only one in the network. -/
def stAccess (sys : Bool) (loc : Nat) (k : PKind) : State := { mk false [(131064, 8, 0x1122334455667788)] with net := [accessTo sys loc k] }

/-- The checks of an admitted access. -/
def admitted (sys : Bool) (loc : Nat) (k : PKind) : Bool :=
  let s := stAccess sys loc k
  let p := accessTo sys loc k
  s.net.find? (fun x => x.id == 9) == some p && !s.behind p && !s.dueBefore p && s.admits p 0 && !s.waitsAt p
    && s.ords.isEmpty && s.chains.isEmpty && s.net.all (fun q => !q.waiting)

/-- HomeAccesses: a load of the last 8 bytes, a store of a whole line over w0 of the bound workspace 0, an atomic of 16 bytes
in the last 16, and an access from user mode that no window grants. -/
theorem wit_homes : admitted true 131064 (.load 8) = true ∧ (stAccess true 131064 (.load 8)).isBad 0 0 131064 8 = false
    ∧ admitted true 0 (.store (BitVec.allOnes 512) (BitVec.allOnes 64)) = true
    ∧ (stAccess true 0 (.store (BitVec.allOnes 512) (BitVec.allOnes 64))).homeMergeBad (.core 0) 0 (BitVec.allOnes 64) = false
    ∧ admitted true 131056 (.amo 9 2 1 0 false) = true ∧ (stAccess true 131056 (.amo 9 2 1 0 false)).isBad 0 0 131056 16 = false ∧ 131056 % 64 + 16 ≤ 64
    ∧ (∀ i, i < 16 → ignoresStore ((stAccess true 131056 (.amo 9 2 1 0 false)).bound 0) (131056 + i) = false)
    ∧ ([.load 8, .store 0 1].all (fun k : PKind => let s := stAccess false 0 k
      s.net.find? (fun x => x.id == 9) == some (accessTo false 0 k) && !s.behind (accessTo false 0 k) && !s.dueBefore (accessTo false 0 k))) = true
    ∧ (stAccess false 0 (.load 8)).admits (accessTo false 0 (.load 8)) 0 = false ∧ (stAccess false 0 (.store 0 1)).admits (accessTo false 0 (.store 0 1)) 0 = false := by
  and_intros <;> decide +kernel

/-- An access to device memory at loc, alone in the network. -/
def devAccess (loc pol : Nat) (k : PKind) : Packet := { id := 9, src := { core := 1, uid := 8 }, home := .slice 0, space := .dev, loc := loc, pol := pol, kind := k }
def stDev (loc pol : Nat) (k : PKind) : State := { mk false [] with net := [devAccess loc pol k], hbm := memOf [(0x40038, 8, 7)] }

/-- DeviceAccesses: a load of the last 8 bytes of a sector, a store of two bytes by UC, an atomic of 16 bytes. -/
theorem wit_device : ([(0x40038, 0, .load 8), (0x40000, 2, .store 0 (3 <<< 62)), (0x40030, 1, .amo 9 2 1 0 false)].all (fun x : Nat × Nat × PKind =>
      let s := stDev x.1 x.2.1 x.2.2
      let p := devAccess x.1 x.2.1 x.2.2
      s.net.find? (fun y => y.id == 9) == some p && !s.behind p && !s.dueBefore p && !s.waitsAt p && s.makeRoom (x.1 / 256) x.2.1 == s
        && s.ords.isEmpty && s.chains.isEmpty && s.net.all (fun q => !q.waiting))) = true
    ∧ 0x40038 % 64 + 8 ≤ 64 ∧ (stDev 0x40038 0 (.load 8)).homeBad .dev 0x40038 8 = false
    ∧ (stDev 0x40000 2 (.store 0 (3 <<< 62))).homeMergeBad .dev (0x40000 / 64 * 64) (3 <<< 62) = false
    ∧ 0x40030 % 64 + 4 * 2 ^ 2 ≤ 64 ∧ (stDev 0x40030 1 (.amo 9 2 1 0 false)).homeBad .dev 0x40030 16 = false
    ∧ (stDev 0x40030 1 (.amo 9 2 1 0 false)).retired (64 * (0x40030 / 64)) = false := by
  and_intros <;> decide +kernel

/-- The item of the tests, and a header of a ring of 2^cap entries at base with its head and tail. -/
def anItem : List Word := [0xFFFFF00000000000, 1, 2, 3, 4, 5, 6, 7]
def ringAt (a base cap head tail : Nat) : List (Nat × Nat × Nat) := [(a, 8, base), (a + 8, 8, cap), (a + 16, 8, head), (a + 24, 8, tail)]

/-- enq arrives at a header in core 0's last line, or at one in device memory whose ring follows it. -/
def stEnqCore (base cap head tail : Nat) : State :=
  tabled { mk false (ringAt 131008 base cap head tail) with net := [accessTo true 131008 (.enq anItem)], hbm := memOf tables }
def stEnqDev (head tail : Nat) : State :=
  tabled { mk false [] with net := [devAccess 0x40000 0 (.enq anItem)], hbm := memOf (tables ++ ringAt 0x40000 0x40040 20 head tail) }

/-- EnqueueAtHome: no capacity, a full ring, a ring that no table maps, an item behind the last index, and a ring behind its own
header. -/
theorem wit_enqueue : ([stEnqCore 0x40000 0 0 0, stEnqCore 0x40000 1 (2 ^ 64 - 1) 1, stEnqCore 0x2000000000 1 0 0, stEnqCore 0x40000 1 (2 ^ 64 - 1) (2 ^ 64 - 1)].all (fun s =>
      let p := accessTo true 131008 (.enq anItem)
      s.net.find? (fun y => y.id == 9) == some p && !s.behind p && !s.dueBefore p && !s.waitsAt p && s.admits p 0 && s.ords.isEmpty && s.chains.isEmpty
        && !s.homeBad (.core 0) 131008 64)) = true
    ∧ anItem.length = 8 ∧ 131008 % 64 = 0
    ∧ queueBad ((stEnqCore 0x40000 0 0 0).homeWords (.core 0) 131008 8) = true
    ∧ (let s := stEnqCore 0x40000 1 (2 ^ 64 - 1) 1
      let h := s.homeWords (.core 0) 131008 8
      queueBad h = false ∧ h.getD 3 0 - h.getD 2 0 = BitVec.ofNat 64 (2 ^ (h.getD 1 0).toNat))
    ∧ (let s := stEnqCore 0x2000000000 1 0 0
      let h := s.homeWords (.core 0) 131008 8
      queueBad h = false ∧ h.getD 3 0 - h.getD 2 0 ≠ BitVec.ofNat 64 (2 ^ (h.getD 1 0).toNat)
      ∧ s.ringPlace (accessTo true 0 .pf).src (ringAddr h (h.getD 3 0)) 2 = none)
    ∧ (let s := stEnqCore 0x40000 1 (2 ^ 64 - 1) (2 ^ 64 - 1)
      let h := s.homeWords (.core 0) 131008 8
      queueBad h = false ∧ h.getD 3 0 - h.getD 2 0 ≠ BitVec.ofNat 64 (2 ^ (h.getD 1 0).toNat)
      ∧ s.ringPlace (accessTo true 0 .pf).src (ringAddr h (h.getD 3 0)) 2 = some (.dev 0x40040 0)
      ∧ s.ringLost (.dev 0x40040 0) (ringAddr h (h.getD 3 0)) = false ∧ s.makeRoom (0x40040 / 256) 0 = s
      ∧ ∀ i, i < 8 → ignoresStore (s.bound 0) (131008 + 24 + i) = false ∧ readsZero (s.bound 0) (131008 + 24 + i) = false)
    ∧ (let s := stEnqDev 0 1
      let p := devAccess 0x40000 0 (.enq anItem)
      let h := s.homeWords .dev 0x40000 8
      let u := s.homeTouch .dev 0x40000 64 0
      s.net.find? (fun y => y.id == 9) = some p ∧ s.behind p = false ∧ s.dueBefore p = false ∧ s.waitsAt p = false ∧ s.makeRoom (0x40000 / 256) 0 = s
      ∧ s.retired 0x40000 = false ∧ s.homeBad .dev 0x40000 64 = false ∧ queueBad h = false
      ∧ u.ringPlace p.src (ringAddr h (h.getD 3 0)) 2 = some (.dev 0x40080 0) ∧ u.ringLost (.dev 0x40080 0) 0 = false
      ∧ u.makeRoom (0x40080 / 256) 0 = u ∧ 0x40080 / 64 ≠ 0x40000 / 64) := by
  and_intros <;> decide +kernel

/-- A queue in the last line of core 0 with a ring of two entries in device memory, its head at the last index: the oldest
item stands in the second entry. -/
def stDeq : State :=
  tabled { mk false [(131008, 8, 0x40000), (131016, 8, 1), (131024, 8, 0xFFFFFFFFFFFFFFFF), (131032, 8, 0)] with
    net := [{ accessTo true 131008 .deq with waiting := true }], hbm := memOf (tables ++ [(0x40040, 8, 0xFFFFF00000000007), (0x40078, 8, 9)]) }

/-- A record with count 2 in the last line of core 0, decremented by k. -/
def stDec (k : Nat) : State := { mk false [(131008, 8, 2), (131016, 8, 0x2000), (131024, 8, 5)] with net := [accessTo false 131008 (.tdec k)] }

/-- WaitEvents: a waitw that is satisfied, a waiting deq with an item, a decrement that leaves 1 and one that reaches zero, a
score message. -/
theorem wit_waits : (stAccess true 64 (.woken 5)).net.find? (fun x => x.id == 9) = some (accessTo true 64 (.woken 5))
    ∧ (let p : Packet := { accessTo true 131008 .deq with waiting := true }
      let h := stDeq.homeWords (.core 0) 131008 8
      stDeq.net.find? (fun x => x.id == 9) = some p ∧ stDeq.homeClaimed (.core 0) 131008 64 true = false ∧ stDeq.isBad 0 0 131008 64 = false ∧ stDeq.dueBefore p = false ∧ 131008 % 64 = 0
      ∧ stDeq.ords = [] ∧ stDeq.chains = [] ∧ queueBad h = false ∧ stDeq.deqAhead p = false ∧ h.getD 2 0 ≠ h.getD 3 0
      ∧ stDeq.ringPlace p.src (ringAddr h (h.getD 2 0)) 1 = some (.dev 0x40040 0) ∧ stDeq.homeBad .dev 0x40040 64 = false
      ∧ bits ((stDeq.homeWords .dev 0x40040 8).getD 0 0) 63 44 = 0xFFFFF
      ∧ (∀ i, i < 8 → ignoresStore (stDeq.bound 0) (131008 + 16 + i) = false ∧ readsZero (stDeq.bound 0) (131008 + 16 + i) = false))
    ∧ (∀ k ∈ [1, 2], (stDec k).net.find? (fun x => x.id == 9) = some (accessTo false 131008 (.tdec k)) ∧ (stDec k).behind (accessTo false 131008 (.tdec k)) = false
      ∧ (stDec k).dueBefore (accessTo false 131008 (.tdec k)) = false ∧ (stDec k).ords = [] ∧ (stDec k).chains = []
      ∧ (stDec k).noCore 0 = false ∧ (stDec k).lockedL 0 131008 64 = false ∧ (stDec k).isBad 0 0 131008 8 = false ∧ 0 < k ∧ k ≤ bits (((stDec k).coreAt 0).word 131008) 31 0)
    ∧ ((stDec 2).coreAt 0).rqFree = true
    ∧ (stAccess true 0 (.score 63 [5] 1)).net.find? (fun x => x.id == 9) = some (accessTo true 0 (.score 63 [5] 1))
    ∧ (stAccess true 0 (.score 63 [5] 1)).behind (accessTo true 0 (.score 63 [5] 1)) = false ∧ (accessTo true 0 (.score 63 [5] 1)).src.far = false
    ∧ (stAccess true 0 (.score 63 [5] 1)).noCore 0 = false := by
  and_intros <;> decide +kernel

/-- The slot of the tests waits for answer 9 with a load into register d. -/
def stReply (d w : Nat) (sg : Bool) (k : RKind) : State :=
  { (mk false []).modSlot 0 0 (fun x => { x with hold := some (.reply 9, { dst := .reg d w sg, sylls := 1 }) }) with
    replies := [{ id := 9, src := { uid := 1 }, kind := k }] }

/-- The acknowledgement of a posted access on counter 7 of the thread. -/
def stAck : State := { mk false [(846, 2, 1)] with replies := [{ id := 9, src := { uid := 1 }, posted := true, sc := some 7 }] }

/-- ReplyEvents: a byte into w27 with its sign, a whole word into w1, a refusal of another package, an acknowledgement. -/
theorem wit_replies : ([stReply 27 8 true (.value 0x80 {}), stReply 1 64 false (.value 5 {}), stReply 1 64 false (.remote 5 2)].all (fun s =>
      ((s.replies.find? (fun x => x.id == 9)).map (fun r => (r.src.far, r.src.job, r.posted, r.sc, r.src.uid, r.id)) == some (false, 0, false, none, 1, 9))
      && s.whereIs 1 == some (0, 0) && s.serviceReply 1 9 == none && swOrd (s.thAt 0 0).sw == false && (s.slotAt 0 0).pend == [] && s.bad == []
      && (s.thAt 0 0).buf == [])) = true
    ∧ ((stReply 27 8 true (.value 0x80 {})).slotAt 0 0).hold = some (.reply 9, { dst := .reg 27 8 true, sylls := 1 })
    ∧ stAck.replies.find? (fun x => x.id == 9) = some { id := 9, src := { uid := 1 }, posted := true, sc := some 7 }
    ∧ stAck.thOf 1 = some (thOf false) := by
  and_intros <;> decide +kernel

/-- The packet of a load of k bytes from the last line of core 1 that may migrate. -/
def migPacket (k : Nat) : Packet := { id := 9, src := { uid := 1 }, home := .core 1, space := .core 1, loc := 131064, kind := .mig k }

/-- The group that waits for it: the load into w15. -/
def migFx (k : Nat) : Fx := { dst := .reg 15 (8 * k) false, sylls := 1 }

/-- The thread of core 0 waits with a load of k bytes from core 1, whose last slot is free or taken and whose last workspace
is free; its window over its last line grants every core reads and, or not, migration. -/
def stMigrate (free grant : Bool) (k : Nat) : State :=
  { ((mk false []).modSlot 0 0 (fun x => { x with hold := some (.reply 9, migFx k) })).modCore 1 (fun c => { c with
      cycles := 256, wsfree1 := 0x8000000000000000, lmem := memOf [(131064, 8, 0x1122334455667788)]
      slots := [(0, { st := .running, th := { uid := 5 } }), (1, { st := .running, th := { uid := 6 } }), (2, { st := .running, th := { uid := 7 } }),
        (3, { st := if free then .free else .running, th := { uid := 8 } })]
      wina := [(7, fld 63 1 ||| fld 62 1 ||| fld 60 (boolWord grant).toNat ||| fld 59 1 ||| fld 33 64 ||| fld 26 64)]
      winb := [(7, fld 53 2047 ||| fld 41 1)] }) with net := [migPacket k] }

/-- The thread that has left its slot for that load, at an age; its remote read has been made or not. -/
def theMigrant (back : Bool) (age k : Nat) : Migrant :=
  { pkt := 9, th := thOf false, regs := List.replicate 15 3, fx := migFx k, core := 0, slot := 0, age := age, back := if back then some (some 5, none) else none }

/-- Its state. -/
def stMigrant (free back : Bool) (age k : Nat) : State := { stMigrate free true k with migrants := [theMigrant back age k] }

/-- A guest of core 0 in slot 3 and workspace 126 of core 1 is about to go home. -/
def stGuest : State := (mk false []).modCore 1 (fun c => { c with
  lmem := memOf [(126 * 1024 + 120, 8, 15)]
  slots := [(3, { st := .guest, th := { uid := 2, homeWp := 127, wp := 126, pc := 0x2004 }, hold := some (.goHome, {}) })] })

/-- MigrationEvents: an arrival with 8 bytes and with 1 whose window grants migration, with and without a free slot, and
one that it grants the load alone; a thread that waits for a slot; one that has waited 256 cycles; one whose value goes home;
a guest that returns. -/
theorem wit_migration : (∀ k ∈ [1, 8], ∀ free ∈ [true, false], ∀ grant ∈ [true, false], let s := stMigrate free grant k; let p := migPacket k
      s.net.find? (fun p => p.id == 9) = some p ∧ s.noCore 1 = false ∧ s.isBad 0 1 p.loc k = false ∧ s.claimedL 1 p.loc k = false
      ∧ s.migrants.find? (fun m => m.pkt == 9) = none ∧ s.behind p = false ∧ s.dueBefore p = false ∧ s.windowOk 1 p.src 6 p.loc k = grant)
    ∧ (∀ k ∈ [1, 8], ∀ free ∈ [true, false], ∀ grant ∈ [true, false], let s := stMigrate free grant k; let p := migPacket k
      s.thOf 1 = some (thOf false) ∧ s.thStopped 1 (thOf false) = false ∧ s.thStopped p.src.core (thOf false) = false ∧ s.whereIs 1 = some (0, 0)
      ∧ (s.slotAt 0 0).hold = some (.reply 9, migFx k) ∧ (s.slotAt 0 0).pend = [] ∧ (s.thAt 0 0).home = 0
      ∧ (s.coreAt 1).freeSlot? = (if free then some 3 else none) ∧ (s.coreAt 1).lowFree = some 127 ∧ swOrd (s.thAt 0 0).sw = false
      ∧ s.admits { p with kind := .load k } 1 = true)
    ∧ (∀ free ∈ [true, false], ∀ age ∈ [1, 2], ∀ back ∈ [true, false], let s := stMigrant free back age 8
      s.net.find? (fun p => p.id == 9) = some (migPacket 8) ∧ s.migrants.find? (fun m => m.pkt == 9) = some (theMigrant back age 8)
      ∧ (s.coreAt 1).cycles + 1 < 2 + 256 ∧ 1 + 256 ≤ (s.coreAt 1).cycles + 1 ∧ s.thStopped 1 (thOf false) = false
      ∧ s.windowOk 1 (migPacket 8).src 1 131064 8 = true ∧ (s.coreAt 0).rqFree = true
      ∧ s.migrants.map (fun m => m.regs.length) = [15])
    ∧ (stGuest.slotAt 1 3).hold = some (.goHome, {}) ∧ stGuest.unacked 2 1 5 = false ∧ (stGuest.coreAt 0).rqFree = true ∧ (stGuest.slotAt 1 3).pend = []
    ∧ 1 ≠ (stGuest.thAt 1 3).home := by
  and_intros <;> decide +kernel

/-- An open barrier of launch 7 whose one other member has ended; the thread waits at it. -/
def theBarrier : Barrier := { id := 5, launch := 7, rx := 0, ry := 0, lw := 0, lh := 0, arrived := [(0, 0)] }

/-- The thread of the tests waits for a reason. -/
def holding (h : Hold) (s : State) : State := s.modSlot 0 0 (fun x => { x with hold := some (h, { dst := .reg 9 64 false, sylls := 1 }) })

/-- The barrier is open. -/
def stBarrier : State :=
  { holding (.bar theBarrier.key) (mk false []) with launches := [(7, { theLaunch with thr := 2, ended := [(0, 1)] })], barriers := [theBarrier] }

/-- Launch 7 has no task left and the thread joins it. -/
def stJoined : State := { holding (.join 7) (mk false []) with launches := [(7, { theLaunch with counter := 0, kill := 1 })] }

/-- The thread is the oldest iteration of chain 5. -/
def stBaton : State := { (mk false []).modTh 0 0 (fun t => { t with sw := fld 61 1, chain := some 5 }) with chains := [(5, { iters := [1, 2], past := [3], baton := false })] }

/-- The thread has the baton of chain 5 and waits in a baton. -/
def stHolder : State := { (holding .baton (mk false [])).modTh 0 0 (fun t => { t with chain := some 5 }) with chains := [(5, { iters := [1, 2], past := [3], baton := true })] }

/-- An ordered launch with one thread at a round boundary, in a state. -/
def stRound (x : OrdSt) : State :=
  { (mk false []).modSlot 0 0 (fun y => { y with hold := some (.commit, {}), th := { y.th with sw := fld 62 1, launch := some 7 } }) with
    launches := [(7, { theLaunch with ord := true })], ords := [(7, { tasks := [{ ordinal := 0, uid := 1, core := 0, st := x, live := true }] })] }

/-- The quantum of the thread has ended with a line of device memory and an atomic in its buffer; it has read line 0x40000, which
the round has written or not. -/
def endedTask (w : Bool) : OrdTask :=
  { ordinal := 0, uid := 1, core := 0, st := .ended, snap := if w then some (thOf false, [(8, 5)]) else none }
def stCommit (w : Bool) : State :=
  { (mk false []).modSlot 0 0 (fun y => { y with hold := some (.commit, {}), th := { y.th with
      sw := fld 62 1, launch := some 7, reads := [(.dev, 0x40000)]
      buf := [.line .dev 0x40040 5 1 0 1 [], .amo { id := 0, src := { uid := 1 }, home := .slice 0, space := .dev, loc := 0x40084, kind := .amo 0 0 1 0 true }] } }) with
    launches := [(7, { theLaunch with ord := true })]
    ords := [(7, { tasks := [endedTask w, { ordinal := 1, uid := 2, core := 3, st := .reended }], written := if w then [(.dev, 0x40000)] else [] })] }

/-- QuantumCommits: a quantum that drains, and one that is squashed. -/
theorem wit_commit : ∀ w, CommitsNext (stCommit w) 7 (endedTask w) 0 0 := by
  intro w
  constructor <;> (cases w <;> decide +kernel)

theorem wit_commit_rest : (∀ w, (endedTask w).undo = [])
    ∧ (∀ r ∈ ((stCommit false).thAt 0 0).reads, r ∉ ((stCommit false).ords.get {} 7).written)
    ∧ (∃ r ∈ ((stCommit true).thAt 0 0).reads, r ∈ ((stCommit true).ords.get {} 7).written) ∧ (endedTask true).st = .ended
    ∧ (endedTask true).snap = some (thOf false, [(8, 5)]) ∧ Memory.wf [(8, 5)] = true ∧ ((stCommit true).coreAt 0).lmem.wf = true
    ∧ ((stCommit true).ords.get {} 7).after (endedTask true) = [] ∧ (stCommit true).ordOf 1 = some (7, endedTask true) := by
  and_intros <;> decide +kernel

/-- LaunchEvents: the barrier, the join, the baton, a round that begins, one that commits, one that is over. -/
theorem wit_launch_events : stBarrier.barriers.find? (fun b => b.id == 5) = some theBarrier
    ∧ stBarrier.launches.find? (fun x => x.1 == 7) = some (7, { theLaunch with thr := 2, ended := [(0, 1)] })
    ∧ (∀ m ∈ ({ theLaunch with thr := 2, ended := [(0, 1)] } : Launch).members theBarrier, m ∈ theBarrier.arrived ∨ m ∈ [(0, 1)]) ∧ theBarrier.done = none
    ∧ theLaunch.ord = false ∧ stBarrier.ords.has 7 = false ∧ (stBaton.coreAt (stBaton.thAt 0 0).home).rq = []
    ∧ ({ ordinal := 0, uid := 1, core := 0, st := .committing, live := true } : OrdTask).services = [] ∧ ({} : Fx).sylls = 0
    ∧ stJoined.launches.find? (fun x => x.1 == 7) = some (7, { theLaunch with counter := 0, kill := 1 })
    ∧ (stJoined.cores.any (fun c => c.2.slots.any (fun x => x.2.hold == some (.join 7, { dst := .reg 9 64 false, sylls := 1 })))) = true
    ∧ (stBaton.chains.get {} 5).baton = false ∧ (stBaton.chains.get {} 5).iters = [1, 2] ∧ stBaton.thOf 1 = some (stBaton.thAt 0 0) ∧ (stBaton.thAt 0 0).buf = []
    ∧ stBaton.whereIs 1 = some (0, 0) ∧ (stBaton.slotAt 0 0).st ≠ .free ∧ (stBaton.thAt 0 0).uid = 1 ∧ (stBaton.slotAt 0 0).hold = none
    ∧ (stBaton.chains.get {} 5).past = [3] ∧ stBaton.unacked 3 0 5 = false
    ∧ (stHolder.chains.get {} 5).baton = true ∧ (stHolder.chains.get {} 5).iters = [1, 2] ∧ stHolder.whereIs 1 = some (0, 0)
    ∧ (stHolder.slotAt 0 0).hold = some (.baton, { dst := .reg 9 64 false, sylls := 1 }) ∧ stHolder.unacked 1 0 5 = false
    ∧ (stRound .idle).roundReady 7 = true ∧ (stRound .idle).barriers = [] ∧ (stRound .idle).whereIs 1 = some (0, 0)
    ∧ (∀ c ∈ (stRound .idle).cores, ∀ e ∈ c.2.slots, e.2.st ≠ .free → e.2.th.uid = 1 → c.1 = 0 ∧ e.1 = 0)
    ∧ (stRound .committing).ords.has 7 = true ∧ (∀ y ∈ ((stRound .committing).ords.get {} 7).tasks, y.st ≠ .running ∧ y.st ≠ .rerun)
    ∧ lowestOrd ((stRound .committing).ords.get {} 7).tasks (fun t => t.st == .committing) = some { ordinal := 0, uid := 1, core := 0, st := .committing, live := true }
    ∧ (stRound .committing).whereIs 1 = some (0, 0) ∧ (stRound .committing).pendingOf ((stRound .committing).ords.get {} 7) 1 = false
    ∧ ((stRound .committing).slotAt 0 0).hold = some (.commit, {}) ∧ ((stRound .committed).ords.get {} 7).tasks ≠ []
    ∧ (∀ y ∈ ((stRound .committed).ords.get {} 7).tasks, y.st = .committed) := by
  and_intros <;> decide +kernel

end Sys2Proof.Tests
end

