-- ==== Sys2Proof/Tests/WitnessDevice.lean ====
section
/-! SUPPORT. Witnesses for the statements about events of jobs, memory, registers, the optical fabric, the companion
processor, starts, services, pre-emption and errors: for each statement a concrete state and operands that meet all its
hypotheses together, at boundary values. -/

namespace Sys2Proof.Tests

open Sys2Proof Sys2Proof.Machine

set_option Elab.async false

/-- A job that has performed its end word, in each way. -/
def jEnded (p : Nat) : Job := { jb 0 [] with pending := some p, finished := true }
/-- A queued job. -/
def jQueued (kind : Nat) : Job := { jb kind [5] with st := .queued, budget := 1, prio := 3, ip := 7 }
/-- A job that asks for its last claim. -/
def jClaim : Job := { jb 1 [] with want := [{ pkg := 0, loc := true, lin := 4095, sector := 2047, core := 4095 }], ph := .claiming, since := 4 }
/-- A job that owes a wake-up of the last tag at the last core. -/
def jWake : Job := { jb 0 [] with wake := [(63, 2 ^ 40 + 4095)] }

/-- JobEvents: a queued job; one of kind 3 beside a running one; the three ends; a decrement; a claim; a wake-up. -/
theorem wit_jobs : ((stJ (jQueued 0)).jobs.filter (fun x => x.pq == 0 && x.kind == 0 && x.st == .running)).length < 1
    ∧ (stJ (jQueued 0)).nextJob 0 0 = some (jQueued 0) ∧ (jQueued 0).budget ≠ 0
    ∧ (({ stJ (jQueued 3) with jobs := [jQueued 3, { jb 3 [] with order := 6 }] } : State).jobs.filter (fun x => x.pq == 0 && x.kind == 3 && x.st == .running)).length < 2
    ∧ ({ stJ (jQueued 3) with jobs := [jQueued 3, { jb 3 [] with order := 6 }] } : State).nextJob 0 3 = some (jQueued 3)
    ∧ (∀ p ∈ [4, 6, 7], (stJ (jEnded p)).jobNo 5 = some (jEnded p) ∧ (jEnded p).pending = some p ∧ (jEnded p).holds = true ∧ (stJ (jEnded p)).jobTraffic (jEnded p) = false
      ∧ (jEnded p).st ≠ .held ∧ (jEnded p).wake = [] ∧ (jEnded p).held = [] ∧ (jEnded p).cl.due = false ∧ (jEnded p).ev = false ∧ (jEnded p).succ = []
      ∧ ((stJ (jEnded p)).jobs.filter (fun x => x.pq == (jEnded p).pq && !x.holds)).length < 256)
    ∧ ({ stJ (jb 0 []) with decs := [(65537, 0)] } : State).decs[0]? = some (65537, 0) ∧ (stJ (jb 0 [])).saved = []
    ∧ (stJ jClaim).jobNo 5 = some jClaim ∧ jClaim.live = true ∧ (stJ jClaim).stopLin 0 0 = false ∧ (∀ x ∈ (stJ jClaim).jobs, x.order = jClaim.order)
    ∧ jClaim.ph = .claiming ∧ (stJ jClaim).pkgNo = 0 ∧ (stJ jClaim).farClaims = []
    ∧ (stJ jClaim).waitsFor { pkg := 0, loc := true, lin := 4095, sector := 2047, core := 4095 } = false
    ∧ (stJ jWake).jobNo 5 = some jWake ∧ (stJ jWake).jobTraffic jWake = false := by
  and_intros <;> decide +kernel

/-- A job at a fill whose second write that is due ends its claim. -/
def jRecall : Job := withOut { jCopy [0x4000, ones, 8] .active with prog := [0x0C02], claims := [{ pkg := 0, loc := false, lin := 0, sector := 0x100, core := 0 }] }
    [.bytes (.va 0x5000) (toBytes 8 7) (some 1) none none, aWrite]
/-- A load that waits at that sector. -/
def recallPacket : Packet := { id := 9, src := { uid := 8 }, home := .slice 0, space := .dev, loc := 0x4000, kind := .load 8, waiting := true }
/-- Their state; the companion processor waits at the sector too. -/
def stRecall : State := { stCopy jRecall with net := [recallPacket], hostWait := [0x100] }
/-- A job at ex.evict of the last region, and its region without pins. -/
def jEvict : Job := { jb 4 [4095] with prog := [0x1C02], ph := .draining }
/-- Its state. -/
def stEvict : State := { stJ jEvict with regions := [(4095, { base := 0x10000, size := 1, pol := 2, state := 2 })] }

/-- ClaimEvents: a recall, a release of locks, a region that streams. -/
theorem wit_claims : stRecall.jobNo 5 = some jRecall ∧ stRecall.net.find? (fun p => p.id == 9) = some recallPacket ∧ jRecall.live = true
    ∧ jRecall.ph = .active ∧ (∀ pkt ∈ [0, 9], stRecall.recallsJob jRecall pkt = true) ∧ jRecall.prog[jRecall.ip]? = some 0x0C02
    ∧ engineShape .cpFill = some (3, 3, 0)
    ∧ (∀ pkt ∈ [0, 9], let j1 := stRecall.recalled jRecall (stRecall.recalls pkt)
      workingB { stRecall.putJob j1 with job := jRecall.order } j1 3 [0x4000, ones, 8] [] = true
      ∧ writesB { stRecall.putJob j1 with job := jRecall.order } j1 = true ∧ (stRecall.pieceKeys jRecall aWrite).any (stRecall.recalls pkt) = true
      ∧ j1.out = some (2, [.bytes (.va 0x4038) (toBytes 8 7) none none (some { pkg := 0, loc := false, lin := 0, sector := 0x100, core := 0 }), .bytes (.va 0x5000) (toBytes 8 7) (some 1) none none]))
    ∧ stEvict.jobNo 5 = some jEvict ∧ jEvict.live = true ∧ stEvict.stopLin 0 0 = false ∧ jEvict.prog[jEvict.ip]? = some 0x1C02 ∧ jEvict.stack = [4095] ∧ jEvict.ph = .draining
    ∧ (stEvict.regions.get {} 4095).pins = 0 ∧ (stEvict.regions.get {} 4095).state = 2 := by
  and_intros <;> decide +kernel

/-- The partner's message for the current step of the collective job of the tests. -/
def clMessage (kind : Nat) (data : List (BitVec 32) := [5, 6]) : ClMsg := { ctx := 0, gid := 7, list := 0, step := 0, src := 128, dst := 0, kind, params := [4, 0, 2, 0, 0], data }
/-- The job that has sent and waits, past its budget. -/
def jWaits (waited : Nat) : Job :=
  { jGo .active true 1 true with cl := { (jGo .active true 1 true).cl with waited := waited }, budget0 := 0xFFFFE, usRun := 0xFFFFF }
/-- Its state with a message at hand. -/
def stWaits (waited kind : Nat) (data : List (BitVec 32) := [5, 6]) : State := { stJ (jWaits waited) with clMsgs := [clMessage kind data] }

/-- CollectiveEvents: a signal, all the data and a part of it, a partner that does not come. -/
theorem wit_collective_events : (stWaits 0 0).jobNo 5 = some (jWaits 0) ∧ (jWaits 0).live = true ∧ (jWaits 0).cl.went = true ∧ (stWaits 0 0).stopLin 0 0 = false
    ∧ (jWaits 0).cl.op = some ⟨true, 0x2000, 0x4000, 4, 0⟩ ∧ (jWaits 0).cl.opDone = false ∧ (jWaits 0).cl.ready = false
    ∧ (jWaits 0).ph = .active ∧ (jWaits 0).unitIdx ≠ 0 ∧ (jWaits 1).unitIdx ≠ 0 ∧ (jWaits 1).out = none ∧ (jWaits 1).cl.got = [] ∧ (clMessage 1).off = 0
    ∧ (stWaits 0 0).clFind (jWaits 0) 2 (fun m => decide ((jWaits 0).cl.list ≤ m.list + 1)) = none
    ∧ (stWaits 0 0).clFind (jWaits 0) 0 ((jWaits 0).clStepMsg ⟨true, 0x2000, 0x4000, 4, 0⟩) = some (clMessage 0)
    ∧ (stWaits 1 1).jobNo 5 = some (jWaits 1) ∧ (jWaits 1).cl.waited ≠ 0
    ∧ (stWaits 1 1).clFind (jWaits 1) 1 ((jWaits 1).clStepMsg ⟨true, 0x2000, 0x4000, 4, 0⟩) = some (clMessage 1)
    ∧ (clMessage 1).params = [4, 0, 2 ^ (jWaits 1).cl.now.g, (jWaits 1).cl.list, (jWaits 1).cl.step]
    ∧ (stWaits 1 1 [5]).clFind (jWaits 1) 1 ((jWaits 1).clStepMsg ⟨true, 0x2000, 0x4000, 4, 0⟩) = some (clMessage 1 [5])
    ∧ (let keep := ((jWaits 1).cl.halves ⟨true, 0x2000, 0x4000, 4, 0⟩).1
      (clMessage 1).data.length = keep.2 - keep.1 ∧ ((jWaits 1).cl.got.map (fun g => g.2.length)).sum + (clMessage 1 [5]).data.length < keep.2 - keep.1)
    ∧ ((jWaits 1).cl.halves ⟨true, 0x2000, 0x4000, 4, 0⟩).1.2 ≤ (jWaits 1).cl.part.length
    ∧ (jWaits 0).clWaits = true ∧ (jWaits 0).budget0 ≠ 0xFFFFF ∧ (jWaits 0).budget0 < (jWaits 0).usRun := by
  and_intros <;> decide +kernel

/-- Context 0 has the tables of the tests. -/
def stTables : State := tabled { mk false [] with hbm := memOf tables }

/-- MemoryEvents: the last address of the leaf and the first after it, the last sector, a known peer. -/
theorem wit_memory : canonical (0xFFFFFFFFF : Word) = true ∧ stTables.inAperture 0xFFFFFFFFF = false
    ∧ canonical (0x7FFFFFFFFFFF : Word) = true ∧ stTables.inAperture 0x7FFFFFFFFFFF = false
    ∧ (match stTables.walk 0 0x7FFFFFFFFFFF with
      | .ok _ => false
      | _ => true) = true
    ∧ stTables.makeRoom ((0xC000000000 / 64 - 1) / 4) (stTables.sector (0xC000000000 / 64 - 1)).pol = stTables
    ∧ stTables.walk 0 0xFFFFFFFFF = .ok leaf ∧ 64 * (0xC000000000 / 64 - 1) < devTop ∧ stTables.retired (64 * (0xC000000000 / 64 - 1)) = false
    ∧ (stTables.pkg.peers.get 0 1).getLsbD 63 = true ∧ bits (stTables.pkg.peers.get 0 1) 47 32 = 0 ∧ 1 ≠ stTables.pkgNo := by
  and_intros <;> decide +kernel

/-- A shootdown asked for, answered by the last hedge alone, and answered by every hedge. -/
def stShoot (kind : Nat) (on pending : Bool) : State :=
  { mk false [] with
    hedges := [(255, { tlb := [leaf], sdPending := pending })]
    pkg := { (mk false []).pkg with sdctl := fld 63 1 ||| fld 61 kind, sdaddr := 0x40000, sdOn := on } }

/-- Shootdowns. -/
theorem wit_shootdowns : (∀ k ∈ [0, 1, 2, 3], (stShoot k false false).pkg.sdctl.getLsbD 63 = true ∧ (stShoot k false false).pkg.sdctl.getLsbD 58 = false
      ∧ (stShoot k false false).pkg.sdOn = false ∧ bits (stShoot k false false).pkg.sdctl 62 61 = k)
    ∧ ((stShoot 0 true true).hedge 255).sdPending = true ∧ (stShoot 0 true false).pkg.sdOn = true ∧ (stShoot 0 true false).pkg.sdWait = []
    ∧ (∀ h ∈ (stShoot 0 true false).hedges, h.2.sdPending = false) := by
  and_intros <;> decide +kernel

/-- ConfigurationWrites: every value of the last core; the largest partition; the largest domain; a domain in force; the last
port. -/
theorem wit_configuration : (mk false []).csrBusy 0x20B = false ∧ bits (0x840 : Word) 11 8 ≤ 8 ∧ bits (0x840 : Word) 11 8 + bits (0x840 : Word) 7 4 ≤ 12
    ∧ State.reset.pkg.calcfg.getLsbD 63 = false ∧ (0x800000000000077F : Word).getLsbD 63 = true ∧ bits (0x800000000000077F : Word) 10 8 ≠ 0
    ∧ bits (0x800000000000077F : Word) 6 0 < 2 ^ bits (0x800000000000077F : Word) 10 8 ∧ (mk false []).pkg.calcfg.getLsbD 63 = true
    ∧ ((mk false []).pkg.optport.get 0 15).getLsbD 63 = false := by
  and_intros <;> decide +kernel

/-- Port 15 in a state, in slot 1, in which it links peer 1; its counts, a packet for peer 1, and one frame granted to a package. -/
def stPort (st marks last bad : Nat) (eg : List EPkt) (missed us given : Nat := 0) : State := { mk false [] with
  pkg := { (mk false []).pkg with optport := [(15, fld 63 1 ||| fld 61 st)] }
  ports := [(15, { marks, last, badRun := bad, missed, markUs := us, given := [(1 + given, 1)] })]
  calSlot := some 1
  calT := 1
  egress := eg }

/-- FabricMarks: service off; the first and the eighth mark; marks of the first and the last slot that may follow; a port
that has missed four marks, or none for 14 µs, and one that has not; a port lost, with another in service. -/
theorem wit_marks : (mk false []).pkg.calcfg.getLsbD 63 = true ∧ ((mk false []).pkg.optport.get 0 15).getLsbD 63 = false
    ∧ (∀ m ∈ [0, 7], ((stPort 1 m 6 0 []).pkg.optport.get 0 15).getLsbD 63 = true ∧ (stPort 1 m 6 0 []).portSt 15 = 1)
    ∧ (if 0 < 7 ∧ 7 = (6 + 1) % 8 then 7 + 1 else 1) = 8 ∧ ((stPort 2 0 0 8 []).pkg.optport.get 0 15).getLsbD 63 = true ∧ (stPort 2 0 0 8 []).portSt 15 = 2
    ∧ (∀ slot ∈ [2, 5], (stPort 2 0 0 6 []).portSt 15 = 2 ∧ (stPort 2 0 0 6 []).calSlot ≠ none ∧ (stPort 2 0 0 6 []).calSlot ≠ some slot
      ∧ (slot + 8 - ((stPort 2 0 0 6 []).calT + 1) % 8) % 8 ≤ 3 ∧ ((stPort 2 0 0 6 []).port 15).badRun < 7)
    ∧ 4 ≤ ((stPort 2 0 0 0 [] 4 0).port 15).missed
    ∧ ((stPort 2 0 0 0 [] 3 0).port 15).missed < 4 ∧ ({ stPort 2 0 0 0 [] 3 0 with homeUs := 13 } : State).homeUs < ((stPort 2 0 0 0 [] 3 0).port 15).markUs + 14
    ∧ ((stPort 2 0 0 0 [] 0 0).port 15).markUs + 14 ≤ ({ stPort 2 0 0 0 [] 0 0 with homeUs := 14 } : State).homeUs
    ∧ (let s := (stPort 2 0 0 8 []).modPkg (fun p => { p with optport := p.optport.set 14 (fld 63 1 ||| fld 61 2) })
      s.portSt 15 = 2 ∧ ∃ q ∈ List.range 16, q ≠ 15 ∧ s.portSt q = 2)
    ∧ 8 ≤ ((stPort 2 0 0 8 []).port 15).badRun := by
  and_intros <;> decide +kernel

/-- A hello for peer 1 and a packet held as relay for it. -/
def aHello : EPkt := { dst := 1, cls := 3, words := [1, 2, 3] }

/-- Port 15 with a number of flits sent and its frames, with and without a grant to give. -/
def stWindow (n : Nat) (give : Bool) : State := { stPort 2 0 0 0 [] with
  ports := [(15, { flits := n })]
  sent := if n = 0 then [] else [(15, 0, [[1]])]
  pkg := { (stPort 2 0 0 0 []).pkg with relaycfg := if give then 0x80000000000001E8 else 0 } }

/-- FrameSending: a packet; none, with no frame sent and a grant or none, and with one. -/
theorem wit_sending : (∀ g ∈ [true, false], ∀ n ∈ [0, 65], (stWindow n g).portSt 15 = 2 ∧ (stWindow n g).calSlot ≠ none ∧ ((stWindow n g).port 15).done = false
      ∧ ((stWindow n g).port 15).flits = n ∧ (stWindow n g).peerOf (stWindow n g).pkgNo 15 1 = some 1)
    ∧ (∀ g ∈ [true, false], ∀ n ∈ [0, 65], ((stWindow n g).pick 15 1).isNone = true ∧ (stWindow n g).grantOut = if g then 488 else 0)
    ∧ ((stWindow 65 true).sent.filter (fun f => f.1 == 15)).getLast? = some (15, 0, [[1]])
    ∧ (stPort 2 0 0 0 [aHello]).portSt 15 = 2 ∧ (stPort 2 0 0 0 [aHello]).calSlot ≠ none ∧ ((stPort 2 0 0 0 [aHello]).port 15).done = false
    ∧ ((stPort 2 0 0 0 [aHello]).port 15).flits ≤ 167616 ∧ (stPort 2 0 0 0 [aHello]).peerOf (stPort 2 0 0 0 [aHello]).pkgNo 15 1 = some 1
    ∧ (stPort 2 0 0 0 [aHello]).pick 15 1 = some (0, aHello, false) ∧ (stPort 2 0 0 0 [aHello]).duePort 1 aHello = 15 ∧ (stPort 2 0 0 0 []).pick 15 1 = none := by
  and_intros <;> decide +kernel

/-- The header of a frame from peer 1 in slot 1, and the words of a packet from it: for package 1 itself or for this one. -/
def frameFrom1 : Word := fld 57 1 ||| fld 47 1 ||| fld 44 1
/-- The words. -/
def wireWords (dst inc : Nat) : List Word := [fld 48 inc, fld 57 1 ||| fld 50 dst, 0]

/-- A bulk answer of peer 1 to packet 9, and the package that awaits it. -/
def bulkAnswer : List Word := [0, fld 57 1 ||| fld 48 2, 2, 9]
def stAsked : State := { stPort 2 0 0 0 [] with net := [{ id := 9, cls := 2, space := .remote 1, kind := .load 64 }] }

/-- FrameArrival: a header that matches and one that does not; a packet to relay, for which one frame is granted to its sender or
none is; one of a wrong incarnation. -/
theorem wit_arrival : (stPort 2 0 0 0 []).portSt 15 = 2 ∧ (stPort 2 0 0 0 []).calSlot ≠ none
    ∧ ((stPort 2 0 0 0 []).peerOf (stPort 2 0 0 0 []).pkgNo 15 ((stPort 2 0 0 0 []).calT % 8) = some 1 ∧ bits frameFrom1 63 57 = 1
      ∧ bits frameFrom1 56 50 = (stPort 2 0 0 0 []).pkgNo ∧ bits frameFrom1 49 47 = (stPort 2 0 0 0 []).lgn ∧ bits frameFrom1 46 44 = (stPort 2 0 0 0 []).calT % 8)
    ∧ bits (0 : Word) 49 47 ≠ (stPort 2 0 0 0 []).lgn
    ∧ (let s := stPort 2 0 0 0 []
      (s.port 15).relayed + wireFlits (wireWords 1 0) ≤ 64 * (s.port 15).given.get 0 (bits frameFrom1 63 57))
    ∧ (let s := stPort 2 0 0 0 [] 0 0 1
      64 * (s.port 15).given.get 0 (bits frameFrom1 63 57) < (s.port 15).relayed + wireFlits (wireWords 1 0))
    ∧ bits ((wireWords 1 0).getD 1 0) 56 50 ≠ (stPort 2 0 0 0 []).pkgNo ∧ bits ((wireWords 0 5).getD 1 0) 56 50 = (stPort 2 0 0 0 []).pkgNo
    ∧ bits ((wireWords 0 5).getD 1 0) 63 57 = 1 ∧ bits ((wireWords 0 5).getD 1 0) 47 44 = 0
    ∧ bits ((wireWords 0 5).getD 0 0) 63 48 ≠ bits ((stPort 2 0 0 0 []).pkg.peers.get 0 1) 47 32
    ∧ (∀ ws ∈ [wireWords 0 5], bits (ws.getD 1 0) 49 48 ≠ 2)
    ∧ bits (bulkAnswer.getD 1 0) 49 48 = 2 ∧ bits (bulkAnswer.getD 1 0) 56 50 = stAsked.pkgNo ∧ bits (bulkAnswer.getD 2 0) 3 0 = 2
    ∧ stAsked.portSt 15 = 2 ∧ stAsked.calSlot ≠ none
    ∧ stAsked.net.find? (fun x => x.space == .remote (bits (bulkAnswer.getD 1 0) 63 57) && x.id == (bulkAnswer.getD 3 0).toNat)
      = some { id := 9, cls := 2, space := .remote 1, kind := .load 64 } := by
  and_intros <;> decide +kernel

/-- A peer with a packet to acknowledge in one class and 64 in the other, acknowledged once in this cycle, a copy that left at 1 µs, and 8 cycles without a hello. -/
def stPeer : State := { stPort 2 0 0 0 [{ dst := 1, cls := 0, words := [1], late := true, age := 65536 }] with
  pairs := [(3, { sinceAck := 1, copies := [(7, [1, 2], 1)] }), (2, { sinceAck := 64, ackAt := 1 })]
  homeUs := 103
  helloAge := [(1, 8)] }

/-- PeerEvents. -/
theorem wit_peers : (stPeer.pkg.peers.get 0 1).getLsbD 63 = true ∧ (stPeer.pairs.get {} (2 * 1 + 1)).sinceAck ≠ 0
    ∧ (stPeer.pairs.get {} (2 * 1 + 1)).copies.find? (fun c => c.1 == 7) = some (7, [1, 2], 1) ∧ 1 + 103 ≤ stPeer.homeUs + 1
    ∧ (stPeer.pairs.get {} 3).ackAt ≠ stPeer.calT / 8 + 1 ∧ 64 ≤ (stPeer.pairs.get {} 2).sinceAck
    ∧ (let x : Pair := { sinceAck := 63, ackAt := 1 }
      ¬64 ≤ x.sinceAck ∧ x.ackAt = stPeer.calT / 8 + 1)
    ∧ (∀ e ∈ stPeer.egress, ¬(e.again = true ∧ e.dst = 1 ∧ e.cls = 1 ∧ e.seq = some 7)) ∧ 1 ≠ stPeer.pkgNo ∧ 1 < 2 ^ stPeer.lgn
    ∧ stPeer.pkg.calcfg.getLsbD 63 = true ∧ 1 ∈ stPeer.linkOwn (stPeer.calT % 8) ∧ stPeer.calSlot ≠ none
    ∧ (∀ x, x < stPeer.calT % 8 → 1 ∉ stPeer.link stPeer.pkgNo x) ∧ stPeer.helloSent.get 0 1 ≠ stPeer.calT / 8 + 1
    ∧ ({ stPeer with helloSent := [(1, stPeer.calT / 8 + 1)] } : State).helloSent.get 0 1 = stPeer.calT / 8 + 1 ∧ 8 ≤ stPeer.helloAge.get 0 1 ∧ stPeer.portSt 15 = 2
    ∧ stPeer.egress[0]? = some { dst := 1, cls := 0, words := [1], late := true, age := 65536 } := by
  and_intros <;> decide +kernel

/-- Device memory with the header of a queue of two entries in its last sector: c items in it, its ring where given. -/
def stQueue (cap c : Nat) (ring : Nat := 0x40000) : State := tabled { mk false [] with
  hbm := memOf (tables ++ [(0xBFFFFFFFC0, 8, ring), (0xBFFFFFFFC8, 8, cap), (0xBFFFFFFFD8, 8, c)]) }

/-- The same with the ring in stack 1, which is in service or not. -/
def stLost (lost : Bool) : State :=
  { (stQueue 1 1).modPkg (fun p => { p with retired := if lost then [1] else [] }) with hbm := (stQueue 1 1).hbm.setNum 0x12000 8 0x1000000073 }

/-- HostMemory: the last 256 bytes, the last sector, the last 8 bytes; two sectors left to read and one; a bad header, a full
queue, one with room; an address that is not aligned. -/
theorem wit_host_memory : (mk false []).hostRange 0xBFFFFFFF00 256 = true ∧ (∀ i, i < 4 → (mk false []).devBad (0xBFFFFFFF00 + 64 * i) 64 = false
      ∧ (mk false []).hostWaits (0xBFFFFFFF00 + 64 * i) = false)
    ∧ (∀ g ∈ [[0, 1, 2], [1]], let s : State := { mk false [] with hostGot := [(0xBFFFFFFF00, g.map (fun i => (i, [])))] }
      s.makeRoom (0xBFFFFFFF00 / 256) 0 = s ∧ ((List.range 4).filter (fun i => !(s.hostGot.get [] 0xBFFFFFFF00).any (fun x => x.1 == i))).length = 4 - g.length
        ∧ (g = [0, 1, 2] → (List.range 4).filter (fun i => !(s.hostGot.get [] 0xBFFFFFFF00).any (fun x => x.1 == i)) = [3]))
    ∧ (mk false []).hostRange 0xBFFFFFFFC0 64 = true ∧ (mk false []).makeRoom (0xBFFFFFFFC0 / 256) 0 = mk false []
    ∧ (mk false []).hostWaits 0xBFFFFFFFC0 = false ∧ (mk false []).devMergeBad (0xBFFFFFFFC0 / 64) ones = false ∧ (mk false []).ords = [] ∧ (mk false []).chains = []
    ∧ linkAtomic 9 1 = true ∧ linkAtomic 4 0 = false ∧ (mk false []).hostRange 0xBFFFFFFFF8 8 = true ∧ (mk false []).hostWaits 0xBFFFFFFFF8 = false
    ∧ (mk false []).makeRoom (0xBFFFFFFFF8 / 256) 0 = mk false []
    ∧ (mk false []).devBad 0xBFFFFFFFF8 8 = false ∧ (∀ c ∈ [(0, 0), (21, 0), (1, 2), (1, 1)], (stQueue c.1 c.2).hostRange 0xBFFFFFFFC0 64 = true
      ∧ (stQueue c.1 c.2).hostWaits 0xBFFFFFFFC0 = false ∧ (stQueue c.1 c.2).devBad 0xBFFFFFFFC0 64 = false
      ∧ (stQueue c.1 c.2).makeRoom (0xBFFFFFFFC0 / 256) 0 = stQueue c.1 c.2)
    ∧ queueBad ((stQueue 0 0).homeWords .dev 0xBFFFFFFFC0 8) = true ∧ queueBad ((stQueue 21 0).homeWords .dev 0xBFFFFFFFC0 8) = true
    ∧ queueBad ((stQueue 1 2).homeWords .dev 0xBFFFFFFFC0 8) = false ∧ ((stQueue 1 2).homeWords .dev 0xBFFFFFFFC0 8).getD 3 0 = 2
    ∧ ((stQueue 1 2).homeWords .dev 0xBFFFFFFFC0 8).getD 2 0 = 0 ∧ ((stQueue 1 2).homeWords .dev 0xBFFFFFFFC0 8).getD 1 0 = 1
    ∧ ((stQueue 1 1).homeWords .dev 0xBFFFFFFFC0 8).getD 3 0 = 1 ∧ queueBad ((stQueue 1 1).homeWords .dev 0xBFFFFFFFC0 8) = false
    ∧ ringAddr ((stQueue 1 1).homeWords .dev 0xBFFFFFFFC0 8) 1 = 0x40040
    ∧ ([false, true].all (fun lost =>
      let s1 := ((stLost lost).hostGo 0xBFFFFFFFC0).devLoad 0xBFFFFFFFC0 64 0
      match s1.ringPlace { pkg := s1.pkgNo, ctx := 0, sys := true } 0x40040 2 with
      | some r => r.space == .dev && r.addr 0x40040 / 64 != 0xBFFFFFFFC0 / 64 && s1.makeRoom (r.addr 0x40040 / 256) r.pol == s1 && s1.ringLost r 0x40040 == lost
      | none => false)) = true
    ∧ (((stQueue 1 1 0x1000000000).hostGo 0xBFFFFFFFC0).devLoad 0xBFFFFFFFC0 64 0).ringPlace { pkg := 0, ctx := 0, sys := true } 0x1000000040 2 = none
    ∧ (mk false []).hostRange 1 64 = false ∧ (mk false []).hostRange 0xC000000000 8 = false := by
  and_intros <;> decide +kernel

/-- HostRegisters: a register of the last slot, one that does not exist, writes enabled, a host access in flight. -/
theorem wit_host_registers : (mk false []).hostCsr 16383 0x2C0 = true ∧ (mk false []).hostCsr 16383 3 = false ∧ (mk false []).hostCsr 16384 0 = false
    ∧ (mk false []).pkg.hostcfg.getLsbD 63 = false ∧ ((mk false []).modPkg (fun p => { p with hostcfg := 0x8000000000000000 })).pkg.hostcfg.getLsbD 63 = true
    ∧ ((mk false []).modPkg (fun p => { p with hostcfg := 0x8000000000000000 })).hostCsr 16383 0x20 = true ∧ (mk false []).csrBusy 0x20 = false
    ∧ csrHolds 0x20 = some 0xFFFFFFFFFFFFFFFE
    ∧ ({ mk false [] with net := [{ id := 9 }] } : State).net.find? (fun p => p.id == 9) = some { id := 9, home := .host } := by
  and_intros <;> decide +kernel

/-- A package that waits for a start. -/
def stStart (cold keep : Bool) : State := { (mk false []).modPkg (fun p => { p with startReq := some (!cold, keep), off := cold, attbusy := true }) with choices := [3] }

/-- StartEvents: a package without power, each start, a quote; a cold start that fails at step 3. -/
theorem wit_starts : (stStart true false).pkg.off = true ∧ (stStart true false).pkg.startReq = some (!true, false) ∧ (stStart false true).pkg.startReq = some (!false, true)
    ∧ (stStart false false).pkg.startReq = some (!false, false) ∧ (mk false []).pkg.startReq = none ∧ (stStart true false).pkg.attbusy = true
    ∧ (stStart true false).startFails true = some (3, 1) := by
  and_intros <;> decide +kernel

/-- StartEvents, a start that completes, for a device whose images are signed. -/
theorem wit_start_completes (h : (stStart false true).signed = true) : (stStart false true).startFails false = none := by
  have hn : (stStart false true).pkg.nextInc.isNone = false := by decide +kernel
  have hc : (stStart false true).choice 8 = 3 := by decide +kernel
  simp [State.startFails, h, hn, hc]

/-- A device with a clock ratio, 1,024 look-ahead words, 1,024 routings and the bins that filled. -/
def stAdapt (r hit : Nat) : State := { mk false [] with
  hedges := [(255, { hclk := r })]
  dies := [(3, { lgPfCount := 1024, lgPf := 4, lgHit := hit })]
  pkg := { (mk false []).pkg with rtRuns := 1024, hintq := 0x40000, fills := [(7, 2), (65534, 3)] } }

/-- AdaptiveControl: both ends of the clock ratio; hits under a half, over three quarters and between. -/
theorem wit_adaptive : (∀ r ∈ [32, 64], 32 ≤ ((stAdapt r 1).hedge 255).hclk ∧ ((stAdapt r 1).hedge 255).hclk ≤ 64)
    ∧ 1024 ≤ ((stAdapt 32 1).die 3).lgPfCount ∧ 1 ≤ ((stAdapt 32 1).die 3).lgthr ∧ 2 * ((stAdapt 32 1).die 3).lgHit < ((stAdapt 32 1).die 3).lgPf
    ∧ 3 * ((stAdapt 32 4).die 3).lgPf < 4 * ((stAdapt 32 4).die 3).lgHit
    ∧ ((stAdapt 32 2).die 3).lgPf ≤ 2 * ((stAdapt 32 2).die 3).lgHit ∧ 4 * ((stAdapt 32 3).die 3).lgHit ≤ 3 * ((stAdapt 32 3).die 3).lgPf
    ∧ (∀ x ∈ (stAdapt 32 1).pkg.fills, x.2 ≤ (stAdapt 32 1).pkg.fills.get 0 65534)
    ∧ 1024 ≤ (stAdapt 32 1).pkg.rtRuns ∧ (stAdapt 32 1).pkg.hintq ≠ 0 := by
  and_intros <;> decide +kernel

/-- A service of a unit is asked for. -/
def stService (op k : Nat) (ret : List Nat) (drained : Bool) : State := { mk false [] with
  hedges := [(hedgePos 255, { drained := drained })]
  pkg := { (mk false []).pkg with svcctl := fld 63 1 ||| fld 60 op ||| fld 0 k, retired := ret } }

/-- LiveService: an idle hedge, one with a thread, a drained one and one in service, the last stack, a stack to return and one that
is in use, each with its operation. -/
theorem wit_service : (∀ op, op < 6 → (stService op 11 [] false).pkg.svcctl.getLsbD 63 = true ∧ bits (stService op 11 [] false).pkg.svcctl 62 60 = op)
    ∧ (stService 0 255 [] false).hedgeIdle (hedgePos (stService 0 255 [] false).svcUnit) = true
    ∧ (stService 0 0 [] false).hedgeIdle (hedgePos (stService 0 0 [] false).svcUnit) = false
    ∧ ((stService 1 255 [] true).hedge (hedgePos (stService 1 255 [] true).svcUnit)).drained = true
    ∧ ((stService 1 255 [] false).hedge (hedgePos (stService 1 255 [] false).svcUnit)).drained = false ∧ (stService 2 11 [] false).svcUnit = 11
    ∧ (stService 3 11 [11] false).retired (2 ^ 36 * 11) = true ∧ (stService 3 11 [11] false).hbm.wf = true ∧ (stService 3 11 [] false).retired (2 ^ 36 * 11) = false := by
  and_intros <;> decide +kernel

/-- A pre-emption operation on the hedge at the origin and context 0, for a thread that rests or waits for an answer; with the
header of an image in device memory at 0x20000. -/
def stPreempt (op : Nat) (busy : Bool) (hdr : List (Nat × Nat × Nat)) (len : Nat) (imgs : List Image) : State := tabled { mk false [] with
  hbm := memOf (tables ++ hdr)
  hedges := [(0, { pmaps := [(0, [32768])] })]
  replies := if busy then [{ id := 9, src := { uid := 1 } }] else []
  cores := if busy then [(0, coreOf false [])] else []
  images := imgs
  pkg := { (mk false []).pkg with prectl := fld 63 1 ||| fld 61 op, prerect := fld 45 4 ||| fld 38 4, preimg := 0x20000, prelen := BitVec.ofNat 64 len } }

/-- The header of an image of no cores, jobs and launches: format 1, the rectangle of stPreempt, a length. -/
def preHeader (f len : Nat) : List (Nat × Nat × Nat) := [(0x20000, 8, f), (0x20008, 8, (fld 45 4 ||| fld 38 4).toNat), (0x20018, 8, len)]

/-- PreemptionEvents: a thread that does not rest yet, one that does; headers of each kind; an area that cannot be read. -/
theorem wit_preemption : (∀ op ∈ [0, 1, 2], ∀ b ∈ [true, false], (stPreempt op b [] 0 []).pkg.prectl.getLsbD 63 = true ∧ bits (stPreempt op b [] 0 []).pkg.prectl 62 61 = op
      ∧ (stPreempt op b [] 0 []).pkg.preOn = false ∧ ((stPreempt op b [] 0 []).preBegin.stopWork 0).stopped 0 = !b)
    ∧ ((stPreempt 1 false [] 0 []).modPkg (fun p => { p with preimg := 0x1000000000 })).readArea 0x1000000000 8 = none
    ∧ ((stPreempt 1 false (preHeader 2 64) 64 []).readArea 0x20000 8).map (fun h => bits (h.getD 0 0) 15 0) = some 2
    ∧ ((stPreempt 1 false (preHeader 1 65) 64 []).readArea 0x20000 8).map (fun h => (bits (h.getD 0 0) 15 0, bits (h.getD 0 0) 63 33, bits (h.getD 0 0) 31 16,
        h.getD 1 0, (h.getD 3 0).toNat)) = some (1, 0, 0, (stPreempt 1 false [] 0 []).pkg.prerect, 65)
    ∧ (stPreempt 1 false (preHeader 1 64) 64 []).mapOk 256 0 0 0 4 4 = false := by
  and_intros <;> decide +kernel

/-- An image of no cores under the header of stPreempt. -/
def theImage : Image :=
  { no := 0, away := true, hdr := [1, fld 45 4 ||| fld 38 4, 0, 64, 0, 0, 0, 0], cores := [], jobs := [], launches := [], barriers := [], chains := [], ords := [], thickets := [] }

/-- Context 0 has a placement map in device memory that maps hedge 0. -/
def placed (hdr : List (Nat × Nat × Nat)) : List (Nat × Nat × Nat) := [(0x1010, 8, 0x14001), (0x14000, 2, 32768)] ++ hdr

/-- PreemptionEvents, a restore that succeeds: for a device whose own image format adds nothing beyond header, lines and workspaces
to image 0 (log 20), the image is found, the map covers its rectangle and its slots are ready. -/
theorem wit_restore (h : Config.imageMore 0 = 0) : (stPreempt 1 false (placed (preHeader 1 64)) 64 [theImage]).findImage theImage.hdr = some theImage := by
  have hl : theImage.len = 64 := by simp [Image.len, theImage, h]
  have hb : theImage.body = [] := by simp [Image.body, hl]
  have hi : (stPreempt 1 false (placed (preHeader 1 64)) 64 [theImage]).images = [theImage] := rfl
  have hr : ∀ s : State, ∀ a : Nat, (theImage.hdr == theImage.hdr && (match s.readArea a ((theImage.len - 64) / 8) with
      | some b => b == theImage.body
      | none => false)) = true := by
    intro s a
    rw [hl, hb]
    rfl
  unfold State.findImage
  rw [hi]
  exact List.find?_cons_of_pos (hr _ _)

/-- The same state: the header is read, the map covers the rectangle, the slots are ready. -/
theorem wit_restore_ready : (stPreempt 1 false (placed (preHeader 1 64)) 64 [theImage]).readArea 0x20000 8 = some theImage.hdr
    ∧ (stPreempt 1 false (placed (preHeader 1 64)) 64 [theImage]).mapOk 256 0 0 0 4 4 = true
    ∧ (stPreempt 1 false (placed (preHeader 1 64)) 64 [theImage]).slotsReady 0 theImage = true ∧ theImage.cores = [] := by
  and_intros <;> decide +kernel

/-- The same with an image of one core that owns the last workspace, which is free there or not, and with the incremental bit. -/
theorem wit_restore_workspaces : (∀ free ∈ [true, false],
      let s := (stPreempt 1 false (placed (preHeader 1 64)) 64 []).modCore 0 (fun c => { c with wsfree1 := if free then 0x8000000000000000 else 0 })
      s.place 256 0 0 = some 0 ∧ (s.coreAt 0).isFree 127 = free)
    ∧ (let s := (stPreempt 1 false (placed (preHeader 1 64)) 64 [theImage]).modPkg (fun p => { p with prectl := p.prectl ||| fld 60 1 })
      s.pkg.prectl.getLsbD 60 = true ∧ s.pkg.prectl.getLsbD 63 = true ∧ bits s.pkg.prectl 62 61 = 1) := by
  and_intros <;> decide +kernel

/-- ClockTicks: a queued job; a header with a budget and one without; a packet that waits to leave. -/
theorem wit_ticks : (jQueued 0).holds = true ∧ (stMsg 0 (fld 17 0xFFFF) [] [] []).net[0]? = some (theMsg 0 (fld 17 0xFFFF) [])
    ∧ (stMsg 0 (fld 17 1) [] [] []).net[0]? = some (theMsg 0 (fld 17 1) []) ∧ stPeer.egress ≠ [] := by
  and_intros <;> decide +kernel

/-- UncorrectableErrors: a sector at hand, a running job, a packet, a fresh task in the last core's queue. -/
theorem wit_errors : ({ mk false [] with llc := [(0xBFFFFFFFC0 / 64, {})] } : State).llc.has (0xBFFFFFFFFF / 64) = true ∧ (stJ (jb 0 [])).jobNo 5 = some (jb 0 [])
    ∧ (jb 0 []).live = true ∧ (∃ p ∈ stRecall.net, p.id = 9)
    ∧ (∀ a ∈ [64, 2 ^ 32 - 1], let e := { anEntry true with th := { (anEntry true).th with uid := a } }
      let s := (mk false []).modCore 4095 (fun c => { c with rq := [e] })
      (s.coreAt 4095).rq.find? (fun e => e.th.uid == a) = some e ∧ e.fresh = true ∧ e.th.launch = none ∧ e.th.chain = none ∧ s.whereIs a = none
        ∧ ∀ c ∈ s.cores, c.1 ≠ 4095 → ∀ x ∈ c.2.rq, x.th.uid ≠ a) := by
  and_intros <;> decide +kernel

end Sys2Proof.Tests
end

