-- ==== Sys2Proof/Tests/WitnessStep.lean ====
section
/-! SUPPORT. Witnesses for the statements about select, address and division, about decoding and about steps of a core, an
engine and an event. -/

namespace Sys2Proof.Tests

open Sys2Proof Sys2Proof.Machine

set_option Elab.async false

/-- The thread of the tests with syllables of code in device memory at its PC, and one move of the schedule. -/
def stCode (ws : List Nat) (m : Move) : State :=
  { mk false (regs3 7 9 0) with hbm := memOf (ws.zipIdx.map (fun w => (0x1000 + 4 * w.2, 4, w.1))), sched := [m] }

/-- The same when the move has been taken. -/
def stCoded (ws : List Nat) : State := { stCode ws (.core 0 false) with sched := [] }

/-- The lines of the instruction cache that a fetch of syllables uses. -/
def linesOf (ws : List Syll) : List (Nat × Syll) := ws.zipIdx.map (fun w => (0x400 + w.2, w.1))

theorem issues_of_test (u : State) (ws : List Syll) (tl : List TlbEntry) (ends : Bool)
    (h1 : (!u.halted && (u.slotAt 0 (u.turnOf 0)).runnable && !u.thStopped 0 (u.thAt 0 (u.turnOf 0)) && (u.thAt 0 (u.turnOf 0)).deadline == none
      && (u.thAt 0 (u.turnOf 0)).trapNext == none && !(u.turned 0 false).outOfRound (u.thAt 0 (u.turnOf 0))) = true)
    (h2 : (u.turned 0 false).fetchGroup (hedgeOf 0) (u.thAt 0 (u.turnOf 0)).ctx (u.thAt 0 (u.turnOf 0)).sys 4 (u.thAt 0 (u.turnOf 0)).pc [] [] [] = .ok ws tl (linesOf ws) ends) :
    Issues u 0 false ws tl (linesOf ws) ends := by
  simp only [Bool.and_eq_true, Bool.not_eq_true', beq_iff_eq] at h1
  obtain ⟨⟨⟨⟨⟨h3, h4⟩, h5⟩, h6⟩, h7⟩, h8⟩ := h1
  exact ⟨h3, h4, h5, .inr h6, h7, h8, h2⟩

/-- An illegal func of major 0x02: the checks of SelectRule. -/
theorem wit_select_trap_runs : ((stCoded [0x84000001]).slotAt 0 ((stCoded [0x84000001]).turnOf 0)).st = .running
    ∧ swRa ((stCoded [0x84000001]).thAt 0 ((stCoded [0x84000001]).turnOf 0)).sw = false ∧ bits (0x84000001 : Syll) 30 25 = 2 ∧ bits (0x84000001 : Syll) 4 0 ≠ 0 := by
  and_intros <;> decide +kernel

/-- The fetch of that group. -/
theorem wit_select_trap : Issues (stCoded [0x84000001]) 0 false [0x84000001] [leaf] (linesOf [0x84000001]) true :=
  issues_of_test _ _ _ _ (by decide +kernel) (by decide +kernel)

/-- Two syllables, the last ending the group; and four without a stop bit. -/
theorem wit_groups : Issues (stCoded [0x02308800, 0x86407FFF]) 0 false [0x02308800, 0x86407FFF] [leaf, leaf] (linesOf [0x02308800, 0x86407FFF]) true :=
  issues_of_test _ _ _ _ (by decide +kernel) (by decide +kernel)

/-- Its instructions decode, are legal and run on, the slot not stalled. -/
theorem wit_group_runs :
    (match decodeAll ((stCoded [0x02308800, 0x86407FFF]).fetched 0 false [leaf, leaf] (linesOf [0x02308800, 0x86407FFF]) 0).curPfx 0 [0x02308800, 0x86407FFF] with
      | .ok is => is == [.add 3 1 2, .addi 4 0 (-1)]
      | .error _ => false) = true
    ∧ illegalAt 2 false [] [.add 3 1 2, .addi 4 0 (-1)] = none
    ∧ (match runGroup [.add 3 1 2, .addi 4 0 (-1)] ((stCoded [0x02308800, 0x86407FFF]).fetched 0 false [leaf, leaf] (linesOf [0x02308800, 0x86407FFF]) 1) with
      | .next t => !(t.slotAt 0 0).stalled && (t.coreAt 0).reg 0 3 == 16 && (t.coreAt 0).reg 0 4 == BitVec.allOnes 64
      | _ => false) = true := by
  and_intros <;> decide +kernel

/-- One syllable: `addi w1, w1, -1`. -/
theorem wit_single : Issues (stCoded [0x8610FFFF]) 0 false [0x8610FFFF] [leaf] (linesOf [0x8610FFFF]) true :=
  issues_of_test _ _ _ _ (by decide +kernel) (by decide +kernel)

/-- It decodes, is legal and runs on. -/
theorem wit_single_runs : decodeWith ((stCoded [0x8610FFFF]).fetched 0 false [leaf] (linesOf [0x8610FFFF]) 0).curPfx 0x8610FFFF = some (.addi 1 1 (-1))
    ∧ illegalAt 1 false [] [.addi 1 1 (-1)] = none
    ∧ (match exec (.addi 1 1 (-1)) ((stCoded [0x8610FFFF]).fetched 0 false [leaf] (linesOf [0x8610FFFF]) 0) with
      | .next t => !(t.slotAt 0 0).stalled
      | _ => false) = true := by
  and_intros <;> decide +kernel

/-- The fetch of one syllable from device memory. -/
theorem wit_fetch : canonical (0x1000 : Word) = true ∧ bits (0x1000 : Word) 1 0 = 0 ∧ (stCoded [0x8610FFFF]).inAperture 0x1000 = false
    ∧ (stCoded [0x8610FFFF]).remotePkg 0x1000 = none ∧ (stCoded [0x8610FFFF]).translated 0 0 false 0x1000 4 = .ok (.dev 0x1000 0) [leaf]
    ∧ ((stCoded [0x8610FFFF]).hedge 0).icache = [] ∧ (stCoded [0x8610FFFF]).devBad 0x1000 4 = false
    ∧ (stCoded [0x8610FFFF]).fetch 0 0 false 0x1000 = .ok 0x8610FFFF [leaf] 0x400 ∧ (0x8610FFFF : Syll).getLsbD 31 = true := by
  and_intros <;> decide +kernel

/-- A job at a word that decodes and at one that does not; an event. -/
theorem wit_engine : ([(0x8005 : EWord), 0].all (fun w => let j := { jb 0 [] with prog := [w] }
      !(stJ j).halted && (stJ j).jobNo 5 == some j && j.live && !(stJ j).jobStopped j && decide (j.ip < j.prog.length))) = true
    ∧ (decodeEngine 0x8005).toOption = some (.lit 5) ∧ (decodeEngine 0).toOption = none ∧ (Instr.taskStart 4095 3).isEvent = true := by
  and_intros <;> decide +kernel

/-- SelectRule and AddressRule: every register class as operand, the port fields among them. -/
theorem wit_select : (Instr.sel 29 30 31 3).wf = true ∧ aloneB (mk false (regs3 5 6 0)) = true ∧ (mk false (regs3 5 6 0)).fed [1, 2, 3]
    ∧ (mk false (regs3 5 6 0)).fed [30, 31, 3] ∧ (Instr.lea 27 0 31 3).wf = true ∧ (mk false (regs3 5 6 0)).fed [0, 31]
    ∧ bits (0x84000000 ||| 0x20 : Syll) 30 25 = 2 ∧ bits (0x84000000 ||| 0x20 : Syll) 4 0 = 0
    ∧ bits (0x98000007 : Syll) 30 25 = 12 ∧ bits (0x98000007 : Syll) 9 0 = 4 + (3 : BitVec 2).toNat := by
  and_intros <;> decide +kernel

/-- MemoryCanonical: a state whose memories are canonical and that steps on. -/
theorem wit_canonical : (stCode [0x8610FFFF] (.core 0 false)).memOk
    ∧ (match step (stCode [0x8610FFFF] (.core 0 false)) with | .next _ => true | _ => false) = true := by
  and_intros <;> decide +kernel

/-- MemoryCanonical: the local memories of the same state are canonical. -/
theorem wit_canonical_local : (stCode [0x8610FFFF] (.core 0 false)).localOk := by
  intro n
  by_cases h : n = 0
  · subst h; decide +kernel
  · have hn : ((stCode [0x8610FFFF] (.core 0 false)).coreAt n).lmem = [] := by
      simp [State.coreAt, stCode, mk, Tbl.get, Ne.symm h]
    rw [hn]; rfl

/-- DecodeEncode: a syllable with its stop bit, an engine word. -/
theorem wit_encode : (Instr.bext 5 1 37 5).wf = true ∧ encodeSyllable (.bext 5 1 37 5) true = some 0x9A50CA28 ∧ (Instr.lit 0x7FFF).wf = true
    ∧ encodeEngine (.lit 0x7FFF) = some 0xFFFF ∧ (Instr.bext 5 1 37 5).isSyllable = true ∧ (Instr.lit 5).isEngineWord = true := by
  and_intros <;> decide +kernel

end Sys2Proof.Tests
end

/-! The family of the scalar instructions (04): division, sel and lea. -/

namespace Sys2Proof.Machine

/-! ### Scalar results for any list of source fields (R15, R59, R61) -/

/-- The source fields of a syllable, staged one after another, pop the ports among them in order. -/
theorem Alone.use_foldl {s : State} (h : Alone s) {src : List Reg} (hf : s.fed src) (fx : Fx) :
    src.foldl (fun f r => s.use r f) fx = { fx with pops := fx.pops ++ portsOf src } := by
  induction src generalizing fx with
  | nil => simp [portsOf]
  | cons r l ih =>
    obtain ⟨hr, hl⟩ := State.fed_cons.1 hf
    rw [List.foldl_cons, h.use hr, ih hl, List.append_assoc, portsOf_append, List.singleton_append]

/-- A syllable that stages its source fields and then a scalar destination completes with the value there, whether its
result is there at once or later. -/
theorem finish_put_retires {s : State} (h : Alone s) {src : List Reg} (hf : s.fed src) (d : Reg) (v : Word) (late : List Nat) :
    Leaves (s.finish { s.put d v (src.foldl (fun f r => s.use r f) s.fx0) with late := late })
      (Retires s { pops := portsOf src, reg := some (d, v), warn := fallAll s.curPfx }) := by
  refine finish_retires h { pops := portsOf src, reg := some (d, v), warn := fallAll s.curPfx } late ?_ (.inl rfl)
  rw [h.put, h.use_foldl hf, h.fx0]
  unfold Result.fx
  by_cases hd : d = 0 <;> simp only [hd, if_true, if_false, List.nil_append, List.map_nil]

/-- Two-operand arithmetic whose result comes later completes with its value in d (R61). -/
theorem alu2Long_retires {s : State} (h : Alone s) {d a b : Reg} (hf : s.fed [a, b]) (f : Word → Word → Word) :
    Leaves (alu2Long s d a b f)
      (Retires s { pops := portsOf [a, b], reg := some (d, f (s.val a) (s.val b)), warn := fallAll s.curPfx }) :=
  finish_put_retires h hf d _ _

/-! ### Division (R63) -/

/-- The signed quotient is the exact one rounded toward zero, as a word; the one exact quotient that is no signed word
wraps around to the dividend. -/
theorem sdiv_eq_ofInt_tdiv (a b : Word) : a.sdiv b = ofInt (a.toInt.tdiv b.toInt) :=
  BitVec.eq_of_toInt_eq (by rw [BitVec.toInt_sdiv, ofInt, BitVec.toInt_ofInt])

/-- The signed remainder is what the quotient leaves of the dividend. -/
theorem srem_eq_ofInt_sub (a b : Word) : a.srem b = ofInt (a.toInt - a.toInt.tdiv b.toInt * b.toInt) := by
  rw [Int.mul_comm, ← Int.tmod_def, ← BitVec.toInt_srem, ofInt, BitVec.ofInt_toInt]

theorem divRem_signed (a b : Word) : divRem true a b = (quotient true a b, remainder true a b) := by
  by_cases hb : b = 0
  · simp [divRem, quotient, remainder, hb, ofInt]
  · have hb' : b.toInt ≠ 0 := fun h => hb (BitVec.eq_of_toInt_eq h)
    by_cases hover : a.toInt = -2 ^ 63 ∧ b.toInt = -1
    · obtain ⟨rfl, rfl⟩ : a = BitVec.intMin 64 ∧ b = -1 := ⟨BitVec.eq_of_toInt_eq hover.1, BitVec.eq_of_toInt_eq hover.2⟩
      decide
    · have hover' : (a.toInt == -(2 ^ 63) && b.toInt == -1) = false := by simpa using hover
      simp only [divRem, quotient, remainder, if_true, hb, hb', if_false, Bool.true_and, hover', Bool.false_eq_true,
        sdiv_eq_ofInt_tdiv, srem_eq_ofInt_sub]

theorem divRem_unsigned (a b : Word) : divRem false a b = (quotient false a b, remainder false a b) := by
  by_cases hb : b = 0
  · simp [divRem, quotient, remainder, hb, ofInt]
  · have hb' : (b.toNat : Int) ≠ 0 := fun h => hb (BitVec.eq_of_toNat_eq (Int.ofNat.inj h))
    have hq : ofInt ((a.toNat : Int).tdiv b.toNat) = a / b := by
      rw [← Int.ofNat_tdiv, ofInt, BitVec.ofInt_natCast, BitVec.udiv_def]
    have hr : ofInt ((a.toNat : Int) - (a.toNat : Int).tdiv b.toNat * b.toNat) = a % b := by
      rw [Int.mul_comm, ← Int.tmod_def, ← Int.ofNat_tmod, ofInt, BitVec.ofInt_natCast, BitVec.umod_def]
    simp only [divRem, quotient, remainder, hb, hb', if_false, Bool.false_and, Bool.false_eq_true, hq, hr]

/-- Quotient and remainder of unsigned words are those of the numbers. -/
theorem unsigned_quotient_remainder (a : Word) {b : Word} (hb : b ≠ 0) :
    (quotient false a b).toNat * b.toNat + (remainder false a b).toNat = a.toNat
      ∧ (remainder false a b).toNat < b.toNat := by
  have hpos : 0 < b.toNat := Nat.pos_of_ne_zero fun h => hb (BitVec.eq_of_toNat_eq h)
  simp only [quotient, remainder, hb, if_false, Bool.false_eq_true, BitVec.toNat_udiv, BitVec.toNat_umod]
  exact ⟨Nat.div_add_mod' _ _, Nat.mod_lt _ hpos⟩

/-- A remainder of rounding toward zero is zero or has the sign of the dividend. -/
theorem tmod_eq_zero_or_sign (x y : Int) : x.tmod y = 0 ∨ (x.tmod y < 0 ↔ x < 0) := by
  rw [← Int.sign_eq_neg_one_iff_neg, ← Int.sign_eq_neg_one_iff_neg, ← Int.dvd_iff_tmod_eq_zero, Int.sign_tmod]
  by_cases h : y ∣ x
  · exact .inl h
  · exact .inr (by rw [if_neg h])

/-- Quotient and remainder of signed words, but for the one quotient that is no signed word, are those of the numbers:
rounded toward zero, the remainder with the sign of the dividend. -/
theorem signed_quotient_remainder {a b : Word} (hb : b ≠ 0) (hover : ¬(a = BitVec.intMin 64 ∧ b = -1)) :
    (quotient true a b).toInt * b.toInt + (remainder true a b).toInt = a.toInt
      ∧ (remainder true a b).toInt.natAbs < b.toInt.natAbs
      ∧ ((remainder true a b).toInt = 0 ∨ ((remainder true a b).toInt < 0 ↔ a.toInt < 0)) := by
  have hpos : 0 < b.toInt.natAbs := Int.natAbs_pos.2 fun h => hb (BitVec.eq_of_toInt_eq h)
  simp only [quotient, remainder, hb, if_false, if_true, BitVec.toInt_srem,
    BitVec.toInt_sdiv_of_ne_or_ne a b (Decidable.not_and_iff_not_or_not.1 hover), Int.natAbs_tmod]
  exact ⟨Int.tdiv_mul_add_tmod _ _, Nat.mod_lt _ hpos, tmod_eq_zero_or_sign _ _⟩

/-- Settles O1: each division is the long two-operand form with the value of divRem, which is R63's quotient or
remainder for every pair of words. -/
theorem divisionLaw : Obligations.DivisionLaw := by
  refine ⟨fun s d a b h _ hf => ?_, fun a b => ⟨unsigned_quotient_remainder a, signed_quotient_remainder, ?_, ?_⟩⟩
  · have hs := divRem_signed (s.val a) (s.val b)
    have hu := divRem_unsigned (s.val a) (s.val b)
    have hdiv := alu2Long_retires (d := d) h hf (fun x y => (divRem true x y).1)
    have hdivu := alu2Long_retires (d := d) h hf (fun x y => (divRem false x y).1)
    have hrem := alu2Long_retires (d := d) h hf (fun x y => (divRem true x y).2)
    have hremu := alu2Long_retires (d := d) h hf (fun x y => (divRem false x y).2)
    simp only [hs, hu] at hdiv hdivu hrem hremu
    exact ⟨hdiv, hdivu, hrem, hremu⟩
  · decide
  · simp [quotient, remainder]

/-! ### The fields of a syllable (R25, R27) -/

theorem major_toNat (w : Syll) : w.major.toNat = bits w 30 25 := BitVec.extractLsb'_toNat ..

theorem f5_eq_zero_iff (w : Syll) : w.f5 = 0 ↔ bits w 4 0 = 0 := by
  rw [← BitVec.toNat_inj, BitVec.extractLsb'_toNat]
  rfl

theorem ff_toNat (w : Syll) : w.ff.toNat = bits w 9 0 := BitVec.extractLsb'_toNat ..

theorem decodeFields_major02 {w : Syll} (hm : bits w 30 25 = 2) : decodeFields w = decode02 w := by
  simp only [decodeFields, major_toNat, hm]

theorem decodeFields_major0C {w : Syll} (hm : bits w 30 25 = 12) : decodeFields w = decode0C w := by
  simp only [decodeFields, major_toNat, hm]

theorem decodeSyllable_of_fields {w : Syll} {i : Instr} (hd : decodeFields w = .ok i) (hw : i.wf = true) :
    decodeSyllable w = .ok i := by
  simp [decodeSyllable, hd, hw]

theorem decode02_sel {w : Syll} (hf : bits w 4 0 = 0) : decode02 w = .ok (.sel w.fd w.fa w.fb w.fc) :=
  if_pos ((f5_eq_zero_iff w).2 hf)

/-- Every func of major 0x02 but 0 is reserved (R64). -/
theorem decodeSyllable_major02_reserved {w : Syll} (hm : bits w 30 25 = 2) (hf : bits w 4 0 ≠ 0) :
    decodeSyllable w = .error .reservedFunc := by
  have hd : decode02 w = .error .reservedFunc := if_neg (mt (f5_eq_zero_iff w).1 hf)
  simp [decodeSyllable, decodeFields_major02 hm, hd]

theorem decode0C_lea {w : Syll} {k : BitVec 2} (hf : bits w 9 0 = 4 + k.toNat) :
    decode0C w = .ok (.lea w.fd w.fa w.fb k) := by
  have hcases : ∀ k : BitVec 2, k = 0 ∨ k = 1 ∨ k = 2 ∨ k = 3 := by decide
  unfold decode0C
  rw [ff_toNat, hf]
  rcases hcases k with rfl | rfl | rfl | rfl <;> rfl

/-! ### A group of one syllable that stands for no instruction (R33, R120, R350) -/

/-- A slot that has taken a trap, or whose task has ended in a double trap, does not stall. -/
theorem takeTrap_not_stalled (s : State) (n k : Nat) (t : TrapInfo) (pc sw : Word) :
    ((s.takeTrap n k t pc sw).slotAt n k).stalled = false := by
  unfold State.takeTrap
  dsimp only
  split
  · rw [State.leaveSlot, State.freeSlot, State.slotAt_modSlot_self]
  · rw [State.slotAt_modSlot_self]

/-- The slot whose turn it is when it is about to be tried. -/
theorem slotAt_turned (u : State) (n : Nat) (late : Bool) :
    (u.turned n late).slotAt n (u.turnOf n) = { u.slotAt n (u.turnOf n) with stalled := false, waitAt := none } :=
  State.slotAt_modSlot_self u n (u.turnOf n) (fun x => { x with stalled := false, waitAt := none })

theorem thAt_turned (u : State) (n : Nat) (late : Bool) :
    (u.turned n late).thAt n (u.turnOf n) = u.thAt n (u.turnOf n) := by
  simp only [State.thAt, slotAt_turned]

theorem decodeAll_undecoded {w : Syll} {e : DecodeError} (hw : decodeSyllable w = .error e) (p : Option (BitVec 24)) (k : Nat) :
    decodeAll p k [w] = .error k := by
  simp only [decodeAll, decodeWith, hw]

/-- An illegal-syllable trap that comes before a group of a task outside run-ahead mode is taken at once (R350). -/
theorem trapBefore_takes {s : State} (hst : (s.slotAt s.core s.slot).st = .running) (hra : swRa s.th.sw = false) (a : Word) :
    s.trapBefore { code := 1, addr := a }
      = .next (State.takeTrap { s with grp := {} } s.core s.slot { code := 1, addr := a } s.th.pc s.th.sw) := by
  have hst' : (State.slotAt { s with grp := {} } s.core s.slot).st = .running := hst
  have hra' : swRa (State.slotAt { s with grp := {} } s.core s.slot).th.sw = false := hra
  simp only [State.trapBefore, State.commit, hst', hra']
  rfl

section
variable {u : State} {n : Nat} {late ends : Bool} {w : Syll} {ws : List Syll} {tl : List TlbEntry} {ls : List (Nat × Syll)}

/-- The state of a core whose group of one syllable stands for no instruction, after its trap (R29, R352). -/
def State.undecoded (u : State) (n : Nat) (late : Bool) (tl : List TlbEntry) (ls : List (Nat × Syll)) : State :=
  let th := u.thAt n (u.turnOf n)
  State.takeTrap { u.fetched n late tl ls 0 with grp := {} } n (u.turnOf n) { code := 1, addr := th.pc } th.pc th.sw

/-- A group of one syllable that stands for no instruction takes the illegal-syllable trap at its PC (R29, R33). -/
theorem Issues.tryGroup_undecoded (h : Issues u n late [w] tl ls ends) (hst : (u.slotAt n (u.turnOf n)).st = .running)
    (hra : swRa (u.thAt n (u.turnOf n)).sw = false) {e : DecodeError} (hw : decodeSyllable w = .error e) :
    u.tryGroup n (u.turnOf n) late = .next (u.undecoded n late tl ls) := by
  have hst' : ((u.turned n late).slotAt n (u.turnOf n)).st = .running := by rw [slotAt_turned]; exact hst
  have hth : ((u.turned n late).keepFetch (hedgeOf n) tl ls).th = u.thAt n (u.turnOf n) := thAt_turned u n late
  have htrap := trapBefore_takes (s := (u.turned n late).keepFetch (hedgeOf n) tl ls) hst' (by rw [hth]; exact hra)
    (u.thAt n (u.turnOf n)).pc
  unfold State.tryGroup
  extract_lets _ s t early
  have hs : s = u.turned n late := rfl
  have ht : t = u.thAt n (u.turnOf n) := thAt_turned u n late
  have hnone : early = none := by
    rcases h.onTime with hsys | hdl
    · simp only [early, ht, hsys, if_true, h.noTrap]
    · simp only [early, ht, hdl, ite_self, h.noTrap]
  simp only [hnone, hs, ht, h.inRound, Bool.false_eq_true, if_false, h.fetch, decodeAll_undecoded hw, Nat.mul_zero, BitVec.add_zero]
  rw [htrap, hth]
  rfl

/-- A core whose slot in turn takes a group to its end issues in this cycle, and the next slot has the next turn (R120). -/
theorem Issues.issue_of_tryGroup (h : Issues u n late ws tl ls ends) {t : State}
    (ht : u.tryGroup n (u.turnOf n) late = .next t) (hgo : (t.slotAt n (u.turnOf n)).stalled = false) :
    u.issue n late = u.cycled n (.next t) := by
  have hready : ((u.slotAt n (u.turnOf n)).runnable && !u.thStopped n (u.thAt n (u.turnOf n))) = true := by
    rw [h.runs, h.going]; rfl
  have hptr : ((u.coreAt n).ptr + 1) % 4 = (u.turnOf n + 1) % 4 := (Nat.mod_add_mod ..).symm
  have hturn : (u.coreAt n).ptr % 4 = u.turnOf n := rfl
  simp only [State.issue, State.issueFrom, hturn, hready, if_true, ht, hgo, Bool.false_eq_true, if_false, hptr, State.cycled]

/-- A move of the schedule that names a core of a package that runs is a cycle of it (R120). -/
theorem step_core {s : State} {r : List Move} (hs : s.sched = .core n late :: r) (hp : s.halted = false) :
    step s = State.issue { s with sched := r } n late := by
  have hp' : State.halted { s with sched := r } = false := hp
  simp only [step, hs, State.move, hp', Bool.false_eq_true, if_false]

end

/-- Settles O18: major 0x02 decodes to sel with func 0 and traps with every other; sel reads three fields and writes one. -/
theorem selectRule : Obligations.SelectRule := by
  refine ⟨fun w hm => ⟨fun hf hw => ?_, fun hf s r n late tl ls ends hs => ?_⟩, fun s d a b c h _ hf => ?_⟩
  · exact decodeSyllable_of_fields ((decodeFields_major02 hm).trans (decode02_sel hf)) hw
  · intro u th hi hst hra
    have htry := hi.tryGroup_undecoded hst hra (decodeSyllable_major02_reserved hm hf)
    exact (step_core hs hi.powered).trans (hi.issue_of_tryGroup htry (takeTrap_not_stalled ..))
  · rw [ite_not]
    exact finish_put_retires h hf d _ _

/-! ### Addresses (R69) -/

/-- Settles O19: the four funcs of lea differ in the shift only, and lea is a two-operand form. -/
theorem addressRule : Obligations.AddressRule := by
  refine ⟨fun w k hm hf hw => ?_, fun s d a b k h _ hf => ?_⟩
  · exact decodeSyllable_of_fields ((decodeFields_major0C hm).trans (decode0C_lea hf)) hw
  · exact alu2_retires h hf (fun x y => x + y <<< k.toNat)

end Sys2Proof.Machine
